-- ==== Sys2Proof/Word.lean ====
section
/-!
DEFINITION. The words of the machine and the sparse keyed lists that hold its sparse data.
-/

namespace Sys2Proof

/-- A 32-bit register or instruction word. -/
abbrev Word := BitVec 32
/-- A 64-bit register pair, address or counter. -/
abbrev DWord := BitVec 64
/-- A byte of memory or scratchpad. -/
abbrev Byte := BitVec 8
/-- One bit per lane of a warp. -/
abbrev Mask := BitVec 32

/-- A sparse map: pairs of key and value, keys strictly rising. -/
abbrev KMap (α : Type) := List (Nat × α)

namespace KMap

variable {α : Type}

/-- The value stored under a key. -/
def find? : KMap α → Nat → Option α
  | [], _ => none
  | (k', v) :: t, k => if k' = k then some v else find? t k

/-- Store a value under a key, keeping the keys rising. -/
def insert (k : Nat) (v : α) : KMap α → KMap α
  | [] => [(k, v)]
  | (k', v') :: t =>
    if k < k' then (k, v) :: (k', v') :: t
    else if k' = k then (k, v) :: t
    else (k', v') :: insert k v t

/-- Remove a key. -/
def erase (k : Nat) : KMap α → KMap α
  | [] => []
  | (k', v') :: t => if k' = k then erase k t else (k', v') :: erase k t

/-- The value under a key, or a default for a key that is not listed. -/
def getD (m : KMap α) (k : Nat) (d : α) : α := (m.find? k).getD d

/-- Store a value in a map whose unlisted keys read as `d`: storing `d` removes the entry. -/
def setD [DecidableEq α] (m : KMap α) (k : Nat) (v d : α) : KMap α :=
  if v = d then erase k m else insert k v m

/-- Change the value under a key, where there is one. -/
def modify (m : KMap α) (k : Nat) (f : α → α) : KMap α :=
  match m.find? k with
  | some v => insert k (f v) m
  | none => m

/-- The keys in rising order. -/
def keys (m : KMap α) : List Nat := m.map Prod.fst

/-- The values in rising order of their keys. -/
def vals (m : KMap α) : List α := m.map Prod.snd

/-- The keys rise strictly. -/
def sorted : KMap α → Bool
  | [] => true
  | [_] => true
  | (k, _) :: (k', v') :: t => decide (k < k') && sorted ((k', v') :: t)

/-- The canonical form of a map whose unlisted keys read as `d`. -/
def canon [DecidableEq α] (m : KMap α) (d : α) : Bool :=
  sorted m && m.all (fun e => decide (e.2 ≠ d))

end KMap

/-- The 32-bit half `i` (0 low, 1 high) of a pair. -/
def half (v : DWord) (i : Nat) : Word := (v >>> (32 * i)).setWidth 32

/-- A pair from its low and high words. -/
def pair (lo hi : Word) : DWord := hi ++ lo

end Sys2Proof
end

