-- ==== Sys2Proof/Syntax.lean ====
section
/-!
DEFINITION. The instructions and events of the machine as syntax: operand codes, code tables and `Instr`.
-/

namespace Sys2Proof

/-- Predicate p0-p6. -/
abbrev PReg := Fin 7
/-- Queue q0-q7. -/
abbrev QReg := Fin 8

/-- The guard field [24:22] (07 R154): always, or one of p0-p6. -/
inductive Guard where
  | always
  | p (n : PReg)
  deriving DecidableEq, Repr

/-- A predicate field of the L format (07 R157): code 7 reads as true and discards a result. -/
inductive PSel where
  | p (n : PReg)
  | pt
  deriving DecidableEq, Repr

/-- The destination of a compare (07 R157): discarded, one predicate, or a pair p0:1, p2:3, p4:5. -/
inductive CDst where
  | discard
  | one (n : PReg)
  | two (k : Fin 3)
  deriving DecidableEq, Repr

/-- A 7-bit operand code (07 R164); code 127 is none. -/
inductive Operand where
  | reg (n : Fin 112)
  | ix (n : Fin 4)
  | q (n : QReg)
  | zero
  | lit
  | sq
  deriving DecidableEq, Repr

/-- Compare codes (07 R169). -/
inductive Cmp where
  | eq | ne | lt | le | gt | ge | any | none
  deriving DecidableEq, Repr

/-- Rounding modes (03 R68). -/
inductive RM where
  | rne | rz | ru | rd
  deriving DecidableEq, Repr

/-- Scopes (06 R130). -/
inductive Scope where
  | thread | warp | block | cluster | die | device | system
  deriving DecidableEq, Repr

/-- Access widths (07 R171). -/
inductive Width where
  | u8 | s8 | u16 | s16 | w32 | w64 | w128
  deriving DecidableEq, Repr

/-- Cache policies (04 R90). -/
inductive Policy where
  | default | stream | l2 | keep | noalloc
  deriving DecidableEq, Repr

/-- Atomic operations (07 R172). -/
inductive AtomOp where
  | addI32 | addI64 | addF32 | addF64 | minI32 | maxI32 | minN32 | maxN32
  | and32 | or32 | xor32 | exch32 | exch64 | cas32 | cas64 | incN32 | decN32
  | minF64 | maxF64 | addBf16x2 | addF16x2
  deriving DecidableEq, Repr

/-- Selectors of `gets` (07 R173). -/
inductive GetsSel where
  | lane | warp | split | blockX | blockY | blockZ | gridX | gridY | gridZ
  | cpos | core | die | depth | wver | fpflags | clock | fpmode | fptrap
  deriving DecidableEq, Repr

/-- Selectors of `sets` (07 R173). -/
inductive SetsSel where
  | wver | fpmode | fpclear | fptrap | fpflags
  deriving DecidableEq, Repr

/-- How a UALink response ends a pod-remote access: performed, refused by the switch plane (04 R85), denied by the
owning package (27 R485), or poisoned there (25 R453). -/
inductive PodReply where
  | done | error | denied | poison
  deriving DecidableEq, Repr

/-- Where an uncorrectable error strikes (25 R450, 27 R484, R498). Corrected errors name the counter they
are counted in (25 R448). -/
inductive StorageErr where
  | correctedCore (die : Nat)
  | correctedL2 (die : Nat)
  | correctedHbm (die : Nat)
  | reg (core slot w lane r : Nat)
  | scratch (core slot granule : Nat)
  | l1 (core sector : Nat)
  | matrix (core cell : Nat)
  | l2 (die sector : Nat)
  | hbm (sector : Nat)
  | region (asid r page : Nat)
  deriving DecidableEq, Repr

/-- A violation that freezes a master (27 R484): class, code, id, context and address. -/
structure Violation where
  cls : Nat
  code : Nat
  id : Nat
  asid : Nat
  pa : Nat
  deriving DecidableEq, Repr

/-- One reading of a die's sensors (17 R396): temperatures, droop events and supply per core, oscillators. -/
structure Readings where
  temp : List (BitVec 16)
  droop : List (BitVec 16)
  vcore : List (BitVec 16)
  rosc : List (BitVec 32)
  deriving DecidableEq, Repr

/-- One constructor per row of the opcode table: first the words of 07_encoding.md R170 (prefix words
included, which are instructions of their own here), then the operations and events of the table, each
with what identifies it (a queue, a core, the data of a transaction). -/
inductive Instr where
  /-- R162. Prefix that adds a 23-bit chunk to the literal read by the next instruction's lit operand -/
  | pfxLit (l : BitVec 23)
  /-- R162. Prefix that adds a signed 23-bit byte offset to the address of the next M, V or K instruction -/
  | pfxOff (o : BitVec 23)
  /-- R160. Prefix that sets the scope, saturation, non-blocking and rounding overrides of the next instruction -/
  | pfxMod (scv : Option (BitVec 3)) (sat : Bool) (nb : Option PReg) (rm : Option RM)
  /-- R161. Prefix that sets issue priority, branch likelihood and yield hints for the next instruction -/
  | pfxHint (prv : Bool) (pri : BitVec 3) (likely : Bool) (yld : Bool)
  /-- R179. 32-bit wrapping add per lane -/
  | addI32 (g : Guard) (d : Operand) (a : Operand) (b : Operand)
  /-- R179. 32-bit wrapping subtract per lane -/
  | subI32 (g : Guard) (d : Operand) (a : Operand) (b : Operand)
  /-- R180. Adds a sign-extended 8-bit immediate to a 32-bit register -/
  | addiI32 (g : Guard) (d : Operand) (a : Operand) (i : BitVec 8)
  /-- R179. 64-bit wrapping add on register pairs -/
  | addI64 (g : Guard) (d : Operand) (a : Operand) (b : Operand)
  /-- R179. 64-bit wrapping subtract on register pairs -/
  | subI64 (g : Guard) (d : Operand) (a : Operand) (b : Operand)
  /-- R179. Low 32 bits of the product -/
  | mulI32 (g : Guard) (d : Operand) (a : Operand) (b : Operand)
  /-- R179. Low 32 bits of a times b plus d -/
  | madI32 (g : Guard) (d : Operand) (a : Operand) (b : Operand)
  /-- R179. High 32 bits of the signed 64-bit product -/
  | mulhiI32 (g : Guard) (d : Operand) (a : Operand) (b : Operand)
  /-- R179. High 32 bits of the unsigned 64-bit product -/
  | mulhiN32 (g : Guard) (d : Operand) (a : Operand) (b : Operand)
  /-- R179. Full signed 64-bit product into a pair -/
  | mulwideI32 (g : Guard) (d : Operand) (a : Operand) (b : Operand)
  /-- R179. Full unsigned 64-bit product into a pair -/
  | mulwideN32 (g : Guard) (d : Operand) (a : Operand) (b : Operand)
  /-- R179. Signed 32-bit minimum -/
  | minI32 (g : Guard) (d : Operand) (a : Operand) (b : Operand)
  /-- R179. Signed 32-bit maximum -/
  | maxI32 (g : Guard) (d : Operand) (a : Operand) (b : Operand)
  /-- R179. Unsigned 32-bit minimum -/
  | minN32 (g : Guard) (d : Operand) (a : Operand) (b : Operand)
  /-- R179. Unsigned 32-bit maximum -/
  | maxN32 (g : Guard) (d : Operand) (a : Operand) (b : Operand)
  /-- R179. Bitwise AND -/
  | and (g : Guard) (d : Operand) (a : Operand) (b : Operand)
  /-- R179. Bitwise a AND NOT b -/
  | andn (g : Guard) (d : Operand) (a : Operand) (b : Operand)
  /-- R179. Bitwise OR -/
  | or (g : Guard) (d : Operand) (a : Operand) (b : Operand)
  /-- R179. Bitwise XOR -/
  | xor (g : Guard) (d : Operand) (a : Operand) (b : Operand)
  /-- R179. Logical shift left by b mod 32 -/
  | shl (g : Guard) (d : Operand) (a : Operand) (b : Operand)
  /-- R179. Logical shift right by b mod 32 -/
  | shr (g : Guard) (d : Operand) (a : Operand) (b : Operand)
  /-- R179. Arithmetic shift right by b mod 32 -/
  | sra (g : Guard) (d : Operand) (a : Operand) (b : Operand)
  /-- R179. Rotate left by b mod 32 -/
  | rotl (g : Guard) (d : Operand) (a : Operand) (b : Operand)
  /-- R180. Shift left by an immediate amount -/
  | shli (g : Guard) (d : Operand) (a : Operand) (n : BitVec 6)
  /-- R180. Logical shift right by an immediate amount -/
  | shri (g : Guard) (d : Operand) (a : Operand) (n : BitVec 6)
  /-- R180. Arithmetic shift right by an immediate amount -/
  | srai (g : Guard) (d : Operand) (a : Operand) (n : BitVec 6)
  /-- R180. Rotate left by an immediate amount -/
  | rotli (g : Guard) (d : Operand) (a : Operand) (n : BitVec 6)
  /-- R180. AND with a zero-extended 6-bit immediate -/
  | andi (g : Guard) (d : Operand) (a : Operand) (i : BitVec 6)
  /-- R180. OR with a zero-extended 6-bit immediate -/
  | ori (g : Guard) (d : Operand) (a : Operand) (i : BitVec 6)
  /-- R180. XOR with a zero-extended 6-bit immediate -/
  | xori (g : Guard) (d : Operand) (a : Operand) (i : BitVec 6)
  /-- R181. Signed bit-field extract -/
  | bfeI32 (g : Guard) (d : Operand) (a : Operand) (b : Operand)
  /-- R181. Unsigned bit-field extract -/
  | bfeN32 (g : Guard) (d : Operand) (a : Operand) (b : Operand)
  /-- R181. Bit-field insert of a into d -/
  | bfi (g : Guard) (d : Operand) (a : Operand) (b : Operand)
  /-- R179. Signed division truncating toward zero -/
  | divI32 (g : Guard) (d : Operand) (a : Operand) (b : Operand)
  /-- R179. Unsigned division -/
  | divN32 (g : Guard) (d : Operand) (a : Operand) (b : Operand)
  /-- R179. Signed remainder -/
  | remI32 (g : Guard) (d : Operand) (a : Operand) (b : Operand)
  /-- R179. Unsigned remainder -/
  | remN32 (g : Guard) (d : Operand) (a : Operand) (b : Operand)
  /-- R180. Writes a sign-extended 15-bit immediate -/
  | movi (g : Guard) (d : Operand) (i : BitVec 15)
  /-- R182. 32-bit register move -/
  | mov (g : Guard) (d : Operand) (a : Operand)
  /-- R182. 64-bit pair move -/
  | mov64 (g : Guard) (d : Operand) (a : Operand)
  /-- R182. Bitwise complement -/
  | not (g : Guard) (d : Operand) (a : Operand)
  /-- R182. 32-bit two's-complement negation -/
  | negI32 (g : Guard) (d : Operand) (a : Operand)
  /-- R182. 32-bit absolute value -/
  | absI32 (g : Guard) (d : Operand) (a : Operand)
  /-- R182. Population count of 32 bits -/
  | popc (g : Guard) (d : Operand) (a : Operand)
  /-- R182. Leading zeros of 32 bits -/
  | clz (g : Guard) (d : Operand) (a : Operand)
  /-- R182. Trailing zeros of 32 bits -/
  | ctz (g : Guard) (d : Operand) (a : Operand)
  /-- R182. Bit reversal of 32 bits -/
  | brev (g : Guard) (d : Operand) (a : Operand)
  /-- R182. Sign-extends the low byte -/
  | sext8 (g : Guard) (d : Operand) (a : Operand)
  /-- R182. Sign-extends the low half-word -/
  | sext16 (g : Guard) (d : Operand) (a : Operand)
  /-- R182. Zero-extends the low byte -/
  | zext8 (g : Guard) (d : Operand) (a : Operand)
  /-- R182. Zero-extends the low half-word -/
  | zext16 (g : Guard) (d : Operand) (a : Operand)
  /-- R182. 64-bit negation of a pair -/
  | negI64 (g : Guard) (d : Operand) (a : Operand)
  /-- R182. Population count of a pair -/
  | popc64 (g : Guard) (d : Operand) (a : Operand)
  /-- R182. Leading zeros of a pair -/
  | clz64 (g : Guard) (d : Operand) (a : Operand)
  /-- R224. Signed 32-bit integer to FP64, exact -/
  | cvtF64I32 (g : Guard) (d : Operand) (a : Operand)
  /-- R224. Unsigned 32-bit integer to FP64, exact -/
  | cvtF64N32 (g : Guard) (d : Operand) (a : Operand)
  /-- R224. Signed 64-bit integer to FP64, rounded -/
  | cvtF64I64 (g : Guard) (d : Operand) (a : Operand)
  /-- R224. FP64 to signed 32-bit integer under R79 -/
  | cvtI32F64 (g : Guard) (d : Operand) (a : Operand)
  /-- R224. FP64 to unsigned 32-bit integer under R79 -/
  | cvtN32F64 (g : Guard) (d : Operand) (a : Operand)
  /-- R224. FP64 to signed 64-bit integer under R79 -/
  | cvtI64F64 (g : Guard) (d : Operand) (a : Operand)
  /-- R224. Signed 32-bit integer to FP32, rounded -/
  | cvtF32I32 (g : Guard) (d : Operand) (a : Operand)
  /-- R224. FP32 to signed 32-bit integer under R79 -/
  | cvtI32F32 (g : Guard) (d : Operand) (a : Operand)
  /-- R224. FP64 to FP32, rounded -/
  | cvtF32F64 (g : Guard) (d : Operand) (a : Operand)
  /-- R224. FP32 to FP64, exact -/
  | cvtF64F32 (g : Guard) (d : Operand) (a : Operand)
  /-- R224. FP32 to FP16, rounded, optional saturation -/
  | cvtF16F32 (g : Guard) (d : Operand) (a : Operand)
  /-- R224. FP16 to FP32, exact -/
  | cvtF32F16 (g : Guard) (d : Operand) (a : Operand)
  /-- R224. FP32 to BF16, rounded, optional saturation -/
  | cvtBf16F32 (g : Guard) (d : Operand) (a : Operand)
  /-- R224. BF16 to FP32, exact -/
  | cvtF32Bf16 (g : Guard) (d : Operand) (a : Operand)
  /-- R186. Reads a from lane b mod 32 -/
  | lxFrom (g : Guard) (d : Operand) (a : Operand) (b : Operand)
  /-- R186. Reads a from lane i XOR b -/
  | lxMix (g : Guard) (d : Operand) (a : Operand) (b : Operand)
  /-- R186. Reads a from lane i minus b -/
  | lxBack (g : Guard) (d : Operand) (a : Operand) (b : Operand)
  /-- R186. Reads a from lane i plus b -/
  | lxFwd (g : Guard) (d : Operand) (a : Operand) (b : Operand)
  /-- R187. 1 when a is nonzero in every lane of exec -/
  | xlAll (g : Guard) (d : Operand) (a : Operand)
  /-- R187. 1 when a is nonzero in some lane of exec -/
  | xlAny (g : Guard) (d : Operand) (a : Operand)
  /-- R187. Mask of exec lanes with nonzero a -/
  | xlBits (g : Guard) (d : Operand) (a : Operand)
  /-- R187. 1 when every exec lane holds the same a -/
  | xlSame (g : Guard) (d : Operand) (a : Operand)
  /-- R187. Mask of exec lanes holding the lane's own a -/
  | xlPeers (g : Guard) (d : Operand) (a : Operand)
  /-- R187. Wrapping sum of a over exec -/
  | xlAddI32 (g : Guard) (d : Operand) (a : Operand)
  /-- R187. Signed minimum of a over exec -/
  | xlMinI32 (g : Guard) (d : Operand) (a : Operand)
  /-- R187. Signed maximum of a over exec -/
  | xlMaxI32 (g : Guard) (d : Operand) (a : Operand)
  /-- R187. Bitwise AND of a over exec -/
  | xlAnd (g : Guard) (d : Operand) (a : Operand)
  /-- R187. Bitwise OR of a over exec -/
  | xlOr (g : Guard) (d : Operand) (a : Operand)
  /-- R187. Bitwise XOR of a over exec -/
  | xlXor (g : Guard) (d : Operand) (a : Operand)
  /-- R187. Writes 2^i minus 1 to lane i -/
  | xlBelow (g : Guard) (d : Operand)
  /-- R183. Writes an index register from a -/
  | ixset (g : Guard) (a : Operand) (x : Fin 4)
  /-- R183. Adds a to the OFF field of an index register modulo 512 -/
  | ixadd (g : Guard) (a : Operand) (x : Fin 4)
  /-- R183. Reads an index register into d -/
  | ixget (g : Guard) (d : Operand) (x : Fin 4)
  /-- R184. Reads a special value chosen by the selector -/
  | gets (g : Guard) (d : Operand) (s : GetsSel)
  /-- R185. Writes wver or a floating-point control word chosen by the selector -/
  | sets (g : Guard) (a : Operand) (s : SetsSel)
  /-- R209. Correctly rounded FP64 add -/
  | addF64 (g : Guard) (d : Operand) (a : Operand) (b : Operand)
  /-- R209. Correctly rounded FP64 subtract -/
  | subF64 (g : Guard) (d : Operand) (a : Operand) (b : Operand)
  /-- R209. Correctly rounded FP64 multiply -/
  | mulF64 (g : Guard) (d : Operand) (a : Operand) (b : Operand)
  /-- R210. FP64 fused multiply-add a times b plus d -/
  | fmaF64 (g : Guard) (d : Operand) (a : Operand) (b : Operand)
  /-- R210. FP64 fused a times b minus d -/
  | fmsF64 (g : Guard) (d : Operand) (a : Operand) (b : Operand)
  /-- R210. FP64 fused minus a times b plus d -/
  | fnmaF64 (g : Guard) (d : Operand) (a : Operand) (b : Operand)
  /-- R75. FP64 minimumNumber -/
  | minF64 (g : Guard) (d : Operand) (a : Operand) (b : Operand)
  /-- R75. FP64 maximumNumber -/
  | maxF64 (g : Guard) (d : Operand) (a : Operand) (b : Operand)
  /-- R211. Correctly rounded FP64 division -/
  | divF64 (g : Guard) (d : Operand) (a : Operand) (b : Operand)
  /-- R212. FP64 a times 2 to the signed integer b -/
  | scaleF64 (g : Guard) (d : Operand) (a : Operand) (b : Operand)
  /-- R216. Inverts the FP64 sign bit -/
  | negF64 (g : Guard) (d : Operand) (a : Operand)
  /-- R216. Clears the FP64 sign bit -/
  | absF64 (g : Guard) (d : Operand) (a : Operand)
  /-- R216. Correctly rounded FP64 square root -/
  | sqrtF64 (g : Guard) (d : Operand) (a : Operand)
  /-- R216. Correctly rounded FP64 reciprocal -/
  | rcpF64 (g : Guard) (d : Operand) (a : Operand)
  /-- R221. Approximate FP64 reciprocal square root -/
  | rsqEstF64 (g : Guard) (d : Operand) (a : Operand)
  /-- R217. FP64 floor -/
  | floorF64 (g : Guard) (d : Operand) (a : Operand)
  /-- R217. FP64 ceiling -/
  | ceilF64 (g : Guard) (d : Operand) (a : Operand)
  /-- R217. FP64 truncation toward zero -/
  | truncF64 (g : Guard) (d : Operand) (a : Operand)
  /-- R217. FP64 round to integer in the effective mode -/
  | rintF64 (g : Guard) (d : Operand) (a : Operand)
  /-- R218. FP64 class mask -/
  | classF64 (g : Guard) (d : Operand) (a : Operand)
  /-- R219. Unbiased exponent of an FP64 value -/
  | getexpF64 (g : Guard) (d : Operand) (a : Operand)
  /-- R219. Significand of an FP64 value -/
  | getmantF64 (g : Guard) (d : Operand) (a : Operand)
  /-- R213. Correctly rounded FP32 add -/
  | addF32 (g : Guard) (d : Operand) (a : Operand) (b : Operand)
  /-- R213. Correctly rounded FP32 subtract -/
  | subF32 (g : Guard) (d : Operand) (a : Operand) (b : Operand)
  /-- R213. Correctly rounded FP32 multiply -/
  | mulF32 (g : Guard) (d : Operand) (a : Operand) (b : Operand)
  /-- R213. FP32 fused multiply-add -/
  | fmaF32 (g : Guard) (d : Operand) (a : Operand) (b : Operand)
  /-- R214. Paired FP32 add -/
  | addF32x2 (g : Guard) (d : Operand) (a : Operand) (b : Operand)
  /-- R214. Paired FP32 multiply -/
  | mulF32x2 (g : Guard) (d : Operand) (a : Operand) (b : Operand)
  /-- R214. Paired FP32 fused multiply-add -/
  | fmaF32x2 (g : Guard) (d : Operand) (a : Operand) (b : Operand)
  /-- R214. Paired FP32 fused negated multiply-add -/
  | fnmaF32x2 (g : Guard) (d : Operand) (a : Operand) (b : Operand)
  /-- R75. FP32 minimumNumber -/
  | minF32 (g : Guard) (d : Operand) (a : Operand) (b : Operand)
  /-- R75. FP32 maximumNumber -/
  | maxF32 (g : Guard) (d : Operand) (a : Operand) (b : Operand)
  /-- R213. Correctly rounded FP32 division -/
  | divF32 (g : Guard) (d : Operand) (a : Operand) (b : Operand)
  /-- R213. FP32 a times 2 to the signed integer b -/
  | scaleF32 (g : Guard) (d : Operand) (a : Operand) (b : Operand)
  /-- R220. Inverts the FP32 sign bit -/
  | negF32 (g : Guard) (d : Operand) (a : Operand)
  /-- R220. Clears the FP32 sign bit -/
  | absF32 (g : Guard) (d : Operand) (a : Operand)
  /-- R220. Correctly rounded FP32 square root -/
  | sqrtF32 (g : Guard) (d : Operand) (a : Operand)
  /-- R220. Correctly rounded FP32 reciprocal -/
  | rcpF32 (g : Guard) (d : Operand) (a : Operand)
  /-- R221. Approximate FP32 reciprocal square root -/
  | rsqEstF32 (g : Guard) (d : Operand) (a : Operand)
  /-- R221. Approximate FP32 base-2 exponential -/
  | exp2EstF32 (g : Guard) (d : Operand) (a : Operand)
  /-- R221. Approximate FP32 base-2 logarithm -/
  | log2EstF32 (g : Guard) (d : Operand) (a : Operand)
  /-- R223. Approximate FP32 sine -/
  | sinEstF32 (g : Guard) (d : Operand) (a : Operand)
  /-- R223. Approximate FP32 cosine -/
  | cosEstF32 (g : Guard) (d : Operand) (a : Operand)
  /-- R221. Approximate FP32 hyperbolic tangent -/
  | tanhEstF32 (g : Guard) (d : Operand) (a : Operand)
  /-- R217. FP32 floor -/
  | floorF32 (g : Guard) (d : Operand) (a : Operand)
  /-- R217. FP32 ceiling -/
  | ceilF32 (g : Guard) (d : Operand) (a : Operand)
  /-- R217. FP32 truncation toward zero -/
  | truncF32 (g : Guard) (d : Operand) (a : Operand)
  /-- R217. FP32 round to integer in the effective mode -/
  | rintF32 (g : Guard) (d : Operand) (a : Operand)
  /-- R218. FP32 class mask -/
  | classF32 (g : Guard) (d : Operand) (a : Operand)
  /-- R215. Paired FP16 fused multiply-add -/
  | fmaF16x2 (g : Guard) (d : Operand) (a : Operand) (b : Operand)
  /-- R215. Paired BF16 fused multiply-add -/
  | fmaBf16x2 (g : Guard) (d : Operand) (a : Operand) (b : Operand)
  /-- R215. Paired FP16 add -/
  | addF16x2 (g : Guard) (d : Operand) (a : Operand) (b : Operand)
  /-- R215. Paired FP16 multiply -/
  | mulF16x2 (g : Guard) (d : Operand) (a : Operand) (b : Operand)
  /-- R215. Paired BF16 add -/
  | addBf16x2 (g : Guard) (d : Operand) (a : Operand) (b : Operand)
  /-- R215. Paired BF16 multiply -/
  | mulBf16x2 (g : Guard) (d : Operand) (a : Operand) (b : Operand)
  /-- R225. Four-element E4M3 dot product accumulated into FP32 with one rounding -/
  | dot4E4m3 (g : Guard) (d : Operand) (a : Operand) (b : Operand)
  /-- R225. Four-element E5M2 dot product into FP32 -/
  | dot4E5m2 (g : Guard) (d : Operand) (a : Operand) (b : Operand)
  /-- R225. Four-element E3M2 dot product into FP32 -/
  | dot4E3m2 (g : Guard) (d : Operand) (a : Operand) (b : Operand)
  /-- R225. Eight-element E2M1 dot product into FP32 -/
  | dot8E2m1 (g : Guard) (d : Operand) (a : Operand) (b : Operand)
  /-- R227. Four-element INT8 dot product, wrapping -/
  | dot4I8 (g : Guard) (d : Operand) (a : Operand) (b : Operand)
  /-- R227. Eight-element INT4 dot product, wrapping -/
  | dot8I4 (g : Guard) (d : Operand) (a : Operand) (b : Operand)
  /-- R225. Two-element FP16 dot product into FP32 -/
  | dot2F16 (g : Guard) (d : Operand) (a : Operand) (b : Operand)
  /-- R225. Two-element BF16 dot product into FP32 -/
  | dot2Bf16 (g : Guard) (d : Operand) (a : Operand) (b : Operand)
  /-- R228. Converts two FP32 values to packed E4M3 -/
  | pk2E4m3 (g : Guard) (d : Operand) (a : Operand) (b : Operand)
  /-- R228. Converts two FP32 values to packed E5M2 -/
  | pk2E5m2 (g : Guard) (d : Operand) (a : Operand) (b : Operand)
  /-- R228. Converts two FP32 values to packed E2M1 -/
  | pk2E2m1 (g : Guard) (d : Operand) (a : Operand) (b : Operand)
  /-- R228. Converts two FP32 values to packed INT4 -/
  | pk2I4 (g : Guard) (d : Operand) (a : Operand) (b : Operand)
  /-- R228. Converts two FP32 values to packed E3M2 -/
  | pk2E3m2 (g : Guard) (d : Operand) (a : Operand) (b : Operand)
  /-- R228. Converts two FP32 values to packed INT8 -/
  | pk2I8 (g : Guard) (d : Operand) (a : Operand) (b : Operand)
  /-- R230. Unpacks one E4M3 element to FP32 -/
  | upkE4m3 (g : Guard) (d : Operand) (a : Operand) (e : Fin 4)
  /-- R230. Unpacks one E5M2 element to FP32 -/
  | upkE5m2 (g : Guard) (d : Operand) (a : Operand) (e : Fin 4)
  /-- R230. Unpacks one E3M2 element to FP32 -/
  | upkE3m2 (g : Guard) (d : Operand) (a : Operand) (e : Fin 4)
  /-- R230. Unpacks one E2M1 element to FP32 -/
  | upkE2m1 (g : Guard) (d : Operand) (a : Operand) (e : Fin 8)
  /-- R230. Unpacks one INT8 element to FP32 -/
  | upkI8 (g : Guard) (d : Operand) (a : Operand) (e : Fin 4)
  /-- R230. Unpacks one INT4 element to FP32 -/
  | upkI4 (g : Guard) (d : Operand) (a : Operand) (e : Fin 8)
  /-- R230. Unpacks one FP16 element to FP32 -/
  | upkF16 (g : Guard) (d : Operand) (a : Operand) (e : Fin 2)
  /-- R230. Unpacks one BF16 element to FP32 -/
  | upkBf16 (g : Guard) (d : Operand) (a : Operand) (e : Fin 2)
  /-- R230. Decodes one k8 scale byte to FP32 -/
  | upkK8 (g : Guard) (d : Operand) (a : Operand) (e : Fin 4)
  /-- R188. Signed 32-bit compare into predicates -/
  | setpI32 (g : Guard) (p : CDst) (c : Cmp) (a : Operand) (b : Operand)
  /-- R188. Unsigned 32-bit compare into predicates -/
  | setpN32 (g : Guard) (p : CDst) (c : Cmp) (a : Operand) (b : Operand)
  /-- R188. Signed 64-bit compare into predicates -/
  | setpI64 (g : Guard) (p : CDst) (c : Cmp) (a : Operand) (b : Operand)
  /-- R188. Unsigned 64-bit compare into predicates -/
  | setpN64 (g : Guard) (p : CDst) (c : Cmp) (a : Operand) (b : Operand)
  /-- R188. FP64 compare into predicates -/
  | setpF64 (g : Guard) (p : CDst) (c : Cmp) (a : Operand) (b : Operand)
  /-- R188. FP32 compare into predicates -/
  | setpF32 (g : Guard) (p : CDst) (c : Cmp) (a : Operand) (b : Operand)
  /-- R189. Predicate AND -/
  | pand (g : Guard) (p : PSel) (x : PSel) (y : PSel)
  /-- R189. Predicate OR -/
  | por (g : Guard) (p : PSel) (x : PSel) (y : PSel)
  /-- R189. Predicate XOR -/
  | pxor (g : Guard) (p : PSel) (x : PSel) (y : PSel)
  /-- R189. Predicate pa AND NOT pb -/
  | pandn (g : Guard) (p : PSel) (x : PSel) (y : PSel)
  /-- R189. Predicate pa OR NOT pb -/
  | porn (g : Guard) (p : PSel) (x : PSel) (y : PSel)
  /-- R189. Predicate NOT -/
  | pnot (g : Guard) (p : PSel) (x : PSel)
  /-- R189. Predicate move -/
  | pmov (g : Guard) (p : PSel) (x : PSel)
  /-- R189. Sets a predicate true -/
  | pset (g : Guard) (p : PSel)
  /-- R189. Sets a predicate false -/
  | pclr (g : Guard) (p : PSel)
  /-- R190. Copies the lane's predicates into a register -/
  | p2v (g : Guard) (d : Operand)
  /-- R190. Sets the lane's predicates from register bits -/
  | v2p (g : Guard) (a : Operand)
  /-- R190. Writes the mask of exec lanes whose predicate is true -/
  | pmask (g : Guard) (d : Operand) (k : PReg)
  /-- R191. Branch, diverging the split when the guard differs across lanes -/
  | bra (g : Guard) (t : BitVec 13) (r : BitVec 9)
  /-- R192. Pushes the return PC and branches -/
  | call (g : Guard) (t : BitVec 13)
  /-- R194. Pops the call stack and continues there, or exits at depth 0 -/
  | ret (g : Guard)
  /-- R194. Ends the lanes of exec -/
  | exit (g : Guard)
  /-- R193. Indirect jump to per-lane targets, peeling one target per pass -/
  | jmpr (g : Guard) (a : Operand)
  /-- R193. Indirect call to per-lane targets -/
  | callr (g : Guard) (a : Operand)
  /-- R195. Gives up issue until every other ready split of the quadrant has had a turn -/
  | yield (g : Guard)
  /-- R196. Parks the split until the warp's live lanes gather -/
  | wsync (g : Guard)
  /-- R195. Writes the split-table index -/
  | splitId (g : Guard) (d : Operand)
  /-- R195. Writes the split's exec mask -/
  | splitMask (g : Guard) (d : Operand)
  /-- R199. Arrives at a numbered barrier without waiting -/
  | barArrive (g : Guard) (a : Operand) (n : BitVec 4)
  /-- R199. Waits for the warp's barrier phase to complete -/
  | barWait (g : Guard) (a : Operand) (n : BitVec 4)
  /-- R199. Arrives at a numbered barrier and waits -/
  | barSync (g : Guard) (a : Operand) (n : BitVec 4)
  /-- R200. Arrives at a cluster barrier -/
  | cbarArrive (g : Guard) (a : Operand) (n : BitVec 3)
  /-- R200. Waits on a cluster barrier phase -/
  | cbarWait (g : Guard) (a : Operand) (n : BitVec 3)
  /-- R200. Arrives at a cluster barrier and waits -/
  | cbarSync (g : Guard) (a : Operand) (n : BitVec 3)
  /-- R202. Initialises an arrival barrier object -/
  | abarInit (g : Guard) (d : Operand) (a : Operand)
  /-- R202. Adds expected bytes for a source of an arrival barrier -/
  | abarOwe (g : Guard) (d : Operand) (a : Operand)
  /-- R202. Arrives lanes at an arrival barrier and returns phase tokens -/
  | abarArrive (g : Guard) (d : Operand) (a : Operand)
  /-- R202. Blocks until the arrival barrier phase changes or it is invalidated -/
  | abarWait (g : Guard) (d : Operand) (a : Operand)
  /-- R202. Tests whether the arrival barrier phase has completed -/
  | abarTest (g : Guard) (d : Operand) (a : Operand)
  /-- R204. Invalidates an arrival barrier, releases waiters and marks its copies -/
  | abarInval (g : Guard) (a : Operand)
  /-- R205. Blocks the split until a ptime deadline -/
  | sleep (g : Guard) (a : Operand)
  /-- R205. No effect -/
  | nop (g : Guard)
  /-- R233. Global load of the given width and policy per lane -/
  | ld (g : Guard) (d : Operand) (a : Operand) (w : Width) (p : Policy)
  /-- R233. Global store of the given width and policy per lane -/
  | st (g : Guard) (d : Operand) (a : Operand) (w : Width) (p : Policy)
  /-- R233. Scratchpad load per lane -/
  | ldSp (g : Guard) (d : Operand) (a : Operand) (w : Width)
  /-- R233. Scratchpad store per lane -/
  | stSp (g : Guard) (d : Operand) (a : Operand) (w : Width)
  /-- R120. Versioned 4-byte load that faults on an unpublished or racked version -/
  | ldv32 (g : Guard) (d : Operand) (a : Operand) (b : Operand)
  /-- R120. Checked versioned 4-byte load that sets a predicate instead of faulting -/
  | ldv32Chk (p : PReg) (d : Operand) (a : Operand) (b : Operand)
  /-- R120. Versioned 8-byte load that faults on an unpublished or racked version -/
  | ldv64 (g : Guard) (d : Operand) (a : Operand) (b : Operand)
  /-- R120. Checked versioned 8-byte load that sets a predicate instead of faulting -/
  | ldv64Chk (p : PReg) (d : Operand) (a : Operand) (b : Operand)
  /-- R238. Global atomic read-modify-write of the coded op at the given scope -/
  | atom (g : Guard) (d : Operand) (a : Operand) (s : Scope) (o : AtomOp)
  /-- R240. Scratchpad atomic read-modify-write at the holding core -/
  | atomSp (g : Guard) (d : Operand) (a : Operand) (s : Scope) (o : AtomOp)
  /-- R242. Load with acquire at the given scope -/
  | ldAcq (g : Guard) (d : Operand) (a : Operand) (s : Scope) (w : Width)
  /-- R242. Store with release at the given scope -/
  | stRel (g : Guard) (d : Operand) (a : Operand) (s : Scope) (w : Width)
  /-- R244. Fence of acquire, release, cross-path, stash and version kinds -/
  | fence (g : Guard) (s : Scope) (k : BitVec 5)
  /-- R245. Maps a stash window joining scratchpad to a global range -/
  | stashMap (g : Guard) (d : Operand) (a : Operand)
  /-- R245. Writes back and unmaps a stash window -/
  | stashUnmap (g : Guard) (a : Operand)
  /-- R245. Writes back a stash window's dirty sectors -/
  | stashWb (g : Guard) (a : Operand)
  /-- R245. Invalidates a stash window without write-back -/
  | stashInv (g : Guard) (a : Operand)
  /-- R248. Opens a symbolic atomic region per lane with an abort PC -/
  | arBegin (g : Guard) (t : BitVec 13)
  /-- R253. Commits the lanes' open regions at the given scope through the commit engine -/
  | arEnd (g : Guard) (s : Scope)
  /-- R254. Aborts the lanes' open regions with reason EXPLICIT -/
  | arAbort (g : Guard) (a : Operand)
  /-- R255. Reads each lane's latest region status -/
  | arStatus (g : Guard) (d : Operand)
  /-- R92. Prefetches the touched sector, never faulting -/
  | prf (g : Guard) (a : Operand) (p : Policy)
  /-- R247. Writes back the line's dirty L1 bytes -/
  | wbl (g : Guard) (a : Operand)
  /-- R247. Writes back and invalidates the line in L1 -/
  | invl (g : Guard) (a : Operand)
  /-- R276. Binds a queue to an endpoint class -/
  | qbind (g : Guard) (q : QReg) (a : Operand) (c : Fin 9)
  /-- R277. Unbinds a queue -/
  | qunbind (g : Guard) (q : QReg)
  /-- R277. Returns each lane's waiting return records -/
  | qdepth (g : Guard) (d : Operand) (q : QReg)
  /-- R277. Returns the records one qsend could place now -/
  | qspace (g : Guard) (d : Operand) (q : QReg)
  /-- R277. Blocks until every call accepted through the queue has completed -/
  | qdrain (g : Guard) (q : QReg)
  /-- R280. Sends one call record per lane to the bound unit -/
  | qsend (g : Guard) (a : Operand) (q : QReg)
  /-- R281. Pops one return record per lane into registers -/
  | qrecv (g : Guard) (d : Operand) (q : QReg)
  /-- R288. Copy from global memory to scratchpad -/
  | cpG2s (g : Guard) (d : Operand) (a : Operand)
  /-- R288. Copy from scratchpad to global memory -/
  | cpS2g (g : Guard) (d : Operand) (a : Operand)
  /-- R288. Copy between global ranges -/
  | cpG2g (g : Guard) (d : Operand) (a : Operand)
  /-- R288. Copy between scratchpad ranges -/
  | cpS2s (g : Guard) (d : Operand) (a : Operand)
  /-- R288. Copy from global memory to the same offset of several cluster blocks -/
  | cpMcast (g : Guard) (d : Operand) (a : Operand)
  /-- R288. Copy of strided global rows into scratchpad rows -/
  | cpTile2d (g : Guard) (d : Operand) (a : Operand)
  /-- R291. Closes the open copy batch and counts it in class 2 -/
  | cpSeal (g : Guard)
  /-- R291. Returns the bytes written so far by a copy handle -/
  | cpWptr (g : Guard) (d : Operand) (a : Operand)
  /-- R142. Blocks until a wait-class counter falls to the threshold -/
  | waitCnt (g : Guard) (c : BitVec 3) (t : BitVec 5)
  /-- R295. Issues a halo exchange collective -/
  | collHalo (g : Guard) (d : Operand) (a : Operand)
  /-- R295. Issues an all-reduce collective -/
  | collAllred (g : Guard) (d : Operand) (a : Operand)
  /-- R295. Issues an all-to-all collective -/
  | collA2a (g : Guard) (d : Operand) (a : Operand)
  /-- R295. Issues a reduce-scatter collective -/
  | collRs (g : Guard) (d : Operand) (a : Operand)
  /-- R295. Issues an all-gather collective -/
  | collAg (g : Guard) (d : Operand) (a : Operand)
  /-- R296. Tests whether a collective handle has completed -/
  | collTest (g : Guard) (d : Operand) (a : Operand)
  /-- R297. Sets the warp's traversal stack base and capacity and clears lane state -/
  | stkInit (g : Guard) (d : Operand) (a : Operand)
  /-- R298. Pushes a pair on the lane's traversal stack -/
  | stkPush (g : Guard) (a : Operand)
  /-- R298. Pops a pair from the lane's traversal stack -/
  | stkPop (g : Guard) (d : Operand)
  /-- R298. Reads the top pair without popping -/
  | stkTop (g : Guard) (d : Operand)
  /-- R298. Reads the stack depth and overflow bit -/
  | stkDepth (g : Guard) (d : Operand)
  /-- R265. Loads a B panel into the matrix macros -/
  | mloadB (g : Guard) (d : Operand) (a : Operand)
  /-- R266. Multiplies an A panel by the B tile and accumulates with WindowSum -/
  | mma (g : Guard) (d : Operand) (a : Operand)
  /-- R267. Zeroes an accumulator and sets its kind to NONE -/
  | mzero (g : Guard) (d : Operand)
  /-- R268. Moves an accumulator to or from a scratchpad C tile with conversion -/
  | mcvt (g : Guard) (d : Operand) (a : Operand)
  /-- R258. Appends a value to the block feed queue -/
  | sqPush (g : Guard) (a : Operand)
  /-- R269. Blocks the armature until its matrix instructions complete -/
  | armWait (g : Guard)
  /-- R270. Ends the armature context and releases the matrix unit -/
  | armEnd (g : Guard)
  /-- R299. Faults every lane of exec with cause 0x1F -/
  | trap (g : Guard) (a : Operand) (c : BitVec 8)
  /-- R299. Faults every lane of exec with cause 0x20 -/
  | brkpt (g : Guard)
  /-- R300. Adds to an event count with release and releases satisfied waiters -/
  | evSignal (g : Guard) (d : Operand) (a : Operand)
  /-- R300. Blocks until an event count reaches the target -/
  | evWait (g : Guard) (d : Operand) (a : Operand)
  /-- R300. Tests an event count against a target -/
  | evTest (g : Guard) (d : Operand) (a : Operand)
  /-- R300. Sets an event count to zero -/
  | evReset (g : Guard) (a : Operand)
  /-- R301. Places a child LAUNCH record in the pending-launch store per lane -/
  | launch (g : Guard) (a : Operand)
  /-- R302. Appends a record to a resident worker's ring -/
  | feed (g : Guard) (a : Operand)
  /-- R302. Removes one work-feed record for the warp -/
  | wpop (g : Guard) (d : Operand)
  /-- R43. Releases registers per thread of the warp to the core pool and serves waiting claims -/
  | poolGive (g : Guard) (u : BitVec 6)
  /-- R43. Claims registers per thread from the core pool in arrival order -/
  | poolTake (g : Guard) (u : BitVec 6)
  /-- R304. Writes a MARK trace record when marks are enabled -/
  | traceMark (g : Guard) (a : Operand)
  /-- R304. Reads the 64-bit die cycle counter -/
  | clk (g : Guard) (d : Operand)
  /-- R304. Reads ptime -/
  | ptime (g : Guard) (d : Operand)
  /-- R305. Sets the write version -/
  | verSet (g : Guard) (a : Operand)
  /-- R305. Reads the write version -/
  | verGet (g : Guard) (d : Operand)
  /-- R305. Requests publication of a version of a region -/
  | verPub (g : Guard) (d : Operand) (a : Operand)
  /-- R305. Requests raising a region's floor -/
  | verRack (g : Guard) (d : Operand) (a : Operand)
  /-- R305. Reads a region's published version and floor with acquire -/
  | verQuery (g : Guard) (d : Operand) (a : Operand)
  /-- R19. Package power-on reset zeroes ptime and all state and boots both X-dies -/
  | powerOnReset
  /-- R12. Read of PTIME_LO that latches the high word into PTIME_HI -/
  | ptimeLoRead
  /-- R4. Write to a management register field without behaviour of its own -/
  | registerWrite (sock off : Nat) (v : Word)
  /-- R109. GO write starting a TLB invalidation of the chosen kind -/
  | tlbInvalidate (v : Word)
  /-- R110. Invalidation finishes and BUSY returns to 0 -/
  | tlbInvalidateDone
  /-- R309. Write reaching the registered ring slot wakes the fetcher to read the packet -/
  | fetcherWake (q : Nat)
  /-- R314. Front end starts one startable packet every 10 ptime ticks by priority -/
  | packetStart (x : Nat)
  /-- R314. Effective priority of a starved queue falls one level per 1,000,000 ticks -/
  | priorityAging (q : Nat)
  /-- R313. NOP packet completes at start -/
  | nopPacket (q n : Nat)
  /-- R319. LAUNCH packet checked and entered as a launch awaiting its events -/
  | launchPacket (q n : Nat)
  /-- R46. FEED packet appends its record to a worker's ring -/
  | feedPacket (q n : Nat)
  /-- R316. SIGNAL packet adds its increment to an event with release -/
  | signalPacket (q n : Nat)
  /-- R316. WAIT packet holds its queue until the event count reaches its target -/
  | waitPacket (q n : Nat)
  /-- R324. COPY packet copies bytes at L2 in ascending order -/
  | copyPacket (q n len : Nat)
  /-- R114. SNAPSHOT OPEN checks and opens a versioned region -/
  | snapshotOpen (q n : Nat)
  /-- R122. SNAPSHOT PUBLISH raises a region's published version -/
  | snapshotPublish (q n : Nat)
  /-- R125. SNAPSHOT RACK raises a region's floor and frees frames -/
  | snapshotRack (q n : Nat)
  /-- R114. SNAPSHOT CLOSE folds newest frames home and closes the region -/
  | snapshotClose (q n : Nat)
  /-- R127. Snapshot engine applies an action after quiescing copy-on-writes and signals completion -/
  | snapshotActionApply (i : Nat)
  /-- R324. FENCE packet performs a full fence at system scope -/
  | fencePacket (q n : Nat)
  /-- R386. TRACE packet OP 0 opens a trace session on a sink -/
  | traceOpen (q n : Nat)
  /-- R386. TRACE packet OP 1 writes partial frames and closes the session -/
  | traceClose (q n : Nat)
  /-- R386. TRACE packet OP 2 writes each die's partial frame -/
  | traceFlush (q n : Nat)
  /-- R322. Packet completion writes the completion record and signals CEV -/
  | packetComplete (q n : Nat)
  /-- R325. A launch's event waits are met and it enters READY -/
  | launchReady (l : Nat)
  /-- R47. Dispatcher places a block or cluster on a core with room -/
  | blockPlace (l : Nat)
  /-- R51. Launch starved 1,000,000 ticks by carve mismatch takes a guarded reservation -/
  | guardedReservation (l : Nat)
  /-- R58. Dispatcher saves an event-waiting block to make room for a descendant -/
  | eventWaitBlockSave (l : Nat)
  /-- R55. A saved block is restored on a core of its carve -/
  | blockRestore (l : Nat)
  /-- R27. A block retires when its warps have exited and armature ended -/
  | blockRetire (core slot : Nat)
  /-- R310. ENABLE write 1 resets the read index and starts fetching -/
  | queueEnable (q : Nat)
  /-- R310. ENABLE write 0 stops fetching after started packets -/
  | queueDisable (q : Nat)
  /-- R326. PREEMPT write stops and saves the queue's blocks -/
  | queuePreempt (q : Nat)
  /-- R326. Every image is written and the queue becomes PREEMPTED -/
  | preemptSaveDone (q : Nat)
  /-- R328. RESUME write restores a pre-empted queue's blocks -/
  | queueResume (q : Nat)
  /-- R466. RESET write ends the queue's launches and packets as KILLED -/
  | queueReset (q : Nat)
  /-- R315. Idle firmware core takes the oldest event-queue entry and performs it -/
  | firmwareStep (x c : Nat)
  /-- R468. Firmware moves spilled events and waiters back into the scheduler table -/
  | overflowService (asid : Nat)
  /-- R489. Read of EVQ_COUNT performed as an event operation -/
  | eventQuery
  /-- R141. A load returns or a store is acknowledged and its class counter falls -/
  | accessComplete (core slot w cls : Nat)
  /-- R445. A coalesced page walk finishes and its waiting accesses proceed or fault -/
  | pageWalkDone (die : Nat)
  /-- R97. A contended line's back-off interval elapses and the M request proceeds -/
  | atomicBackoffExpire (die line : Nat)
  /-- R118. Snapshot engine copies a page frame for a store under a newer version -/
  | copyOnWrite
  /-- R203. A copy writes destination bytes and delivers their count to an arrival barrier -/
  | copyDelivery (core id n : Nat)
  /-- R141. A copy finishes its destination and its batch may complete -/
  | copyComplete (core id : Nat)
  /-- R271. A matrix instruction completes in stream order -/
  | matrixOpComplete (core : Nat)
  /-- R353. Rasteriser call returns coverage and planes of a triangle in a tile -/
  | rast (core i : Nat)
  /-- R355. Depth tester call tests and writes fragment depths at its token's turn -/
  | ztest (core i : Nat)
  /-- R355. Depth tester call writes one depth to all 64 pixels -/
  | zclear (core i : Nat)
  /-- R350. Depth tester call that only advances NEXT at its turn -/
  | zretire (core i : Nat)
  /-- R356. Blender call marks a tile fast-cleared -/
  | cclear (core i : Nat)
  /-- R356. Blender call blends a flat colour and re-encodes the tile -/
  | flat (core i : Nat)
  /-- R356. Blender call blends a source tile and re-encodes -/
  | tile (core i : Nat)
  /-- R358. Blender call decodes a tile to raw bytes -/
  | expand (core i : Nat)
  /-- R350. Blender call that only advances NEXT at its turn -/
  | cretire (core i : Nat)
  /-- R362. Tessellator writes points and triangles of a triangular patch -/
  | tri (core i : Nat)
  /-- R362. Tessellator writes points and triangles of a quad patch -/
  | quad (core i : Nat)
  /-- R360. Texture filter samples texels with residency checking -/
  | sample (core i : Nat)
  /-- R364. Box tester intersects a ray with a BVH node's children -/
  | box (core i : Nat)
  /-- R366. Triangle tester intersects a ray with a triangle exactly -/
  | hit (core i : Nat)
  /-- R286. A class-8 record is delivered to a peer warp's queue -/
  | peerRecord (core slot i : Nat)
  /-- R350. Ordered unit re-examines all held calls every 1 µs -/
  | heldCallReexamine (core cls : Nat)
  /-- R284. A call completes and its return record enters the return side -/
  | callReturn (core id : Nat)
  /-- R373. Collective engine receives a peer's message and advances a collective -/
  | collMessage (g rank : Nat) (data : List Byte)
  /-- R296. A collective completes at this package -/
  | collComplete (g : Nat)
  /-- R481. Unanswered message and resend declare a member lost and abort the group -/
  | peerLostTimeout (g pkg : Nat)
  /-- R482. Abort message invalidates the group and fails its collectives -/
  | collAbortReceive (g pkg : Nat)
  /-- R372. Write of VALID 1 reads MEMBERS and validates a collective group -/
  | groupValidate (g : Nat) (v : Word)
  /-- R85. A UALink response or error response arrives for a pod-remote access -/
  | podResponse (id : Nat) (kind : PodReply) (data : List Byte)
  /-- R371. A pod-remote access unanswered for 20 µs ends with cause 0x27 -/
  | podTimeout (id : Nat)
  /-- R459. Response after a time-out is discarded and releases the line hold -/
  | podLateResponse (line : Nat)
  /-- R488. Inbound pod request is window-checked and performed at the home die -/
  | ualinkInboundRequest (src addr len : Nat) (wr : Bool) (atom : Option AtomOp) (data : List Byte)
  /-- R370. A UALink port's PORTUP changes and routing moves -/
  | portStateChange (p : Nat) (up : Bool)
  /-- R378. Control-link read transaction of memory or management space -/
  | controlRead (link : Nat) (addr : DWord) (size : Nat)
  /-- R378. Control-link write transaction of memory or management space -/
  | controlWrite (link : Nat) (addr : DWord) (data : List Byte)
  /-- R378. A Daxlon link goes down, losing only its transactions in flight -/
  | controlLinkDown (link : Nat)
  /-- R379. I3C private read of four management bytes -/
  | i3cPrivateRead
  /-- R379. I3C private write of four management bytes -/
  | i3cPrivateWrite (data : List Byte)
  /-- R379. I3C CCC assigning a dynamic address from the static one: the static address and the dynamic one -/
  | setdasa (a : BitVec 7 × BitVec 7)
  /-- R379. I3C CCC for dynamic address assignment -/
  | entdaa (a : BitVec 7)
  /-- R379. I3C CCC resetting the dynamic address -/
  | rstdaa
  /-- R379. I3C CCC enabling events -/
  | enec (m : Byte)
  /-- R379. I3C CCC disabling events -/
  | disec (m : Byte)
  /-- R379. I3C CCC returning the provisioned id -/
  | getpid
  /-- R379. I3C CCC returning the bus characteristics register -/
  | getbcr
  /-- R379. I3C CCC returning the device characteristics register -/
  | getdcr
  /-- R379. I3C CCC returning device status -/
  | getstatus
  /-- R490. I3C window read of 4 bytes at WADDR, then WADDR advances -/
  | wdataRead
  /-- R490. I3C window write of 4 bytes at WADDR, then WADDR advances -/
  | wdataWrite (v : Word)
  /-- R420. A warp reached by a block halt stops within 8 instructions and 64 cycles: `cyc` of those that have passed -/
  | haltWarpStop (core slot w cyc : Nat)
  /-- R424. Under KILL, the settled block's records are written and the launch completes FAULTED -/
  | killSettled (core slot : Nat)
  /-- R426. The handler warp starts at HANDLER with the origin record -/
  | handlerStart (core slot : Nat)
  /-- R44. Claim conditions held 4,096 cycles raise cause 0x17 -/
  | claimDeadlockDetect (core slot : Nat)
  /-- R205. ptime passes a sleeping split's deadline -/
  | sleepExpire (core slot w sp : Nat)
  /-- R478. Idle block past LIMIT takes cause 0x29 on its longest wait -/
  | watchdogFire (core slot : Nat)
  /-- R393. Debug command stopping a split or the armature -/
  | stop (core : Nat)
  /-- R394. Debug command returning a stopped split to its prior state -/
  | resume (core : Nat)
  /-- R394. Debug command running one instruction then stopping with cause 0x22 -/
  | step (core : Nat)
  /-- R395. Debug command reading a register, PC or record word of a stopped target -/
  | read (core : Nat)
  /-- R395. Debug command writing a register, PC or ACT of a stopped target -/
  | write (core : Nat)
  /-- R385. CLEAR write zeroes every counter of the core -/
  | counterClear (core : Nat)
  /-- R385. FREEZE write stops or restarts every counter of the core together -/
  | counterFreeze (core : Nat) (on : Bool)
  /-- R388. Every 4,096 slots a SAMPLE record of the oldest-waiting split is made -/
  | traceSample (core quad : Nat)
  /-- R387. Compressor writes or drops a full data frame -/
  | traceFrameWrite (q die : Nat)
  /-- R450. An ECC error is corrected or turned into poison -/
  | storageError (e : StorageErr)
  /-- R452. GO write starts a scrub of a sector -/
  | scrub (die : Nat)
  /-- R452. Scrub writes zeros, clears poison and clears BUSY -/
  | scrubDone (die : Nat)
  /-- R448. CLEAR write zeroes the memory error block -/
  | memerrClear (die : Nat)
  /-- R469. CLEAR write zeroes OVF_STALLS and LIVE_HIGH -/
  | eventBlockClear
  /-- R480. CLEAR write zeroes the die's region counters -/
  | regionCounterClear (die : Nat)
  /-- R485. A non-warp master breaking a rule is frozen and logged -/
  | masterFreeze (v : Violation)
  /-- R487. Thaw action RESUME re-performs the violating access -/
  | thawResume (e : Nat)
  /-- R487. Thaw action SKIP fails the access through the master's error path -/
  | thawSkip (e : Nat)
  /-- R487. Thaw action RESET abandons the master's work and idles it -/
  | thawReset (e : Nat)
  /-- R491. HOLD write 1 stops the package for a consistent readback -/
  | packageHold
  /-- R491. Settling and write-back finish and HELD becomes 1 -/
  | holdComplete
  /-- R491. HOLD write 0 resumes the stopped splits -/
  | packageUnhold
  /-- R496. GO with KIND 0 pre-empts the die's blocks, sweeps and resets it -/
  | dieResetControlled (d : Nat)
  /-- R456. After the images are written, the die is swept clean and enters reset -/
  | dieResetSweep (d : Nat)
  /-- R497. Die stops at once, poisoning lost dirty lines and killing its launches -/
  | dieResetUncontrolled (d : Nat)
  /-- R496. RELEASE write restarts every C-die held in reset -/
  | dieRelease
  /-- R458. A restarted die finishes rebuilding its home directory -/
  | directoryRebuildDone (d : Nat)
  /-- R500. GO write resets an X-die and its queues -/
  | xdieReset (x : Nat)
  /-- R498. Uncorrectable error in X-die tables puts it in reset -/
  | xdieErrorReset (x : Nat)
  /-- R500. RELEASE write restarts a held X-die, boots and copies shared state -/
  | xdieRelease (x : Nat)
  /-- R498. An error-started X-die reset ends after 1 ms in reset -/
  | xdieAutoRelease (x : Nat)
  /-- R23. Each 100 µs power estimate starts or lifts density-8 pacing -/
  | powerWindow (high : Bool)
  /-- R502. Every 10 µs sensors update and throttle stages rise -/
  | monitorUpdate (d : Nat) (r : Readings)
  /-- R502. 100 ms in stage 2 enters stage 3 with a controlled reset -/
  | throttleStageTimeout (d : Nat)
  /-- R502. After 1 ms below threshold a throttle stage falls by one -/
  | throttleStepDown (d : Nat)
  /-- R502. A shut-down die restarts after 10 ms below T_PACE minus 40 -/
  | throttleRestart (d : Nat)
  /-- R436. A fetched word that is no instruction raises a decode fault on every lane of exec, or on the armature. Such words include a non-instruction major, an unlisted function code, a nonzero reserved field and a bad prefix payload -/
  | illegalEncoding (w : Word)
  /-- R378. A Daxlon control link comes up, or a replacement control node attaches through it, and the link carries transactions again -/
  | controlLinkUp (link : Nat)
  deriving DecidableEq, Repr

end Sys2Proof
end

