-- ==== Sys2Proof/WellFormed.lean ====
section
/-!
DEFINITION. What `Instr` can say and no word can: the field-level restrictions of
24_instruction_exceptions.md R437. Which operand a position takes is R438, checked when the
instruction is performed.
-/

namespace Sys2Proof

/-- A scope of `atom.sp`: at most cluster (R172). -/
def scopeInBlockCluster : Scope → Bool
  | .thread | .warp | .block | .cluster => true
  | .die | .device | .system => false

/-- `cas` names registers, directly or indexed, as its data (R172, R437). -/
def casDataOk (o : AtomOp) (d : Operand) : Bool :=
  match o with
  | .cas32 | .cas64 =>
    match d with
    | .reg _ | .ix _ => true
    | .q _ | .zero | .lit | .sq => false
  | _ => true

/-- A store takes no signed width (R171). -/
def storeWidthOk : Width → Bool
  | .s8 | .s16 => false
  | _ => true

/-- An ordered access has no 128-bit width (R170). -/
def orderedWidthOk : Width → Bool
  | .w128 => false
  | _ => true

/-- The instruction has a word: every field holds a value that R437 lists. The operations and events of
the table have no word and nothing to check here. -/
def Instr.wellFormed : Instr → Bool
  | .st _ _ _ w _ => storeWidthOk w
  | .stSp _ _ _ w => storeWidthOk w
  | .atom _ d _ _ o => casDataOk o d
  | .atomSp _ d _ s o => casDataOk o d && scopeInBlockCluster s
  | .ldAcq _ _ _ _ w => orderedWidthOk w
  | .stRel _ _ _ _ w => storeWidthOk w && orderedWidthOk w
  | .trap _ _ c => c != 255
  | .poolGive _ u => u != 0
  | .poolTake _ u => u != 0
  | _ => true

end Sys2Proof
end

