-- ==== Sys2Proof/Decode.lean ====
section
/-!
DEFINITION. The decoder and the encoder of the 32-bit instruction words (07_encoding.md R153-R175,
24_instruction_exceptions.md R436-R440).
-/

namespace Sys2Proof

/-- Why a word is not an instruction. Every one of these is cause 0x01 at step 3 of R433, or cause 0x06
where the major does not run on the executor (R175). -/
inductive DecodeErr where
  /-- a major of R436, which is no instruction -/
  | major
  /-- a function code, sub form or selector that R170 and R437 do not list -/
  | function
  /-- a reserved field that is not zero, or an unused operand field that is not 124 (R157, R175) -/
  | reserved
  /-- operand code 127 (R164), or a queue designator that names no queue (R438) -/
  | operand
  /-- a width, policy, scope or atomic operation code that is not listed (R171, R172, R437) -/
  | code
  /-- a compare pair other than p0:1, p2:3, p4:5 (R157) -/
  | comparePair
  /-- `ldv` with chk = 1 and guard 7 (R437) -/
  | chkGuard
  /-- a prefix payload that R160-R162 and R440 forbid -/
  | prefixPayload
  /-- fewer than four bytes -/
  | truncated
  deriving DecidableEq, Repr

/-- The fields of a word that the formats of R156 share: major [31:25], guard [24:22], d [21:15],
a [14:8], low byte [7:0]. -/
structure Fields where
  maj : Nat
  g : Nat
  d : Nat
  a : Nat
  lo : Nat
  deriving DecidableEq, Repr

/-- Cut a word into the fields of R156. -/
def Fields.split (w : Nat) : Fields :=
  ⟨w / 33554432, w / 4194304 % 8, w / 32768 % 128, w / 256 % 128, w % 256⟩

/-- The word that holds the fields. -/
def Fields.pack (f : Fields) : Nat :=
  f.maj * 33554432 + f.g * 4194304 + f.d * 32768 + f.a * 256 + f.lo

/-- The fields as one number below the major, bits [24:0]. -/
def Fields.low25 (f : Fields) : Nat := f.g * 4194304 + f.d * 32768 + f.a * 256 + f.lo

/-- Guard field (R154). -/
def guardOf (n : Nat) : Guard := if h : n < 7 then .p ⟨n, h⟩ else .always

/-- The code of a guard. -/
def guardCode : Guard → Nat
  | .p n => n.val
  | .always => 7

/-- Operand code (R164). -/
def operandOf (n : Nat) : Except DecodeErr Operand :=
  if h : n < 112 then .ok (.reg ⟨n, h⟩)
  else if h : n - 112 < 4 then .ok (.ix ⟨n - 112, h⟩)
  else if h : n - 116 < 8 then .ok (.q ⟨n - 116, h⟩)
  else if n = 124 then .ok .zero
  else if n = 125 then .ok .lit
  else if n = 126 then .ok .sq
  else .error .operand

/-- The code of an operand. -/
def operandCode : Operand → Nat
  | .reg n => n.val
  | .ix n => 112 + n.val
  | .q n => 116 + n.val
  | .zero => 124
  | .lit => 125
  | .sq => 126

/-- Predicate field of the L format (R157). -/
def pselOf (n : Nat) : PSel := if h : n < 7 then .p ⟨n, h⟩ else .pt

/-- The code of a predicate field. -/
def pselCode : PSel → Nat
  | .p n => n.val
  | .pt => 7

/-- Compare code (R169). -/
def cmpOf : Nat → Cmp
  | 0 => .eq | 1 => .ne | 2 => .lt | 3 => .le | 4 => .gt | 5 => .ge | 6 => .any | _ => .none

/-- The code of a compare. -/
def cmpCode : Cmp → Nat
  | .eq => 0 | .ne => 1 | .lt => 2 | .le => 3 | .gt => 4 | .ge => 5 | .any => 6 | .none => 7

/-- Destination of a compare: pd and pair (R157). -/
def cdstOf (pd pair : Nat) : Except DecodeErr CDst :=
  if pair = 0 then (if h : pd < 7 then .ok (.one ⟨pd, h⟩) else .ok .discard)
  else if pd = 0 then .ok (.two 0)
  else if pd = 2 then .ok (.two 1)
  else if pd = 4 then .ok (.two 2)
  else .error .comparePair

/-- The codes pd and pair of a compare destination. -/
def cdstCode : CDst → Nat × Nat
  | .discard => (7, 0)
  | .one n => (n.val, 0)
  | .two k => (2 * k.val, 1)

/-- Rounding mode code (R68). -/
def rmOf : Nat → RM
  | 0 => .rne | 1 => .rz | 2 => .ru | _ => .rd

/-- The code of a rounding mode. -/
def rmCode : RM → Nat
  | .rne => 0 | .rz => 1 | .ru => 2 | .rd => 3

/-- Scope code (R130); 7 is no scope. -/
def scopeOf : Nat → Except DecodeErr Scope
  | 0 => .ok .thread | 1 => .ok .warp | 2 => .ok .block | 3 => .ok .cluster
  | 4 => .ok .die | 5 => .ok .device | 6 => .ok .system | _ => .error .code

/-- The code of a scope. -/
def scopeCode : Scope → Nat
  | .thread => 0 | .warp => 1 | .block => 2 | .cluster => 3 | .die => 4 | .device => 5 | .system => 6

/-- Width code (R171). -/
def widthOf : Nat → Except DecodeErr Width
  | 0 => .ok .u8 | 1 => .ok .s8 | 2 => .ok .u16 | 3 => .ok .s16 | 4 => .ok .w32
  | 5 => .ok .w64 | 6 => .ok .w128 | _ => .error .code

/-- The code of a width. -/
def widthCode : Width → Nat
  | .u8 => 0 | .s8 => 1 | .u16 => 2 | .s16 => 3 | .w32 => 4 | .w64 => 5 | .w128 => 6

/-- Cache policy code (R90, R171). -/
def policyOf : Nat → Except DecodeErr Policy
  | 0 => .ok .default | 1 => .ok .stream | 2 => .ok .l2 | 3 => .ok .keep | 4 => .ok .noalloc
  | _ => .error .code

/-- The code of a policy. -/
def policyCode : Policy → Nat
  | .default => 0 | .stream => 1 | .l2 => 2 | .keep => 3 | .noalloc => 4

/-- Atomic operation code (R172). -/
def atomOpOf : Nat → Except DecodeErr AtomOp
  | 0 => .ok .addI32 | 1 => .ok .addI64 | 2 => .ok .addF32 | 3 => .ok .addF64
  | 4 => .ok .minI32 | 5 => .ok .maxI32 | 6 => .ok .minN32 | 7 => .ok .maxN32
  | 8 => .ok .and32 | 9 => .ok .or32 | 10 => .ok .xor32
  | 11 => .ok .exch32 | 12 => .ok .exch64 | 13 => .ok .cas32 | 14 => .ok .cas64
  | 15 => .ok .incN32 | 16 => .ok .decN32 | 17 => .ok .minF64 | 18 => .ok .maxF64
  | 19 => .ok .addBf16x2 | 20 => .ok .addF16x2 | _ => .error .code

/-- The code of an atomic operation. -/
def atomOpCode : AtomOp → Nat
  | .addI32 => 0 | .addI64 => 1 | .addF32 => 2 | .addF64 => 3
  | .minI32 => 4 | .maxI32 => 5 | .minN32 => 6 | .maxN32 => 7
  | .and32 => 8 | .or32 => 9 | .xor32 => 10
  | .exch32 => 11 | .exch64 => 12 | .cas32 => 13 | .cas64 => 14
  | .incN32 => 15 | .decN32 => 16 | .minF64 => 17 | .maxF64 => 18
  | .addBf16x2 => 19 | .addF16x2 => 20

/-- Selector of `gets` (R173). -/
def getsSelOf : Nat → Except DecodeErr GetsSel
  | 0 => .ok .lane | 1 => .ok .warp | 2 => .ok .split | 3 => .ok .blockX | 4 => .ok .blockY
  | 5 => .ok .blockZ | 6 => .ok .gridX | 7 => .ok .gridY | 8 => .ok .gridZ | 9 => .ok .cpos
  | 10 => .ok .core | 11 => .ok .die | 12 => .ok .depth | 13 => .ok .wver | 14 => .ok .fpflags
  | 15 => .ok .clock | 16 => .ok .fpmode | 17 => .ok .fptrap | _ => .error .function

/-- The code of a selector of `gets`. -/
def getsSelCode : GetsSel → Nat
  | .lane => 0 | .warp => 1 | .split => 2 | .blockX => 3 | .blockY => 4
  | .blockZ => 5 | .gridX => 6 | .gridY => 7 | .gridZ => 8 | .cpos => 9
  | .core => 10 | .die => 11 | .depth => 12 | .wver => 13 | .fpflags => 14
  | .clock => 15 | .fpmode => 16 | .fptrap => 17

/-- Selector of `sets` (R173). -/
def setsSelOf : Nat → Except DecodeErr SetsSel
  | 0 => .ok .wver | 1 => .ok .fpmode | 2 => .ok .fpclear | 3 => .ok .fptrap | 4 => .ok .fpflags
  | _ => .error .function

/-- The code of a selector of `sets`. -/
def setsSelCode : SetsSel → Nat
  | .wver => 0 | .fpmode => 1 | .fpclear => 2 | .fptrap => 3 | .fpflags => 4

/-- Queue designator of `qbind` and major 0x61 (R438). -/
def queueOf (n : Nat) : Except DecodeErr QReg :=
  if 116 ≤ n then (if h : n - 116 < 8 then .ok ⟨n - 116, h⟩ else .error .operand) else .error .operand

/-- A field with a bound. -/
def finOf (k n : Nat) : Except DecodeErr (Fin k) := if h : n < k then .ok ⟨n, h⟩ else .error .function

/-- A field that R157 fixes: operand fields at 124, bit fields at 0. -/
def fixedAt (n v : Nat) (x : Except DecodeErr Instr) : Except DecodeErr Instr :=
  if n = v then x else .error .reserved

/-- The T format: d, a, b and sub. -/
def decT (f : Fields) (k0 k1 : Guard → Operand → Operand → Operand → Instr) : Except DecodeErr Instr := do
  let d ← operandOf f.d
  let a ← operandOf f.a
  let b ← operandOf (f.lo / 2)
  if f.lo % 2 = 0 then return k0 (guardOf f.g) d a b else return k1 (guardOf f.g) d a b

/-- A form with d and a. -/
def decDA (f : Fields) (k : Guard → Operand → Operand → Instr) : Except DecodeErr Instr := do
  let d ← operandOf f.d
  let a ← operandOf f.a
  return k (guardOf f.g) d a

/-- A form with d only: a is 124. -/
def decD (f : Fields) (k : Guard → Operand → Instr) : Except DecodeErr Instr :=
  fixedAt f.a 124 do
    let d ← operandOf f.d
    return k (guardOf f.g) d

/-- A form with a only: d is 124. -/
def decA (f : Fields) (k : Guard → Operand → Instr) : Except DecodeErr Instr :=
  fixedAt f.d 124 do
    let a ← operandOf f.a
    return k (guardOf f.g) a

/-- A form with no operands: d and a are 124. -/
def dec0 (f : Fields) (k : Guard → Instr) : Except DecodeErr Instr :=
  fixedAt f.d 124 (fixedAt f.a 124 (.ok (k (guardOf f.g))))

/-- The C format (R157): pd, cmp and pair in the d field. -/
def decC (f : Fields) (k0 k1 : Guard → CDst → Cmp → Operand → Operand → Instr) :
    Except DecodeErr Instr := do
  let p ← cdstOf (f.d / 16) (f.d % 2)
  let a ← operandOf f.a
  let b ← operandOf (f.lo / 2)
  let c := cmpOf (f.d / 2 % 8)
  if f.lo % 2 = 0 then return k0 (guardOf f.g) p c a b else return k1 (guardOf f.g) p c a b

/-- The L format: pd, pa and pb straddle the d and a fields, func is [12:8], [7:0] is zero. -/
def decL (f : Fields) : Except DecodeErr Instr :=
  let g := guardOf f.g
  let p := pselOf (f.d / 16)
  let x := pselOf (f.d / 2 % 8)
  let y := pselOf (f.d % 2 * 4 + f.a / 32)
  fixedAt f.lo 0 <|
  match f.a % 32 with
  | 0 => .ok (.pand g p x y)
  | 1 => .ok (.por g p x y)
  | 2 => .ok (.pxor g p x y)
  | 3 => .ok (.pandn g p x y)
  | 4 => .ok (.porn g p x y)
  | 5 => fixedAt (f.d % 2 * 4 + f.a / 32) 0 (.ok (.pnot g p x))
  | 6 => fixedAt (f.d % 2 * 4 + f.a / 32) 0 (.ok (.pmov g p x))
  | 7 => fixedAt (f.d % 16 * 4 + f.a / 32) 0 (.ok (.pset g p))
  | 8 => fixedAt (f.d % 16 * 4 + f.a / 32) 0 (.ok (.pclr g p))
  | _ => .error .function

/-- Target of the B format, bits [21:9] (R157). -/
def targetOf (f : Fields) : BitVec 13 := BitVec.ofNat 13 (f.d * 64 + f.a / 2)

/-- Reconvergence field of the B format, bits [8:0] (R157). -/
def reconvOf (f : Fields) : Nat := f.a % 2 * 256 + f.lo

/-- The M format: width [7:5], policy [4:2], zero [1:0]. -/
def decM (f : Fields) (store : Bool) (k : Guard → Operand → Operand → Width → Policy → Instr) :
    Except DecodeErr Instr :=
  fixedAt (f.lo % 4) 0 do
    let d ← operandOf f.d
    let a ← operandOf f.a
    let w ← widthOf (f.lo / 32)
    let p ← policyOf (f.lo / 4 % 8)
    if store && (w == .s8 || w == .s16) then throw .code
    return k (guardOf f.g) d a w p

/-- The V format (R157): chk = 1 takes its destination predicate from the guard field. -/
def decV (f : Fields) (k0 : Guard → Operand → Operand → Operand → Instr)
    (k1 : PReg → Operand → Operand → Operand → Instr) : Except DecodeErr Instr := do
  let d ← operandOf f.d
  let a ← operandOf f.a
  let b ← operandOf (f.lo / 2)
  if f.lo % 2 = 0 then return k0 (guardOf f.g) d a b
  else if h : f.g < 7 then return k1 ⟨f.g, h⟩ d a b
  else throw .chkGuard

/-- The K format of the atomics (R172, R437). -/
def decAtom (f : Fields) (sp : Bool) (k : Guard → Operand → Operand → Scope → AtomOp → Instr) :
    Except DecodeErr Instr := do
  let d ← operandOf f.d
  let a ← operandOf f.a
  let s ← scopeOf (f.lo / 32)
  let o ← atomOpOf (f.lo % 32)
  if sp && !scopeInBlockCluster s then throw .code
  if !casDataOk o d then throw .operand
  return k (guardOf f.g) d a s o

/-- Major 0x58 (R170, R437). -/
def decOrdered (f : Fields) : Except DecodeErr Instr := do
  let d ← operandOf f.d
  let a ← operandOf f.a
  let s ← scopeOf (f.lo / 32)
  let w ← widthOf (f.lo % 8)
  if w == .w128 then throw .code
  match f.lo / 8 % 4 with
  | 0 => return .ldAcq (guardOf f.g) d a s w
  | 1 => if w == .s8 || w == .s16 then throw .code else return .stRel (guardOf f.g) d a s w
  | _ => throw .function

/-- The prefix words (R159-R162, R440). Bits [24:23] are the kind, [22:0] the payload. -/
def decPrefix (low : Nat) : Except DecodeErr Instr :=
  let v := low % 8388608
  match low / 8388608 with
  | 0 => .ok (.pfxLit (BitVec.ofNat 23 v))
  | 1 => .ok (.pfxOff (BitVec.ofNat 23 v))
  | 2 =>
    if v / 4096 ≠ 0 then .error .prefixPayload
    else if v / 2048 % 2 = 0 ∧ v / 256 % 8 ≠ 0 then .error .prefixPayload
    else if v / 4 % 2 = 0 ∧ v % 4 ≠ 0 then .error .prefixPayload
    else if v / 8 % 2 = 0 then
      if v / 16 % 8 ≠ 0 then .error .prefixPayload
      else .ok (.pfxMod (if v / 2048 % 2 = 1 then some (BitVec.ofNat 3 (v / 256 % 8)) else none)
        (v / 128 % 2 == 1) none (if v / 4 % 2 = 1 then some (rmOf (v % 4)) else none))
    else if h : v / 16 % 8 < 7 then
      .ok (.pfxMod (if v / 2048 % 2 = 1 then some (BitVec.ofNat 3 (v / 256 % 8)) else none)
        (v / 128 % 2 == 1) (some ⟨v / 16 % 8, h⟩) (if v / 4 % 2 = 1 then some (rmOf (v % 4)) else none))
    else .error .prefixPayload
  | _ =>
    if v / 64 ≠ 0 then .error .prefixPayload
    else .ok (.pfxHint (v / 32 % 2 == 1) (BitVec.ofNat 3 (v / 4 % 8)) (v / 2 % 2 == 1) (v % 2 == 1))

/-- Decode the fields of a word by its major (R170). -/
noncomputable def decodeFields (f : Fields) : Except DecodeErr Instr :=
  match f.maj with
  | 0x00 => decPrefix f.low25
  | 0x01 => decT f .addI32 .subI32
  | 0x02 => decDA f (fun g d a => .addiI32 g d a (BitVec.ofNat 8 f.lo))
  | 0x03 => decT f .addI64 .subI64
  | 0x04 => decT f .mulI32 .madI32
  | 0x05 => decT f .mulhiI32 .mulhiN32
  | 0x06 => decT f .mulwideI32 .mulwideN32
  | 0x07 => decT f .minI32 .maxI32
  | 0x08 => decT f .minN32 .maxN32
  | 0x09 => decT f .and .andn
  | 0x0A => decT f .or .xor
  | 0x0B => decT f .shl .shr
  | 0x0C => decT f .sra .rotl
  | 0x0D => 
    match f.lo / 64 with
    | 0 => decDA f (fun g d a => .shli g d a (BitVec.ofNat 6 (f.lo % 64)))
    | 1 => decDA f (fun g d a => .shri g d a (BitVec.ofNat 6 (f.lo % 64)))
    | 2 => decDA f (fun g d a => .srai g d a (BitVec.ofNat 6 (f.lo % 64)))
    | _ => decDA f (fun g d a => .rotli g d a (BitVec.ofNat 6 (f.lo % 64)))
  | 0x0E => 
    match f.lo / 64 with
    | 0 => decDA f (fun g d a => .andi g d a (BitVec.ofNat 6 (f.lo % 64)))
    | 1 => decDA f (fun g d a => .ori g d a (BitVec.ofNat 6 (f.lo % 64)))
    | 2 => decDA f (fun g d a => .xori g d a (BitVec.ofNat 6 (f.lo % 64)))
    | _ => .error .function
  | 0x0F => decT f .bfeI32 .bfeN32
  | 0x10 => if f.lo % 2 = 0 then decT f .bfi .bfi else .error .function
  | 0x11 => decT f .divI32 .divN32
  | 0x12 => decT f .remI32 .remN32
  | 0x13 => do
    let d ← operandOf f.d
    return .movi (guardOf f.g) d (BitVec.ofNat 15 (f.a * 256 + f.lo))
  | 0x14 => 
    match f.lo with
    | 0 => decDA f .mov
    | 1 => decDA f .mov64
    | 2 => decDA f .not
    | 3 => decDA f .negI32
    | 4 => decDA f .absI32
    | 5 => decDA f .popc
    | 6 => decDA f .clz
    | 7 => decDA f .ctz
    | 8 => decDA f .brev
    | 9 => decDA f .sext8
    | 10 => decDA f .sext16
    | 11 => decDA f .zext8
    | 12 => decDA f .zext16
    | 13 => decDA f .negI64
    | 14 => decDA f .popc64
    | 15 => decDA f .clz64
    | _ => .error .function
  | 0x15 => 
    match f.lo with
    | 0 => decDA f .cvtF64I32
    | 1 => decDA f .cvtF64N32
    | 2 => decDA f .cvtF64I64
    | 3 => decDA f .cvtI32F64
    | 4 => decDA f .cvtN32F64
    | 5 => decDA f .cvtI64F64
    | 6 => decDA f .cvtF32I32
    | 7 => decDA f .cvtI32F32
    | 8 => decDA f .cvtF32F64
    | 9 => decDA f .cvtF64F32
    | 10 => decDA f .cvtF16F32
    | 11 => decDA f .cvtF32F16
    | 12 => decDA f .cvtBf16F32
    | 13 => decDA f .cvtF32Bf16
    | _ => .error .function
  | 0x16 => decT f .lxFrom .lxMix
  | 0x17 => decT f .lxBack .lxFwd
  | 0x18 => 
    match f.lo with
    | 0 => decDA f .xlAll
    | 1 => decDA f .xlAny
    | 2 => decDA f .xlBits
    | 3 => decDA f .xlSame
    | 4 => decDA f .xlPeers
    | 5 => decDA f .xlAddI32
    | 6 => decDA f .xlMinI32
    | 7 => decDA f .xlMaxI32
    | 8 => decDA f .xlAnd
    | 9 => decDA f .xlOr
    | 10 => decDA f .xlXor
    | 11 => decD f .xlBelow
    | _ => .error .function
  | 0x19 => do
    let x ← finOf 4 (f.lo % 4)
    match f.lo / 4 with
    | 0 => decA f (fun g a => .ixset g a x)
    | 1 => decA f (fun g a => .ixadd g a x)
    | 2 => decD f (fun g d => .ixget g d x)
    | _ => throw .function
  | 0x1A => do
    let s ← getsSelOf f.lo
    decD f (fun g d => .gets g d s)
  | 0x1B => do
    let s ← setsSelOf f.lo
    decA f (fun g a => .sets g a s)
  | 0x20 => decT f .addF64 .subF64
  | 0x21 => decT f .mulF64 .fmaF64
  | 0x22 => decT f .fmsF64 .fnmaF64
  | 0x23 => decT f .minF64 .maxF64
  | 0x24 => decT f .divF64 .scaleF64
  | 0x25 => 
    match f.lo with
    | 0 => decDA f .negF64
    | 1 => decDA f .absF64
    | 2 => decDA f .sqrtF64
    | 3 => decDA f .rcpF64
    | 4 => decDA f .rsqEstF64
    | 5 => decDA f .floorF64
    | 6 => decDA f .ceilF64
    | 7 => decDA f .truncF64
    | 8 => decDA f .rintF64
    | 9 => decDA f .classF64
    | 10 => decDA f .getexpF64
    | 11 => decDA f .getmantF64
    | _ => .error .function
  | 0x26 => decT f .addF32 .subF32
  | 0x27 => decT f .mulF32 .fmaF32
  | 0x28 => decT f .addF32x2 .mulF32x2
  | 0x29 => decT f .fmaF32x2 .fnmaF32x2
  | 0x2A => decT f .minF32 .maxF32
  | 0x2B => decT f .divF32 .scaleF32
  | 0x2C => 
    match f.lo with
    | 0 => decDA f .negF32
    | 1 => decDA f .absF32
    | 2 => decDA f .sqrtF32
    | 3 => decDA f .rcpF32
    | 4 => decDA f .rsqEstF32
    | 5 => decDA f .exp2EstF32
    | 6 => decDA f .log2EstF32
    | 7 => decDA f .sinEstF32
    | 8 => decDA f .cosEstF32
    | 9 => decDA f .tanhEstF32
    | 10 => decDA f .floorF32
    | 11 => decDA f .ceilF32
    | 12 => decDA f .truncF32
    | 13 => decDA f .rintF32
    | 14 => decDA f .classF32
    | _ => .error .function
  | 0x2D => decT f .fmaF16x2 .fmaBf16x2
  | 0x2E => decT f .addF16x2 .mulF16x2
  | 0x2F => decT f .addBf16x2 .mulBf16x2
  | 0x30 => decT f .dot4E4m3 .dot4E5m2
  | 0x31 => decT f .dot4E3m2 .dot8E2m1
  | 0x32 => decT f .dot4I8 .dot8I4
  | 0x33 => decT f .dot2F16 .dot2Bf16
  | 0x34 => decT f .pk2E4m3 .pk2E5m2
  | 0x35 => decT f .pk2E2m1 .pk2I4
  | 0x36 => decT f .pk2E3m2 .pk2I8
  | 0x37 => 
    match f.lo / 8 with
    | 0 => do
      let e ← finOf 4 (f.lo % 8)
      decDA f (fun g d a => .upkE4m3 g d a e)
    | 1 => do
      let e ← finOf 4 (f.lo % 8)
      decDA f (fun g d a => .upkE5m2 g d a e)
    | 2 => do
      let e ← finOf 4 (f.lo % 8)
      decDA f (fun g d a => .upkE3m2 g d a e)
    | 3 => do
      let e ← finOf 8 (f.lo % 8)
      decDA f (fun g d a => .upkE2m1 g d a e)
    | 4 => do
      let e ← finOf 4 (f.lo % 8)
      decDA f (fun g d a => .upkI8 g d a e)
    | 5 => do
      let e ← finOf 8 (f.lo % 8)
      decDA f (fun g d a => .upkI4 g d a e)
    | 6 => do
      let e ← finOf 2 (f.lo % 8)
      decDA f (fun g d a => .upkF16 g d a e)
    | 7 => do
      let e ← finOf 2 (f.lo % 8)
      decDA f (fun g d a => .upkBf16 g d a e)
    | 8 => do
      let e ← finOf 4 (f.lo % 8)
      decDA f (fun g d a => .upkK8 g d a e)
    | _ => .error .function
  | 0x38 => decC f .setpI32 .setpN32
  | 0x39 => decC f .setpI64 .setpN64
  | 0x3A => decC f .setpF64 .setpF32
  | 0x3B => decL f
  | 0x3C => 
    match f.lo with
    | 0 => decD f .p2v
    | 1 => decA f .v2p
    | 2 => do
      let k ← finOf 7 f.a
      let d ← operandOf f.d
      return .pmask (guardOf f.g) d k
    | _ => .error .function
  | 0x40 => .ok (.bra (guardOf f.g) (targetOf f) (BitVec.ofNat 9 (reconvOf f)))
  | 0x41 => fixedAt (reconvOf f) 0 (.ok (.call (guardOf f.g) (targetOf f)))
  | 0x42 => 
    match f.lo with
    | 0 => dec0 f .ret
    | 1 => dec0 f .exit
    | 2 => decA f .jmpr
    | 3 => decA f .callr
    | _ => .error .function
  | 0x43 => 
    match f.lo with
    | 0 => dec0 f .yield
    | 1 => dec0 f .wsync
    | 2 => decD f .splitId
    | 3 => decD f .splitMask
    | _ => .error .function
  | 0x44 => 
    fixedAt (f.lo % 64 / 16) 0 <|
    match f.lo / 64 with
    | 0 => decA f (fun g a => .barArrive g a (BitVec.ofNat 4 (f.lo % 16)))
    | 1 => decA f (fun g a => .barWait g a (BitVec.ofNat 4 (f.lo % 16)))
    | 2 => decA f (fun g a => .barSync g a (BitVec.ofNat 4 (f.lo % 16)))
    | _ => .error .function
  | 0x45 => 
    fixedAt (f.lo % 64 / 8) 0 <|
    match f.lo / 64 with
    | 0 => decA f (fun g a => .cbarArrive g a (BitVec.ofNat 3 (f.lo % 8)))
    | 1 => decA f (fun g a => .cbarWait g a (BitVec.ofNat 3 (f.lo % 8)))
    | 2 => decA f (fun g a => .cbarSync g a (BitVec.ofNat 3 (f.lo % 8)))
    | _ => .error .function
  | 0x46 => 
    match f.lo with
    | 0 => decDA f .abarInit
    | 1 => decDA f .abarOwe
    | 2 => decDA f .abarArrive
    | 3 => decDA f .abarWait
    | 4 => decDA f .abarTest
    | 5 => decA f .abarInval
    | _ => .error .function
  | 0x47 => 
    match f.lo with
    | 0 => decA f .sleep
    | 1 => dec0 f .nop
    | _ => .error .function
  | 0x50 => decM f false .ld
  | 0x51 => decM f true .st
  | 0x52 => fixedAt (f.lo / 4 % 8) 0 (decM f false (fun g d a w _ => .ldSp g d a w))
  | 0x53 => fixedAt (f.lo / 4 % 8) 0 (decM f true (fun g d a w _ => .stSp g d a w))
  | 0x54 => decV f .ldv32 .ldv32Chk
  | 0x55 => decV f .ldv64 .ldv64Chk
  | 0x56 => decAtom f false .atom
  | 0x57 => decAtom f true .atomSp
  | 0x58 => decOrdered f
  | 0x59 => fixedAt (f.d * 128 + f.a) 0 do
    let s ← scopeOf (f.lo / 32)
    return .fence (guardOf f.g) s (BitVec.ofNat 5 (f.lo % 32))
  | 0x5A => 
    match f.lo with
    | 0 => decDA f .stashMap
    | 1 => decA f .stashUnmap
    | 2 => decA f .stashWb
    | 3 => decA f .stashInv
    | _ => .error .function
  | 0x5B => fixedAt (reconvOf f) 0 (.ok (.arBegin (guardOf f.g) (targetOf f)))
  | 0x5C => 
    match f.lo with
    | 16 => decA f .arAbort
    | 17 => decD f .arStatus
    | n => do
      let s ← scopeOf n
      dec0 f (fun g => .arEnd g s)
  | 0x5D => 
    fixedAt (f.lo / 32) 0 <| fixedAt (f.lo % 4) 0 <|
    match f.lo / 4 % 8 with
    | 5 => decA f .wbl
    | 6 => decA f .invl
    | n => do
      let p ← policyOf n
      decA f (fun g a => .prf g a p)
  | 0x60 => do
    let q ← queueOf f.d
    let a ← operandOf f.a
    let c ← finOf 9 f.lo
    return .qbind (guardOf f.g) q a c
  | 0x61 => 
    match f.lo with
    | 0 => fixedAt f.a 124 do
      let q ← queueOf f.d
      return .qunbind (guardOf f.g) q
    | 1 => do
      let d ← operandOf f.d
      let q ← queueOf f.a
      return .qdepth (guardOf f.g) d q
    | 2 => do
      let d ← operandOf f.d
      let q ← queueOf f.a
      return .qspace (guardOf f.g) d q
    | 3 => fixedAt f.d 124 do
      let q ← queueOf f.a
      return .qdrain (guardOf f.g) q
    | _ => .error .function
  | 0x62 => do
    let q ← finOf 8 f.lo
    decA f (fun g a => .qsend g a q)
  | 0x63 => do
    let q ← finOf 8 f.lo
    decD f (fun g d => .qrecv g d q)
  | 0x64 => 
    match f.lo with
    | 0 => decDA f .cpG2s
    | 1 => decDA f .cpS2g
    | 2 => decDA f .cpG2g
    | 3 => decDA f .cpS2s
    | 4 => decDA f .cpMcast
    | 5 => decDA f .cpTile2d
    | 6 => dec0 f .cpSeal
    | 7 => decDA f .cpWptr
    | _ => .error .function
  | 0x65 => dec0 f (fun g => .waitCnt g (BitVec.ofNat 3 (f.lo / 32)) (BitVec.ofNat 5 (f.lo % 32)))
  | 0x66 => 
    match f.lo with
    | 0 => decDA f .collHalo
    | 1 => decDA f .collAllred
    | 2 => decDA f .collA2a
    | 3 => decDA f .collRs
    | 4 => decDA f .collAg
    | 5 => decDA f .collTest
    | _ => .error .function
  | 0x67 => 
    match f.lo with
    | 0 => decDA f .stkInit
    | 1 => decA f .stkPush
    | 2 => decD f .stkPop
    | 3 => decD f .stkTop
    | 4 => decD f .stkDepth
    | _ => .error .function
  | 0x68 => 
    match f.lo with
    | 0 => decDA f .mloadB
    | _ => .error .function
  | 0x69 => 
    match f.lo with
    | 0 => decDA f .mma
    | _ => .error .function
  | 0x6A => 
    match f.lo with
    | 0 => decD f .mzero
    | 1 => decDA f .mcvt
    | _ => .error .function
  | 0x6B => fixedAt f.lo 0 (decA f .sqPush)
  | 0x6C => 
    match f.lo with
    | 0 => dec0 f .armWait
    | 1 => dec0 f .armEnd
    | _ => .error .function
  | 0x70 => if f.lo = 255 then dec0 f .brkpt else decA f (fun g a => .trap g a (BitVec.ofNat 8 f.lo))
  | 0x71 => 
    match f.lo with
    | 0 => decDA f .evSignal
    | 1 => decDA f .evWait
    | 2 => decDA f .evTest
    | 3 => decA f .evReset
    | _ => .error .function
  | 0x72 => 
    match f.lo with
    | 0 => decA f .launch
    | 1 => decA f .feed
    | 2 => decD f .wpop
    | _ => .error .function
  | 0x73 => 
    fixedAt (f.lo / 64 % 2) 0 <|
    if f.lo % 64 = 0 then .error .function
    else if f.lo / 128 = 0 then dec0 f (fun g => .poolGive g (BitVec.ofNat 6 (f.lo % 64)))
    else dec0 f (fun g => .poolTake g (BitVec.ofNat 6 (f.lo % 64)))
  | 0x74 => 
    match f.lo with
    | 0 => decA f .traceMark
    | 1 => decD f .clk
    | 2 => decD f .ptime
    | _ => .error .function
  | 0x75 => 
    match f.lo with
    | 0 => decA f .verSet
    | 1 => decD f .verGet
    | 2 => decDA f .verPub
    | 3 => decDA f .verRack
    | 4 => decDA f .verQuery
    | _ => .error .function
  | _ => .error .major

/-- Decode one 32-bit instruction word. -/
noncomputable def decodeWord (w : Nat) : Except DecodeErr Instr := decodeFields (Fields.split w)

/-- The little-endian word of four bytes (R153). -/
def wordOfBytes (b0 b1 b2 b3 : Byte) : Nat :=
  b0.toNat + b1.toNat * 256 + b2.toNat * 65536 + b3.toNat * 16777216

/-- Decode the first instruction word of a list of bytes and give the rest of the list. -/
noncomputable def decode : List Byte → Except DecodeErr (Instr × List Byte)
  | b0 :: b1 :: b2 :: b3 :: rest => do
    let i ← decodeWord (wordOfBytes b0 b1 b2 b3)
    return (i, rest)
  | _ => .error .truncated

/-- The four bytes of a word as memory holds them (R153). -/
def bytesOfWord (w : Nat) : List Byte :=
  [BitVec.ofNat 8 w, BitVec.ofNat 8 (w / 256), BitVec.ofNat 8 (w / 65536), BitVec.ofNat 8 (w / 16777216)]

/-- The instruction of an opcode-table word: every row with an encoding is one 32-bit word. -/
noncomputable def decodeTableWord (nbits w : Nat) : Option Instr :=
  if nbits ≤ 32 then
    match decode (bytesOfWord w) with
    | .ok (i, _) => some i
    | .error _ => none
  else none

/-- The payload of `pfx.mod` (R160). -/
def pfxModCode (scv : Option (BitVec 3)) (sat : Bool) (nb : Option PReg) (rm : Option RM) : Nat :=
  (match scv with | some s => 2048 + s.toNat * 256 | none => 0) + (if sat then 128 else 0)
    + (match nb with | some p => 8 + p.val * 16 | none => 0) + (match rm with | some r => 4 + rmCode r | none => 0)

/-- The word of an instruction, from the encoding tables of R156-R175. The operations and events of the
table have no word. -/
def encode : Instr → Option Nat
  | .pfxLit l => some l.toNat
  | .pfxOff o => some (8388608 + o.toNat)
  | .pfxMod scv sat nb rm => some (16777216 + pfxModCode scv sat nb rm)
  | .pfxHint prv pri likely yld =>
    some (25165824 + (if prv then 32 else 0) + pri.toNat * 4 + (if likely then 2 else 0) + (if yld then 1 else 0))
  | .addI32 g d a b =>
    some (Fields.pack ⟨0x01, guardCode g, operandCode d, operandCode a, operandCode b * 2⟩)
  | .subI32 g d a b =>
    some (Fields.pack ⟨0x01, guardCode g, operandCode d, operandCode a, operandCode b * 2 + 1⟩)
  | .addiI32 g d a i => some (Fields.pack ⟨0x02, guardCode g, operandCode d, operandCode a, i.toNat⟩)
  | .addI64 g d a b =>
    some (Fields.pack ⟨0x03, guardCode g, operandCode d, operandCode a, operandCode b * 2⟩)
  | .subI64 g d a b =>
    some (Fields.pack ⟨0x03, guardCode g, operandCode d, operandCode a, operandCode b * 2 + 1⟩)
  | .mulI32 g d a b =>
    some (Fields.pack ⟨0x04, guardCode g, operandCode d, operandCode a, operandCode b * 2⟩)
  | .madI32 g d a b =>
    some (Fields.pack ⟨0x04, guardCode g, operandCode d, operandCode a, operandCode b * 2 + 1⟩)
  | .mulhiI32 g d a b =>
    some (Fields.pack ⟨0x05, guardCode g, operandCode d, operandCode a, operandCode b * 2⟩)
  | .mulhiN32 g d a b =>
    some (Fields.pack ⟨0x05, guardCode g, operandCode d, operandCode a, operandCode b * 2 + 1⟩)
  | .mulwideI32 g d a b =>
    some (Fields.pack ⟨0x06, guardCode g, operandCode d, operandCode a, operandCode b * 2⟩)
  | .mulwideN32 g d a b =>
    some (Fields.pack ⟨0x06, guardCode g, operandCode d, operandCode a, operandCode b * 2 + 1⟩)
  | .minI32 g d a b =>
    some (Fields.pack ⟨0x07, guardCode g, operandCode d, operandCode a, operandCode b * 2⟩)
  | .maxI32 g d a b =>
    some (Fields.pack ⟨0x07, guardCode g, operandCode d, operandCode a, operandCode b * 2 + 1⟩)
  | .minN32 g d a b =>
    some (Fields.pack ⟨0x08, guardCode g, operandCode d, operandCode a, operandCode b * 2⟩)
  | .maxN32 g d a b =>
    some (Fields.pack ⟨0x08, guardCode g, operandCode d, operandCode a, operandCode b * 2 + 1⟩)
  | .and g d a b => some (Fields.pack ⟨0x09, guardCode g, operandCode d, operandCode a, operandCode b * 2⟩)
  | .andn g d a b =>
    some (Fields.pack ⟨0x09, guardCode g, operandCode d, operandCode a, operandCode b * 2 + 1⟩)
  | .or g d a b => some (Fields.pack ⟨0x0A, guardCode g, operandCode d, operandCode a, operandCode b * 2⟩)
  | .xor g d a b =>
    some (Fields.pack ⟨0x0A, guardCode g, operandCode d, operandCode a, operandCode b * 2 + 1⟩)
  | .shl g d a b => some (Fields.pack ⟨0x0B, guardCode g, operandCode d, operandCode a, operandCode b * 2⟩)
  | .shr g d a b =>
    some (Fields.pack ⟨0x0B, guardCode g, operandCode d, operandCode a, operandCode b * 2 + 1⟩)
  | .sra g d a b => some (Fields.pack ⟨0x0C, guardCode g, operandCode d, operandCode a, operandCode b * 2⟩)
  | .rotl g d a b =>
    some (Fields.pack ⟨0x0C, guardCode g, operandCode d, operandCode a, operandCode b * 2 + 1⟩)
  | .shli g d a n => some (Fields.pack ⟨0x0D, guardCode g, operandCode d, operandCode a, n.toNat⟩)
  | .shri g d a n => some (Fields.pack ⟨0x0D, guardCode g, operandCode d, operandCode a, 64 + n.toNat⟩)
  | .srai g d a n => some (Fields.pack ⟨0x0D, guardCode g, operandCode d, operandCode a, 128 + n.toNat⟩)
  | .rotli g d a n => some (Fields.pack ⟨0x0D, guardCode g, operandCode d, operandCode a, 192 + n.toNat⟩)
  | .andi g d a i => some (Fields.pack ⟨0x0E, guardCode g, operandCode d, operandCode a, i.toNat⟩)
  | .ori g d a i => some (Fields.pack ⟨0x0E, guardCode g, operandCode d, operandCode a, 64 + i.toNat⟩)
  | .xori g d a i => some (Fields.pack ⟨0x0E, guardCode g, operandCode d, operandCode a, 128 + i.toNat⟩)
  | .bfeI32 g d a b =>
    some (Fields.pack ⟨0x0F, guardCode g, operandCode d, operandCode a, operandCode b * 2⟩)
  | .bfeN32 g d a b =>
    some (Fields.pack ⟨0x0F, guardCode g, operandCode d, operandCode a, operandCode b * 2 + 1⟩)
  | .bfi g d a b => some (Fields.pack ⟨0x10, guardCode g, operandCode d, operandCode a, operandCode b * 2⟩)
  | .divI32 g d a b =>
    some (Fields.pack ⟨0x11, guardCode g, operandCode d, operandCode a, operandCode b * 2⟩)
  | .divN32 g d a b =>
    some (Fields.pack ⟨0x11, guardCode g, operandCode d, operandCode a, operandCode b * 2 + 1⟩)
  | .remI32 g d a b =>
    some (Fields.pack ⟨0x12, guardCode g, operandCode d, operandCode a, operandCode b * 2⟩)
  | .remN32 g d a b =>
    some (Fields.pack ⟨0x12, guardCode g, operandCode d, operandCode a, operandCode b * 2 + 1⟩)
  | .movi g d i => some (Fields.pack ⟨0x13, guardCode g, operandCode d, i.toNat / 256, i.toNat % 256⟩)
  | .mov g d a => some (Fields.pack ⟨0x14, guardCode g, operandCode d, operandCode a, 0⟩)
  | .mov64 g d a => some (Fields.pack ⟨0x14, guardCode g, operandCode d, operandCode a, 1⟩)
  | .not g d a => some (Fields.pack ⟨0x14, guardCode g, operandCode d, operandCode a, 2⟩)
  | .negI32 g d a => some (Fields.pack ⟨0x14, guardCode g, operandCode d, operandCode a, 3⟩)
  | .absI32 g d a => some (Fields.pack ⟨0x14, guardCode g, operandCode d, operandCode a, 4⟩)
  | .popc g d a => some (Fields.pack ⟨0x14, guardCode g, operandCode d, operandCode a, 5⟩)
  | .clz g d a => some (Fields.pack ⟨0x14, guardCode g, operandCode d, operandCode a, 6⟩)
  | .ctz g d a => some (Fields.pack ⟨0x14, guardCode g, operandCode d, operandCode a, 7⟩)
  | .brev g d a => some (Fields.pack ⟨0x14, guardCode g, operandCode d, operandCode a, 8⟩)
  | .sext8 g d a => some (Fields.pack ⟨0x14, guardCode g, operandCode d, operandCode a, 9⟩)
  | .sext16 g d a => some (Fields.pack ⟨0x14, guardCode g, operandCode d, operandCode a, 10⟩)
  | .zext8 g d a => some (Fields.pack ⟨0x14, guardCode g, operandCode d, operandCode a, 11⟩)
  | .zext16 g d a => some (Fields.pack ⟨0x14, guardCode g, operandCode d, operandCode a, 12⟩)
  | .negI64 g d a => some (Fields.pack ⟨0x14, guardCode g, operandCode d, operandCode a, 13⟩)
  | .popc64 g d a => some (Fields.pack ⟨0x14, guardCode g, operandCode d, operandCode a, 14⟩)
  | .clz64 g d a => some (Fields.pack ⟨0x14, guardCode g, operandCode d, operandCode a, 15⟩)
  | .cvtF64I32 g d a => some (Fields.pack ⟨0x15, guardCode g, operandCode d, operandCode a, 0⟩)
  | .cvtF64N32 g d a => some (Fields.pack ⟨0x15, guardCode g, operandCode d, operandCode a, 1⟩)
  | .cvtF64I64 g d a => some (Fields.pack ⟨0x15, guardCode g, operandCode d, operandCode a, 2⟩)
  | .cvtI32F64 g d a => some (Fields.pack ⟨0x15, guardCode g, operandCode d, operandCode a, 3⟩)
  | .cvtN32F64 g d a => some (Fields.pack ⟨0x15, guardCode g, operandCode d, operandCode a, 4⟩)
  | .cvtI64F64 g d a => some (Fields.pack ⟨0x15, guardCode g, operandCode d, operandCode a, 5⟩)
  | .cvtF32I32 g d a => some (Fields.pack ⟨0x15, guardCode g, operandCode d, operandCode a, 6⟩)
  | .cvtI32F32 g d a => some (Fields.pack ⟨0x15, guardCode g, operandCode d, operandCode a, 7⟩)
  | .cvtF32F64 g d a => some (Fields.pack ⟨0x15, guardCode g, operandCode d, operandCode a, 8⟩)
  | .cvtF64F32 g d a => some (Fields.pack ⟨0x15, guardCode g, operandCode d, operandCode a, 9⟩)
  | .cvtF16F32 g d a => some (Fields.pack ⟨0x15, guardCode g, operandCode d, operandCode a, 10⟩)
  | .cvtF32F16 g d a => some (Fields.pack ⟨0x15, guardCode g, operandCode d, operandCode a, 11⟩)
  | .cvtBf16F32 g d a => some (Fields.pack ⟨0x15, guardCode g, operandCode d, operandCode a, 12⟩)
  | .cvtF32Bf16 g d a => some (Fields.pack ⟨0x15, guardCode g, operandCode d, operandCode a, 13⟩)
  | .lxFrom g d a b =>
    some (Fields.pack ⟨0x16, guardCode g, operandCode d, operandCode a, operandCode b * 2⟩)
  | .lxMix g d a b =>
    some (Fields.pack ⟨0x16, guardCode g, operandCode d, operandCode a, operandCode b * 2 + 1⟩)
  | .lxBack g d a b =>
    some (Fields.pack ⟨0x17, guardCode g, operandCode d, operandCode a, operandCode b * 2⟩)
  | .lxFwd g d a b =>
    some (Fields.pack ⟨0x17, guardCode g, operandCode d, operandCode a, operandCode b * 2 + 1⟩)
  | .xlAll g d a => some (Fields.pack ⟨0x18, guardCode g, operandCode d, operandCode a, 0⟩)
  | .xlAny g d a => some (Fields.pack ⟨0x18, guardCode g, operandCode d, operandCode a, 1⟩)
  | .xlBits g d a => some (Fields.pack ⟨0x18, guardCode g, operandCode d, operandCode a, 2⟩)
  | .xlSame g d a => some (Fields.pack ⟨0x18, guardCode g, operandCode d, operandCode a, 3⟩)
  | .xlPeers g d a => some (Fields.pack ⟨0x18, guardCode g, operandCode d, operandCode a, 4⟩)
  | .xlAddI32 g d a => some (Fields.pack ⟨0x18, guardCode g, operandCode d, operandCode a, 5⟩)
  | .xlMinI32 g d a => some (Fields.pack ⟨0x18, guardCode g, operandCode d, operandCode a, 6⟩)
  | .xlMaxI32 g d a => some (Fields.pack ⟨0x18, guardCode g, operandCode d, operandCode a, 7⟩)
  | .xlAnd g d a => some (Fields.pack ⟨0x18, guardCode g, operandCode d, operandCode a, 8⟩)
  | .xlOr g d a => some (Fields.pack ⟨0x18, guardCode g, operandCode d, operandCode a, 9⟩)
  | .xlXor g d a => some (Fields.pack ⟨0x18, guardCode g, operandCode d, operandCode a, 10⟩)
  | .xlBelow g d => some (Fields.pack ⟨0x18, guardCode g, operandCode d, 124, 11⟩)
  | .ixset g a x => some (Fields.pack ⟨0x19, guardCode g, 124, operandCode a, x.val⟩)
  | .ixadd g a x => some (Fields.pack ⟨0x19, guardCode g, 124, operandCode a, 4 + x.val⟩)
  | .ixget g d x => some (Fields.pack ⟨0x19, guardCode g, operandCode d, 124, 8 + x.val⟩)
  | .gets g d s => some (Fields.pack ⟨0x1A, guardCode g, operandCode d, 124, getsSelCode s⟩)
  | .sets g a s => some (Fields.pack ⟨0x1B, guardCode g, 124, operandCode a, setsSelCode s⟩)
  | .addF64 g d a b =>
    some (Fields.pack ⟨0x20, guardCode g, operandCode d, operandCode a, operandCode b * 2⟩)
  | .subF64 g d a b =>
    some (Fields.pack ⟨0x20, guardCode g, operandCode d, operandCode a, operandCode b * 2 + 1⟩)
  | .mulF64 g d a b =>
    some (Fields.pack ⟨0x21, guardCode g, operandCode d, operandCode a, operandCode b * 2⟩)
  | .fmaF64 g d a b =>
    some (Fields.pack ⟨0x21, guardCode g, operandCode d, operandCode a, operandCode b * 2 + 1⟩)
  | .fmsF64 g d a b =>
    some (Fields.pack ⟨0x22, guardCode g, operandCode d, operandCode a, operandCode b * 2⟩)
  | .fnmaF64 g d a b =>
    some (Fields.pack ⟨0x22, guardCode g, operandCode d, operandCode a, operandCode b * 2 + 1⟩)
  | .minF64 g d a b =>
    some (Fields.pack ⟨0x23, guardCode g, operandCode d, operandCode a, operandCode b * 2⟩)
  | .maxF64 g d a b =>
    some (Fields.pack ⟨0x23, guardCode g, operandCode d, operandCode a, operandCode b * 2 + 1⟩)
  | .divF64 g d a b =>
    some (Fields.pack ⟨0x24, guardCode g, operandCode d, operandCode a, operandCode b * 2⟩)
  | .scaleF64 g d a b =>
    some (Fields.pack ⟨0x24, guardCode g, operandCode d, operandCode a, operandCode b * 2 + 1⟩)
  | .negF64 g d a => some (Fields.pack ⟨0x25, guardCode g, operandCode d, operandCode a, 0⟩)
  | .absF64 g d a => some (Fields.pack ⟨0x25, guardCode g, operandCode d, operandCode a, 1⟩)
  | .sqrtF64 g d a => some (Fields.pack ⟨0x25, guardCode g, operandCode d, operandCode a, 2⟩)
  | .rcpF64 g d a => some (Fields.pack ⟨0x25, guardCode g, operandCode d, operandCode a, 3⟩)
  | .rsqEstF64 g d a => some (Fields.pack ⟨0x25, guardCode g, operandCode d, operandCode a, 4⟩)
  | .floorF64 g d a => some (Fields.pack ⟨0x25, guardCode g, operandCode d, operandCode a, 5⟩)
  | .ceilF64 g d a => some (Fields.pack ⟨0x25, guardCode g, operandCode d, operandCode a, 6⟩)
  | .truncF64 g d a => some (Fields.pack ⟨0x25, guardCode g, operandCode d, operandCode a, 7⟩)
  | .rintF64 g d a => some (Fields.pack ⟨0x25, guardCode g, operandCode d, operandCode a, 8⟩)
  | .classF64 g d a => some (Fields.pack ⟨0x25, guardCode g, operandCode d, operandCode a, 9⟩)
  | .getexpF64 g d a => some (Fields.pack ⟨0x25, guardCode g, operandCode d, operandCode a, 10⟩)
  | .getmantF64 g d a => some (Fields.pack ⟨0x25, guardCode g, operandCode d, operandCode a, 11⟩)
  | .addF32 g d a b =>
    some (Fields.pack ⟨0x26, guardCode g, operandCode d, operandCode a, operandCode b * 2⟩)
  | .subF32 g d a b =>
    some (Fields.pack ⟨0x26, guardCode g, operandCode d, operandCode a, operandCode b * 2 + 1⟩)
  | .mulF32 g d a b =>
    some (Fields.pack ⟨0x27, guardCode g, operandCode d, operandCode a, operandCode b * 2⟩)
  | .fmaF32 g d a b =>
    some (Fields.pack ⟨0x27, guardCode g, operandCode d, operandCode a, operandCode b * 2 + 1⟩)
  | .addF32x2 g d a b =>
    some (Fields.pack ⟨0x28, guardCode g, operandCode d, operandCode a, operandCode b * 2⟩)
  | .mulF32x2 g d a b =>
    some (Fields.pack ⟨0x28, guardCode g, operandCode d, operandCode a, operandCode b * 2 + 1⟩)
  | .fmaF32x2 g d a b =>
    some (Fields.pack ⟨0x29, guardCode g, operandCode d, operandCode a, operandCode b * 2⟩)
  | .fnmaF32x2 g d a b =>
    some (Fields.pack ⟨0x29, guardCode g, operandCode d, operandCode a, operandCode b * 2 + 1⟩)
  | .minF32 g d a b =>
    some (Fields.pack ⟨0x2A, guardCode g, operandCode d, operandCode a, operandCode b * 2⟩)
  | .maxF32 g d a b =>
    some (Fields.pack ⟨0x2A, guardCode g, operandCode d, operandCode a, operandCode b * 2 + 1⟩)
  | .divF32 g d a b =>
    some (Fields.pack ⟨0x2B, guardCode g, operandCode d, operandCode a, operandCode b * 2⟩)
  | .scaleF32 g d a b =>
    some (Fields.pack ⟨0x2B, guardCode g, operandCode d, operandCode a, operandCode b * 2 + 1⟩)
  | .negF32 g d a => some (Fields.pack ⟨0x2C, guardCode g, operandCode d, operandCode a, 0⟩)
  | .absF32 g d a => some (Fields.pack ⟨0x2C, guardCode g, operandCode d, operandCode a, 1⟩)
  | .sqrtF32 g d a => some (Fields.pack ⟨0x2C, guardCode g, operandCode d, operandCode a, 2⟩)
  | .rcpF32 g d a => some (Fields.pack ⟨0x2C, guardCode g, operandCode d, operandCode a, 3⟩)
  | .rsqEstF32 g d a => some (Fields.pack ⟨0x2C, guardCode g, operandCode d, operandCode a, 4⟩)
  | .exp2EstF32 g d a => some (Fields.pack ⟨0x2C, guardCode g, operandCode d, operandCode a, 5⟩)
  | .log2EstF32 g d a => some (Fields.pack ⟨0x2C, guardCode g, operandCode d, operandCode a, 6⟩)
  | .sinEstF32 g d a => some (Fields.pack ⟨0x2C, guardCode g, operandCode d, operandCode a, 7⟩)
  | .cosEstF32 g d a => some (Fields.pack ⟨0x2C, guardCode g, operandCode d, operandCode a, 8⟩)
  | .tanhEstF32 g d a => some (Fields.pack ⟨0x2C, guardCode g, operandCode d, operandCode a, 9⟩)
  | .floorF32 g d a => some (Fields.pack ⟨0x2C, guardCode g, operandCode d, operandCode a, 10⟩)
  | .ceilF32 g d a => some (Fields.pack ⟨0x2C, guardCode g, operandCode d, operandCode a, 11⟩)
  | .truncF32 g d a => some (Fields.pack ⟨0x2C, guardCode g, operandCode d, operandCode a, 12⟩)
  | .rintF32 g d a => some (Fields.pack ⟨0x2C, guardCode g, operandCode d, operandCode a, 13⟩)
  | .classF32 g d a => some (Fields.pack ⟨0x2C, guardCode g, operandCode d, operandCode a, 14⟩)
  | .fmaF16x2 g d a b =>
    some (Fields.pack ⟨0x2D, guardCode g, operandCode d, operandCode a, operandCode b * 2⟩)
  | .fmaBf16x2 g d a b =>
    some (Fields.pack ⟨0x2D, guardCode g, operandCode d, operandCode a, operandCode b * 2 + 1⟩)
  | .addF16x2 g d a b =>
    some (Fields.pack ⟨0x2E, guardCode g, operandCode d, operandCode a, operandCode b * 2⟩)
  | .mulF16x2 g d a b =>
    some (Fields.pack ⟨0x2E, guardCode g, operandCode d, operandCode a, operandCode b * 2 + 1⟩)
  | .addBf16x2 g d a b =>
    some (Fields.pack ⟨0x2F, guardCode g, operandCode d, operandCode a, operandCode b * 2⟩)
  | .mulBf16x2 g d a b =>
    some (Fields.pack ⟨0x2F, guardCode g, operandCode d, operandCode a, operandCode b * 2 + 1⟩)
  | .dot4E4m3 g d a b =>
    some (Fields.pack ⟨0x30, guardCode g, operandCode d, operandCode a, operandCode b * 2⟩)
  | .dot4E5m2 g d a b =>
    some (Fields.pack ⟨0x30, guardCode g, operandCode d, operandCode a, operandCode b * 2 + 1⟩)
  | .dot4E3m2 g d a b =>
    some (Fields.pack ⟨0x31, guardCode g, operandCode d, operandCode a, operandCode b * 2⟩)
  | .dot8E2m1 g d a b =>
    some (Fields.pack ⟨0x31, guardCode g, operandCode d, operandCode a, operandCode b * 2 + 1⟩)
  | .dot4I8 g d a b =>
    some (Fields.pack ⟨0x32, guardCode g, operandCode d, operandCode a, operandCode b * 2⟩)
  | .dot8I4 g d a b =>
    some (Fields.pack ⟨0x32, guardCode g, operandCode d, operandCode a, operandCode b * 2 + 1⟩)
  | .dot2F16 g d a b =>
    some (Fields.pack ⟨0x33, guardCode g, operandCode d, operandCode a, operandCode b * 2⟩)
  | .dot2Bf16 g d a b =>
    some (Fields.pack ⟨0x33, guardCode g, operandCode d, operandCode a, operandCode b * 2 + 1⟩)
  | .pk2E4m3 g d a b =>
    some (Fields.pack ⟨0x34, guardCode g, operandCode d, operandCode a, operandCode b * 2⟩)
  | .pk2E5m2 g d a b =>
    some (Fields.pack ⟨0x34, guardCode g, operandCode d, operandCode a, operandCode b * 2 + 1⟩)
  | .pk2E2m1 g d a b =>
    some (Fields.pack ⟨0x35, guardCode g, operandCode d, operandCode a, operandCode b * 2⟩)
  | .pk2I4 g d a b =>
    some (Fields.pack ⟨0x35, guardCode g, operandCode d, operandCode a, operandCode b * 2 + 1⟩)
  | .pk2E3m2 g d a b =>
    some (Fields.pack ⟨0x36, guardCode g, operandCode d, operandCode a, operandCode b * 2⟩)
  | .pk2I8 g d a b =>
    some (Fields.pack ⟨0x36, guardCode g, operandCode d, operandCode a, operandCode b * 2 + 1⟩)
  | .upkE4m3 g d a e => some (Fields.pack ⟨0x37, guardCode g, operandCode d, operandCode a, e.val⟩)
  | .upkE5m2 g d a e => some (Fields.pack ⟨0x37, guardCode g, operandCode d, operandCode a, 8 + e.val⟩)
  | .upkE3m2 g d a e => some (Fields.pack ⟨0x37, guardCode g, operandCode d, operandCode a, 16 + e.val⟩)
  | .upkE2m1 g d a e => some (Fields.pack ⟨0x37, guardCode g, operandCode d, operandCode a, 24 + e.val⟩)
  | .upkI8 g d a e => some (Fields.pack ⟨0x37, guardCode g, operandCode d, operandCode a, 32 + e.val⟩)
  | .upkI4 g d a e => some (Fields.pack ⟨0x37, guardCode g, operandCode d, operandCode a, 40 + e.val⟩)
  | .upkF16 g d a e => some (Fields.pack ⟨0x37, guardCode g, operandCode d, operandCode a, 48 + e.val⟩)
  | .upkBf16 g d a e => some (Fields.pack ⟨0x37, guardCode g, operandCode d, operandCode a, 56 + e.val⟩)
  | .upkK8 g d a e => some (Fields.pack ⟨0x37, guardCode g, operandCode d, operandCode a, 64 + e.val⟩)
  | .setpI32 g p c a b =>
    some (Fields.pack ⟨0x38, guardCode g, (cdstCode p).1 * 16 + cmpCode c * 2 + (cdstCode p).2, operandCode a, operandCode b * 2⟩)
  | .setpN32 g p c a b =>
    some (Fields.pack ⟨0x38, guardCode g, (cdstCode p).1 * 16 + cmpCode c * 2 + (cdstCode p).2, operandCode a, operandCode b * 2 + 1⟩)
  | .setpI64 g p c a b =>
    some (Fields.pack ⟨0x39, guardCode g, (cdstCode p).1 * 16 + cmpCode c * 2 + (cdstCode p).2, operandCode a, operandCode b * 2⟩)
  | .setpN64 g p c a b =>
    some (Fields.pack ⟨0x39, guardCode g, (cdstCode p).1 * 16 + cmpCode c * 2 + (cdstCode p).2, operandCode a, operandCode b * 2 + 1⟩)
  | .setpF64 g p c a b =>
    some (Fields.pack ⟨0x3A, guardCode g, (cdstCode p).1 * 16 + cmpCode c * 2 + (cdstCode p).2, operandCode a, operandCode b * 2⟩)
  | .setpF32 g p c a b =>
    some (Fields.pack ⟨0x3A, guardCode g, (cdstCode p).1 * 16 + cmpCode c * 2 + (cdstCode p).2, operandCode a, operandCode b * 2 + 1⟩)
  | .pand g p x y =>
    some (Fields.pack ⟨0x3B, guardCode g, pselCode p * 16 + pselCode x * 2 + pselCode y / 4, pselCode y % 4 * 32 + 0, 0⟩)
  | .por g p x y =>
    some (Fields.pack ⟨0x3B, guardCode g, pselCode p * 16 + pselCode x * 2 + pselCode y / 4, pselCode y % 4 * 32 + 1, 0⟩)
  | .pxor g p x y =>
    some (Fields.pack ⟨0x3B, guardCode g, pselCode p * 16 + pselCode x * 2 + pselCode y / 4, pselCode y % 4 * 32 + 2, 0⟩)
  | .pandn g p x y =>
    some (Fields.pack ⟨0x3B, guardCode g, pselCode p * 16 + pselCode x * 2 + pselCode y / 4, pselCode y % 4 * 32 + 3, 0⟩)
  | .porn g p x y =>
    some (Fields.pack ⟨0x3B, guardCode g, pselCode p * 16 + pselCode x * 2 + pselCode y / 4, pselCode y % 4 * 32 + 4, 0⟩)
  | .pnot g p x => some (Fields.pack ⟨0x3B, guardCode g, pselCode p * 16 + pselCode x * 2, 5, 0⟩)
  | .pmov g p x => some (Fields.pack ⟨0x3B, guardCode g, pselCode p * 16 + pselCode x * 2, 6, 0⟩)
  | .pset g p => some (Fields.pack ⟨0x3B, guardCode g, pselCode p * 16, 7, 0⟩)
  | .pclr g p => some (Fields.pack ⟨0x3B, guardCode g, pselCode p * 16, 8, 0⟩)
  | .p2v g d => some (Fields.pack ⟨0x3C, guardCode g, operandCode d, 124, 0⟩)
  | .v2p g a => some (Fields.pack ⟨0x3C, guardCode g, 124, operandCode a, 1⟩)
  | .pmask g d k => some (Fields.pack ⟨0x3C, guardCode g, operandCode d, k.val, 2⟩)
  | .bra g t r =>
    some (Fields.pack ⟨0x40, guardCode g, t.toNat / 64, t.toNat % 64 * 2 + r.toNat / 256, r.toNat % 256⟩)
  | .call g t => some (Fields.pack ⟨0x41, guardCode g, t.toNat / 64, t.toNat % 64 * 2, 0⟩)
  | .ret g => some (Fields.pack ⟨0x42, guardCode g, 124, 124, 0⟩)
  | .exit g => some (Fields.pack ⟨0x42, guardCode g, 124, 124, 1⟩)
  | .jmpr g a => some (Fields.pack ⟨0x42, guardCode g, 124, operandCode a, 2⟩)
  | .callr g a => some (Fields.pack ⟨0x42, guardCode g, 124, operandCode a, 3⟩)
  | .yield g => some (Fields.pack ⟨0x43, guardCode g, 124, 124, 0⟩)
  | .wsync g => some (Fields.pack ⟨0x43, guardCode g, 124, 124, 1⟩)
  | .splitId g d => some (Fields.pack ⟨0x43, guardCode g, operandCode d, 124, 2⟩)
  | .splitMask g d => some (Fields.pack ⟨0x43, guardCode g, operandCode d, 124, 3⟩)
  | .barArrive g a n => some (Fields.pack ⟨0x44, guardCode g, 124, operandCode a, n.toNat⟩)
  | .barWait g a n => some (Fields.pack ⟨0x44, guardCode g, 124, operandCode a, 64 + n.toNat⟩)
  | .barSync g a n => some (Fields.pack ⟨0x44, guardCode g, 124, operandCode a, 128 + n.toNat⟩)
  | .cbarArrive g a n => some (Fields.pack ⟨0x45, guardCode g, 124, operandCode a, n.toNat⟩)
  | .cbarWait g a n => some (Fields.pack ⟨0x45, guardCode g, 124, operandCode a, 64 + n.toNat⟩)
  | .cbarSync g a n => some (Fields.pack ⟨0x45, guardCode g, 124, operandCode a, 128 + n.toNat⟩)
  | .abarInit g d a => some (Fields.pack ⟨0x46, guardCode g, operandCode d, operandCode a, 0⟩)
  | .abarOwe g d a => some (Fields.pack ⟨0x46, guardCode g, operandCode d, operandCode a, 1⟩)
  | .abarArrive g d a => some (Fields.pack ⟨0x46, guardCode g, operandCode d, operandCode a, 2⟩)
  | .abarWait g d a => some (Fields.pack ⟨0x46, guardCode g, operandCode d, operandCode a, 3⟩)
  | .abarTest g d a => some (Fields.pack ⟨0x46, guardCode g, operandCode d, operandCode a, 4⟩)
  | .abarInval g a => some (Fields.pack ⟨0x46, guardCode g, 124, operandCode a, 5⟩)
  | .sleep g a => some (Fields.pack ⟨0x47, guardCode g, 124, operandCode a, 0⟩)
  | .nop g => some (Fields.pack ⟨0x47, guardCode g, 124, 124, 1⟩)
  | .ld g d a w p =>
    some (Fields.pack ⟨0x50, guardCode g, operandCode d, operandCode a, widthCode w * 32 + policyCode p * 4⟩)
  | .st g d a w p =>
    some (Fields.pack ⟨0x51, guardCode g, operandCode d, operandCode a, widthCode w * 32 + policyCode p * 4⟩)
  | .ldSp g d a w => some (Fields.pack ⟨0x52, guardCode g, operandCode d, operandCode a, widthCode w * 32⟩)
  | .stSp g d a w => some (Fields.pack ⟨0x53, guardCode g, operandCode d, operandCode a, widthCode w * 32⟩)
  | .ldv32 g d a b =>
    some (Fields.pack ⟨0x54, guardCode g, operandCode d, operandCode a, operandCode b * 2⟩)
  | .ldv32Chk p d a b =>
    some (Fields.pack ⟨0x54, p.val, operandCode d, operandCode a, operandCode b * 2 + 1⟩)
  | .ldv64 g d a b =>
    some (Fields.pack ⟨0x55, guardCode g, operandCode d, operandCode a, operandCode b * 2⟩)
  | .ldv64Chk p d a b =>
    some (Fields.pack ⟨0x55, p.val, operandCode d, operandCode a, operandCode b * 2 + 1⟩)
  | .atom g d a s o =>
    some (Fields.pack ⟨0x56, guardCode g, operandCode d, operandCode a, scopeCode s * 32 + atomOpCode o⟩)
  | .atomSp g d a s o =>
    some (Fields.pack ⟨0x57, guardCode g, operandCode d, operandCode a, scopeCode s * 32 + atomOpCode o⟩)
  | .ldAcq g d a s w =>
    some (Fields.pack ⟨0x58, guardCode g, operandCode d, operandCode a, scopeCode s * 32 + widthCode w⟩)
  | .stRel g d a s w =>
    some (Fields.pack ⟨0x58, guardCode g, operandCode d, operandCode a, scopeCode s * 32 + 8 + widthCode w⟩)
  | .fence g s k => some (Fields.pack ⟨0x59, guardCode g, 0, 0, scopeCode s * 32 + k.toNat⟩)
  | .stashMap g d a => some (Fields.pack ⟨0x5A, guardCode g, operandCode d, operandCode a, 0⟩)
  | .stashUnmap g a => some (Fields.pack ⟨0x5A, guardCode g, 124, operandCode a, 1⟩)
  | .stashWb g a => some (Fields.pack ⟨0x5A, guardCode g, 124, operandCode a, 2⟩)
  | .stashInv g a => some (Fields.pack ⟨0x5A, guardCode g, 124, operandCode a, 3⟩)
  | .arBegin g t => some (Fields.pack ⟨0x5B, guardCode g, t.toNat / 64, t.toNat % 64 * 2, 0⟩)
  | .arEnd g s => some (Fields.pack ⟨0x5C, guardCode g, 124, 124, scopeCode s⟩)
  | .arAbort g a => some (Fields.pack ⟨0x5C, guardCode g, 124, operandCode a, 16⟩)
  | .arStatus g d => some (Fields.pack ⟨0x5C, guardCode g, operandCode d, 124, 17⟩)
  | .prf g a p => some (Fields.pack ⟨0x5D, guardCode g, 124, operandCode a, policyCode p * 4⟩)
  | .wbl g a => some (Fields.pack ⟨0x5D, guardCode g, 124, operandCode a, 20⟩)
  | .invl g a => some (Fields.pack ⟨0x5D, guardCode g, 124, operandCode a, 24⟩)
  | .qbind g q a c => some (Fields.pack ⟨0x60, guardCode g, 116 + q.val, operandCode a, c.val⟩)
  | .qunbind g q => some (Fields.pack ⟨0x61, guardCode g, 116 + q.val, 124, 0⟩)
  | .qdepth g d q => some (Fields.pack ⟨0x61, guardCode g, operandCode d, 116 + q.val, 1⟩)
  | .qspace g d q => some (Fields.pack ⟨0x61, guardCode g, operandCode d, 116 + q.val, 2⟩)
  | .qdrain g q => some (Fields.pack ⟨0x61, guardCode g, 124, 116 + q.val, 3⟩)
  | .qsend g a q => some (Fields.pack ⟨0x62, guardCode g, 124, operandCode a, q.val⟩)
  | .qrecv g d q => some (Fields.pack ⟨0x63, guardCode g, operandCode d, 124, q.val⟩)
  | .cpG2s g d a => some (Fields.pack ⟨0x64, guardCode g, operandCode d, operandCode a, 0⟩)
  | .cpS2g g d a => some (Fields.pack ⟨0x64, guardCode g, operandCode d, operandCode a, 1⟩)
  | .cpG2g g d a => some (Fields.pack ⟨0x64, guardCode g, operandCode d, operandCode a, 2⟩)
  | .cpS2s g d a => some (Fields.pack ⟨0x64, guardCode g, operandCode d, operandCode a, 3⟩)
  | .cpMcast g d a => some (Fields.pack ⟨0x64, guardCode g, operandCode d, operandCode a, 4⟩)
  | .cpTile2d g d a => some (Fields.pack ⟨0x64, guardCode g, operandCode d, operandCode a, 5⟩)
  | .cpSeal g => some (Fields.pack ⟨0x64, guardCode g, 124, 124, 6⟩)
  | .cpWptr g d a => some (Fields.pack ⟨0x64, guardCode g, operandCode d, operandCode a, 7⟩)
  | .waitCnt g c t => some (Fields.pack ⟨0x65, guardCode g, 124, 124, c.toNat * 32 + t.toNat⟩)
  | .collHalo g d a => some (Fields.pack ⟨0x66, guardCode g, operandCode d, operandCode a, 0⟩)
  | .collAllred g d a => some (Fields.pack ⟨0x66, guardCode g, operandCode d, operandCode a, 1⟩)
  | .collA2a g d a => some (Fields.pack ⟨0x66, guardCode g, operandCode d, operandCode a, 2⟩)
  | .collRs g d a => some (Fields.pack ⟨0x66, guardCode g, operandCode d, operandCode a, 3⟩)
  | .collAg g d a => some (Fields.pack ⟨0x66, guardCode g, operandCode d, operandCode a, 4⟩)
  | .collTest g d a => some (Fields.pack ⟨0x66, guardCode g, operandCode d, operandCode a, 5⟩)
  | .stkInit g d a => some (Fields.pack ⟨0x67, guardCode g, operandCode d, operandCode a, 0⟩)
  | .stkPush g a => some (Fields.pack ⟨0x67, guardCode g, 124, operandCode a, 1⟩)
  | .stkPop g d => some (Fields.pack ⟨0x67, guardCode g, operandCode d, 124, 2⟩)
  | .stkTop g d => some (Fields.pack ⟨0x67, guardCode g, operandCode d, 124, 3⟩)
  | .stkDepth g d => some (Fields.pack ⟨0x67, guardCode g, operandCode d, 124, 4⟩)
  | .mloadB g d a => some (Fields.pack ⟨0x68, guardCode g, operandCode d, operandCode a, 0⟩)
  | .mma g d a => some (Fields.pack ⟨0x69, guardCode g, operandCode d, operandCode a, 0⟩)
  | .mzero g d => some (Fields.pack ⟨0x6A, guardCode g, operandCode d, 124, 0⟩)
  | .mcvt g d a => some (Fields.pack ⟨0x6A, guardCode g, operandCode d, operandCode a, 1⟩)
  | .sqPush g a => some (Fields.pack ⟨0x6B, guardCode g, 124, operandCode a, 0⟩)
  | .armWait g => some (Fields.pack ⟨0x6C, guardCode g, 124, 124, 0⟩)
  | .armEnd g => some (Fields.pack ⟨0x6C, guardCode g, 124, 124, 1⟩)
  | .trap g a c => some (Fields.pack ⟨0x70, guardCode g, 124, operandCode a, c.toNat⟩)
  | .brkpt g => some (Fields.pack ⟨0x70, guardCode g, 124, 124, 255⟩)
  | .evSignal g d a => some (Fields.pack ⟨0x71, guardCode g, operandCode d, operandCode a, 0⟩)
  | .evWait g d a => some (Fields.pack ⟨0x71, guardCode g, operandCode d, operandCode a, 1⟩)
  | .evTest g d a => some (Fields.pack ⟨0x71, guardCode g, operandCode d, operandCode a, 2⟩)
  | .evReset g a => some (Fields.pack ⟨0x71, guardCode g, 124, operandCode a, 3⟩)
  | .launch g a => some (Fields.pack ⟨0x72, guardCode g, 124, operandCode a, 0⟩)
  | .feed g a => some (Fields.pack ⟨0x72, guardCode g, 124, operandCode a, 1⟩)
  | .wpop g d => some (Fields.pack ⟨0x72, guardCode g, operandCode d, 124, 2⟩)
  | .poolGive g u => some (Fields.pack ⟨0x73, guardCode g, 124, 124, u.toNat⟩)
  | .poolTake g u => some (Fields.pack ⟨0x73, guardCode g, 124, 124, 128 + u.toNat⟩)
  | .traceMark g a => some (Fields.pack ⟨0x74, guardCode g, 124, operandCode a, 0⟩)
  | .clk g d => some (Fields.pack ⟨0x74, guardCode g, operandCode d, 124, 1⟩)
  | .ptime g d => some (Fields.pack ⟨0x74, guardCode g, operandCode d, 124, 2⟩)
  | .verSet g a => some (Fields.pack ⟨0x75, guardCode g, 124, operandCode a, 0⟩)
  | .verGet g d => some (Fields.pack ⟨0x75, guardCode g, operandCode d, 124, 1⟩)
  | .verPub g d a => some (Fields.pack ⟨0x75, guardCode g, operandCode d, operandCode a, 2⟩)
  | .verRack g d a => some (Fields.pack ⟨0x75, guardCode g, operandCode d, operandCode a, 3⟩)
  | .verQuery g d a => some (Fields.pack ⟨0x75, guardCode g, operandCode d, operandCode a, 4⟩)
  | .powerOnReset => none
  | .ptimeLoRead => none
  | .registerWrite _ _ _ => none
  | .tlbInvalidate _ => none
  | .tlbInvalidateDone => none
  | .fetcherWake _ => none
  | .packetStart _ => none
  | .priorityAging _ => none
  | .nopPacket _ _ => none
  | .launchPacket _ _ => none
  | .feedPacket _ _ => none
  | .signalPacket _ _ => none
  | .waitPacket _ _ => none
  | .copyPacket _ _ _ => none
  | .snapshotOpen _ _ => none
  | .snapshotPublish _ _ => none
  | .snapshotRack _ _ => none
  | .snapshotClose _ _ => none
  | .snapshotActionApply _ => none
  | .fencePacket _ _ => none
  | .traceOpen _ _ => none
  | .traceClose _ _ => none
  | .traceFlush _ _ => none
  | .packetComplete _ _ => none
  | .launchReady _ => none
  | .blockPlace _ => none
  | .guardedReservation _ => none
  | .eventWaitBlockSave _ => none
  | .blockRestore _ => none
  | .blockRetire _ _ => none
  | .queueEnable _ => none
  | .queueDisable _ => none
  | .queuePreempt _ => none
  | .preemptSaveDone _ => none
  | .queueResume _ => none
  | .queueReset _ => none
  | .firmwareStep _ _ => none
  | .overflowService _ => none
  | .eventQuery => none
  | .accessComplete _ _ _ _ => none
  | .pageWalkDone _ => none
  | .atomicBackoffExpire _ _ => none
  | .copyOnWrite => none
  | .copyDelivery _ _ _ => none
  | .copyComplete _ _ => none
  | .matrixOpComplete _ => none
  | .rast _ _ => none
  | .ztest _ _ => none
  | .zclear _ _ => none
  | .zretire _ _ => none
  | .cclear _ _ => none
  | .flat _ _ => none
  | .tile _ _ => none
  | .expand _ _ => none
  | .cretire _ _ => none
  | .tri _ _ => none
  | .quad _ _ => none
  | .sample _ _ => none
  | .box _ _ => none
  | .hit _ _ => none
  | .peerRecord _ _ _ => none
  | .heldCallReexamine _ _ => none
  | .callReturn _ _ => none
  | .collMessage _ _ _ => none
  | .collComplete _ => none
  | .peerLostTimeout _ _ => none
  | .collAbortReceive _ _ => none
  | .groupValidate _ _ => none
  | .podResponse _ _ _ => none
  | .podTimeout _ => none
  | .podLateResponse _ => none
  | .ualinkInboundRequest _ _ _ _ _ _ => none
  | .portStateChange _ _ => none
  | .controlRead _ _ _ => none
  | .controlWrite _ _ _ => none
  | .controlLinkDown _ => none
  | .i3cPrivateRead => none
  | .i3cPrivateWrite _ => none
  | .setdasa _ => none
  | .entdaa _ => none
  | .rstdaa => none
  | .enec _ => none
  | .disec _ => none
  | .getpid => none
  | .getbcr => none
  | .getdcr => none
  | .getstatus => none
  | .wdataRead => none
  | .wdataWrite _ => none
  | .haltWarpStop _ _ _ _ => none
  | .killSettled _ _ => none
  | .handlerStart _ _ => none
  | .claimDeadlockDetect _ _ => none
  | .sleepExpire _ _ _ _ => none
  | .watchdogFire _ _ => none
  | .stop _ => none
  | .resume _ => none
  | .step _ => none
  | .read _ => none
  | .write _ => none
  | .counterClear _ => none
  | .counterFreeze _ _ => none
  | .traceSample _ _ => none
  | .traceFrameWrite _ _ => none
  | .storageError _ => none
  | .scrub _ => none
  | .scrubDone _ => none
  | .memerrClear _ => none
  | .eventBlockClear => none
  | .regionCounterClear _ => none
  | .masterFreeze _ => none
  | .thawResume _ => none
  | .thawSkip _ => none
  | .thawReset _ => none
  | .packageHold => none
  | .holdComplete => none
  | .packageUnhold => none
  | .dieResetControlled _ => none
  | .dieResetSweep _ => none
  | .dieResetUncontrolled _ => none
  | .dieRelease => none
  | .directoryRebuildDone _ => none
  | .xdieReset _ => none
  | .xdieErrorReset _ => none
  | .xdieRelease _ => none
  | .xdieAutoRelease _ => none
  | .powerWindow _ => none
  | .monitorUpdate _ _ => none
  | .throttleStageTimeout _ => none
  | .throttleStepDown _ => none
  | .throttleRestart _ => none
  | .illegalEncoding _ => none
  | .controlLinkUp _ => none

end Sys2Proof
end

