-- ==== Sys2Proof/Config.lean ====
section
/-!
DEFINITION. What an implementation fixes and the free values: constants without a body, of which nothing
can be proved but that they are values. Each is applied to the step counter `State.tick` (log 3) or to
the operands it depends on.
-/

namespace Sys2Proof

/-- What issues an instruction: split `sp` of warp `w` of the block in slot `slot` of core `core`. Warp
number 32 is the armature of the block, whose one context is split 0. -/
structure Issuer where
  core : Nat
  slot : Nat
  w : Nat
  sp : Nat
  deriving DecidableEq, Repr, Inhabited

/-- The next thing that happens: a split or armature issues, or an operation or event of the table. -/
inductive Action where
  | run (i : Issuer)
  | event (e : Instr)
  deriving DecidableEq, Repr, Inhabited

namespace Config

/-- An action when nothing is listed: which agent moves next is open (02 R57, 17 R388). Log 3. -/
opaque action : Nat → Action
/-- Whether the operands of a split's next instruction are ready at a step (02 R57, 07 R155). Log 79. -/
opaque operandsReady : Nat → Issuer → Bool
/-- Nanoseconds that a step takes (01 R19). Log 5. -/
opaque elapsedNs : Nat → BitVec 64
/-- How far the clock of a die is stretched in a step, in twentieths of a cycle, before the bounds of 01 R18. Log 5. -/
opaque stretch : Nat → Nat → Nat
/-- A choice among `n` things that the spec leaves open (a victim, a frame, a slot): used modulo `n`. Log 6. -/
opaque choice : Nat → Nat → Nat
/-- The value of an approximate function (09 R221) before its stated cases and bounds. Log 7. -/
opaque estimate : Nat → BitVec 64 → BitVec 64
/-- Whether the directory grants a line that no L2 holds in E or in S (04 R94 leaves it open): by die and
line. Log 6. -/
opaque grantExclusive : Nat → Nat → Bool
/-- A 32-bit value that the spec leaves open. Log 6. -/
opaque freeWord : Nat → Nat → BitVec 32
/-- A byte that the spec leaves open. Log 6. -/
opaque freeByte : Nat → Nat → BitVec 8
/-- The silicon stepping (01 R12). Log 8. -/
opaque stepping : BitVec 4
/-- The digest of the firmware image of an X-die (16 R380). Log 9. -/
opaque firmwareImage : Nat → BitVec 512
/-- Whether the firmware image verifies (16 R380). Log 9. -/
opaque firmwareVerifies : Nat → Nat → Bool
/-- The digest of the later stage of an X-die's boot that a register of M1-M3 takes, where there is one (16 R380). Log 9. -/
opaque laterStage : Nat → Nat → Option (BitVec 512)
/-- The provisioned identity of the I3C target (16 R379). Log 30. -/
opaque i3cPid : BitVec 48
/-- The bus and device characteristics registers of the I3C target (16 R379). Log 30. -/
opaque i3cBcr : BitVec 8
/-- The device characteristics register of the I3C target (16 R379). Log 30. -/
opaque i3cDcr : BitVec 8

end Config

end Sys2Proof
end

