-- ==== Sys2Proof/Machine/State.lean ====
section
/-!
DEFINITION. The state of the machine: every piece of state the spec names, as plain data, and the state
after reset. INVENTORY.md lists each field with its rule.
-/

namespace Sys2Proof.Machine

/-- Why a step stops. -/
inductive Fault where
  /-- Raised by an instruction of a warp or armature when `State.cur` names no live split: no such
  instruction is ever issued by the hardware. Safe: the machine stops where the hardware has no behaviour. -/
  | noIssuer
  deriving DecidableEq, Repr

/-- Instructions without a meaning in the model. -/
inductive Refusal where
  /-- Raised by `exec` for an instruction that is not modelled yet. Safe. -/
  | notModelled (mnemonic : String)
  deriving DecidableEq, Repr

/-! ## Warps -/

/-- State of a split entry (02 R29). -/
inductive SplitState where
  | free | ready | parked | blocked | stopped
  deriving DecidableEq, Repr

/-- Fields of a `pfx.mod` (07 R160). -/
structure PfxMod where
  scv : Option (BitVec 3)
  sat : Bool
  nb : Option PReg
  rm : Option RM
  deriving DecidableEq, Repr

/-- Fields of a `pfx.hint` (07 R161). -/
structure PfxHint where
  prv : Bool
  pri : BitVec 3
  likely : Bool
  yld : Bool
  deriving DecidableEq, Repr

/-- The prefix run being issued (07 R162): how many words, and what they said. `bad` is a payload of cause
0x01, `misplaced` a repeated or fourth prefix of cause 0x02. -/
structure Pfx where
  words : Nat
  lit : Option DWord
  off : Option DWord
  md : Option PfxMod
  hint : Option PfxHint
  bad : Bool
  misplaced : Bool
  deriving DecidableEq, Repr

/-- No prefix. -/
def Pfx.none : Pfx := ⟨0, .none, .none, .none, .none, false, false⟩

/-- A pending fault record of a split (23 R416): `skip` is the address after the instruction's last word,
`lost` says that a further fault was not recorded (R418). -/
structure Pend where
  cause : Nat
  pc : DWord
  skip : DWord
  addr : DWord
  lanes : Mask
  aux : BitVec 16
  lost : Bool
  deriving DecidableEq, Repr

/-- What a split that does not go on waits for (02 R29, R58). -/
inductive WaitKind where
  /-- a numbered barrier, until its phase count passes `phase` -/
  | bar (n phase : Nat)
  /-- a cluster barrier -/
  | cbar (n phase : Nat)
  /-- an arrival barrier at an offset of the block at a cluster position -/
  | abar (cpos off : Nat)
  /-- an event of a context -/
  | event (asid name target : Nat)
  /-- `sleep` until `ptime` reaches the deadline -/
  | sleep (deadline : DWord)
  /-- `pool.take` -/
  | claim (units : Nat)
  /-- memory: a held line, a pod-remote access or a die that is rebuilding -/
  | mem
  /-- a contended line (04 R97), until the `ptime` that the wait keeps -/
  | back (line : Nat)
  /-- a copy-on-write of a versioned region (05 R118) -/
  | cow (region : Nat)
  /-- a queue endpoint -/
  | queue (q : Nat)
  /-- room for words that the instruction writes to a queue (12 R282); the wait keeps its number and, lane by lane, the
  words that are not written yet -/
  | push (q : Nat)
  /-- the block feed queue -/
  | feed
  /-- the pending-launch store -/
  | store
  /-- a full or empty work feed -/
  | work
  /-- a class counter -/
  | count (cls : Nat)
  /-- a free engine entry, or operations that an engine still performs -/
  | engine
  /-- the matrix unit, or room for another matrix instruction -/
  | matrix
  /-- `qdrain` (12 R277) -/
  | drain (q : Nat)
  /-- `ar.end` at the commit engine (10 R253), for a contended line of its lock (04 R97) or between two tries -/
  | commit (line : Option Nat)
  /-- `wsync` (08 R196) -/
  | wsync
  deriving DecidableEq, Repr

/-- A return record of a lane (12 R279): sixteen words and the words already read through the operand.
`call` names the call it answers. -/
structure RetRec where
  words : List Word
  read : Nat
  call : Nat
  deriving DecidableEq, Repr

/-- What an instruction has read (02 R37): the word of `sq` and, for queue q and lane l under key 32 q + l, the words of
queues and the records as they were before. -/
structure Took where
  sq : Word
  words : KMap Word
  recs : KMap RetRec
  deriving DecidableEq, Repr

/-- A wait: its kind, the lanes that already completed their part, `released` once the awaited event
happened, words it keeps, and what the instruction has read from `sq` and queues: none while it waits to read them. -/
structure Wait where
  kind : WaitKind
  done : Mask
  released : Bool
  data : List DWord
  took : Option Took
  deriving DecidableEq, Repr

/-- A wait of a kind that keeps nothing. -/
def Wait.of (k : WaitKind) : Wait := ⟨k, 0, false, [], none⟩

/-- A split-table entry with its call stack (02 R28), and the execution state beside it: the pending
fault record (23 R416), the wait it is in, the word of the instruction it waits in, the prefix run being
issued (07 R162-R163), the state it had before it was stopped (17 R393), whether the package hold stopped it
(27 R491), since when it is BLOCKED (26 R478), the YIELD mark (07 R161) with the splits of its quadrant that had an issue
opportunity since, and the issues of others that it was passed over by (02 R57). -/
structure Split where
  mask : Mask
  st : SplitState
  pc : DWord
  reconv : DWord
  outer : DWord
  cstack : List DWord
  pend : Option Pend
  wait : Option Wait
  held : Option Word
  pfx : Pfx
  prior : SplitState
  stepping : Bool
  noBreak : Bool
  yielded : Bool
  onHold : Bool
  since : DWord
  seen : List (Nat × Nat × Nat)
  passed : Nat
  deriving DecidableEq, Repr

/-- A FREE entry. -/
def Split.free : Split :=
  ⟨0, .free, 0, 0, 0, [], .none, .none, .none, Pfx.none, .free, false, false, false, false, 0, [], 0⟩

/-- A divergence-stack entry (02 R28), with the pending record of lanes that faulted in it (10 R254), and the wait that its
lanes enter again with the word and the prefix run that they wait in (26 R478); `stop` that they are stopped (17 R394). -/
structure DEntry where
  mask : Mask
  pc : DWord
  reconv : DWord
  outer : DWord
  cstack : List DWord
  noBreak : Bool := false
  pend : Option Pend := none
  kept : Option (Wait × Option Word × Pfx) := none
  stop : Bool := false
  deriving DecidableEq, Repr

/-- What a split held when its trap was taken, to resume its faulting lanes by (23 R428); in fused code `pc`
and `skip` are fused addresses. A wait that the watchdog ended is kept, to be entered again (26 R478). -/
structure Resume where
  pc : DWord
  skip : DWord
  reconv : DWord
  outer : DWord
  cstack : List DWord
  wait : Option Wait
  held : Option Word
  pfx : Pfx
  deriving DecidableEq, Repr

/-- The fault record of a warp slot or armature (23 R413), and what R428 resumes by. -/
structure FRec where
  cause : Nat
  split : Nat
  warp : Nat
  skid : Nat
  imprecise : Bool
  consumer : Bool
  origin : Bool
  lost : Bool
  lanes : Mask
  pc : DWord
  addr : DWord
  skidcyc : Nat
  aux : BitVec 16
  act : BitVec 2
  stops : List DWord
  resume : Option Resume
  deriving DecidableEq, Repr

/-- The record at placement: zero. -/
def FRec.zero : FRec :=
  ⟨0, 0, 0, 0, false, false, false, false, 0, 0, 0, 0, 0, 0, [], .none⟩

/-- Where a warp is in a block halt (23 R420): not halted, reached by the halt at a cycle count of its die, with the
instructions that it issued since, or stopped. -/
inductive HaltState where
  | running
  | reached (skid : Nat) (at_ : DWord)
  | stopped
  deriving DecidableEq, Repr

/-- A tag of a region value (10 R250-R251): `(L_sym << s) + c`, of 64 bits when `wide`. -/
structure ArTag where
  sym : Nat
  s : Nat
  c : DWord
  wide : Bool
  deriving DecidableEq, Repr

/-- A logged load: its virtual and physical address, bytes, the value observed, the value last re-read,
whether its equality is recorded, and how many stores the log held before it. -/
structure ArLoad where
  va : DWord
  pa : Nat
  bytes : Nat
  value : DWord
  cur : DWord
  eq : Bool
  after : Nat
  deriving DecidableEq, Repr

/-- A logged store: its address as a virtual form or fixed, the number of bytes, and its data as a form or
fixed. -/
structure ArStore where
  vtag : Option ArTag
  va : DWord
  bytes : Nat
  dtag : Option ArTag
  data : DWord
  deriving DecidableEq, Repr

/-- How a compare reads its operands (07 R169). -/
inductive CmpKind where
  | int | nat | float
  deriving DecidableEq, Repr

/-- A constraint (10 R251): the compare of a form with a value, and the answer observed. -/
structure ArCon where
  tag : ArTag
  cmp : Cmp
  kind : CmpKind
  left : Bool
  other : DWord
  answer : Bool
  deriving DecidableEq, Repr

/-- An open atomic region of a lane (10 R248-R252): abort PC, checkpoint of the registers and predicates
written, and the logs. -/
structure Region where
  abortPc : DWord
  saved : KMap Word
  preds : BitVec 7
  written : List Nat
  loads : List ArLoad
  stores : List ArStore
  cons : List ArCon
  tags : KMap ArTag
  /-- commit tries made (10 R253) -/
  tries : Nat
  deriving DecidableEq, Repr

/-- A queue binding (12 R276). -/
structure Bind where
  cls : Nat
  peerq : Nat
  peer : Nat
  group : Nat
  deriving DecidableEq, Repr

/-- A fault that an engine charges to a warp (12 R285, R292, R296, R305). -/
structure Charge where
  cause : Nat
  addr : DWord
  aux : BitVec 16
  deriving DecidableEq, Repr

/-- An outstanding or completed operation of wait class 2, 3, 4 or 6 that has not been charged (06 R141,
12 R292): its class, its number, whether it is complete, and its faults in order. -/
structure ClassOp where
  cls : Nat
  id : Nat
  done : Bool
  faults : List Charge
  deriving DecidableEq, Repr

/-- A fault of a completed call that no instruction has taken (12 R285): the class 3 operation that sent it,
its lane and the queue it was sent through. -/
structure CallFault where
  call : Nat
  op : Nat
  lane : Nat
  q : Nat
  charge : Charge
  deriving DecidableEq, Repr

/-- The `exit` or `ret` that ended the last live lane of a warp (12 R292): its addresses, entry and lanes. -/
structure ExitAt where
  pc : DWord
  skip : DWord
  sp : Nat
  lanes : Mask
  deriving DecidableEq, Repr

/-- A call accepted from a lane and not complete (12 R284-R285). -/
structure CallRef where
  call : Nat
  op : Nat
  lane : Nat
  q : Nat
  retq : Option Nat
  deriving DecidableEq, Repr

/-- A warp, or the armature of a block (key 32), whose one lane is lane 0 and whose registers are s0-s63. -/
structure Warp where
  slot : Nat
  alloc : Nat
  present : Mask
  exited : Mask
  splits : List Split
  dstack : List DEntry
  /-- register r of lane l under key 32 r + l; unlisted registers are zero -/
  regs : KMap Word
  /-- predicates p0-p6, one mask each -/
  preds : Vector Mask 7
  /-- index register x of lane l under key 32 x + l -/
  xs : KMap Word
  fprm : RM
  fpflags : BitVec 5
  fptrap : BitVec 5
  wver : Word
  /-- counters of classes 0-6 -/
  cnt : Vector Nat 7
  ops : List ClassOp
  calls : List CallRef
  callFaults : List CallFault
  feedCur : Nat
  copySeq : Nat
  /-- faults of completed copies of the open batch -/
  batchFaults : List Charge
  exitAt : Option ExitAt
  /-- bytes written by the completed copies among the newest 256, by handle -/
  copyDone : KMap Nat
  collSeq : Nat
  stkBase : Word
  stkCap : Nat
  stkDepth : KMap Nat
  stkTop : KMap Nat
  stkOvf : Mask
  binds : KMap Bind
  /-- return records of queue q and lane l under key 32 q + l -/
  rets : KMap (List RetRec)
  /-- words written and not sent, of queue q and lane l under key 32 q + l -/
  sbuf : KMap (List Word)
  frec : FRec
  halt : HaltState
  regions : KMap Region
  arStat : KMap Word
  /-- statuses of regions that ended and are not counted yet (26 R480) -/
  arLog : List Word
  pri : BitVec 3
  rpoison : List Nat
  /-- registers that a pod-remote access in flight will write, 32 r + l (07 R155) -/
  busy : List Nat
  deriving DecidableEq, Repr

/-! ## Blocks and cores -/

/-- A numbered or cluster barrier (08 R197, R200): phase count, expected count with its kind (`none` before
the first arrival of a phase, `some none` for `zero`), and arrival masks by warp (32 the armature; for a
cluster barrier by 64 × position + participant). -/
structure Bar where
  phase : Nat
  expect : Option (Option Nat)
  arrived : KMap Mask
  deriving DecidableEq, Repr

/-- A barrier at placement. -/
def Bar.zero : Bar := ⟨0, .none, []⟩

/-- A cached translation (04 R104-R107). -/
structure TlbEntry where
  asid : Nat
  vpn : Nat
  size : Nat
  pa : Nat
  ver : Bool
  glob : Bool
  nc : Bool
  x : Bool
  w : Bool
  deriving DecidableEq, Repr

/-- A stash window (04 R100): global address, scratchpad offset and length, with the filled and dirty
64-byte sectors, the bytes under it that were there before (10 R246), and pages to retranslate. -/
structure Stash where
  va : DWord
  off : Nat
  len : Nat
  /-- physical page of each 4 KiB page of the window -/
  pages : KMap Nat
  /-- the translation that each page was mapped by (04 R110) -/
  ents : KMap TlbEntry
  /-- pages whose translation forbids stores -/
  ro : List Nat
  filled : List Nat
  dirty : List Nat
  data : KMap Byte
  deriving DecidableEq, Repr

/-- Fault disposition of a queue (13 R310). -/
inductive Disp where
  | kill | debug | handler
  deriving DecidableEq, Repr

/-- Where a block is between running and its end (23 R419-R429). -/
inductive BlockMode where
  | running
  /-- a halt is under way: origin participant and disposition read then -/
  | halting (origin : Nat) (d : Disp)
  /-- settled under HALT_FOR_DEBUG -/
  | held (origin : Nat)
  /-- the handler runs in warp `w` -/
  | handler (origin w : Nat)
  /-- stopping because its launch is killed by another block (23 R424) -/
  | ending
  deriving DecidableEq, Repr

/-- The context a block runs in (13 R312). -/
structure Ctx where
  root : Nat
  asid : Nat
  regions : Nat
  evovf : Nat
  evovfN : Nat
  deriving DecidableEq, Repr

/-- A resident block (02 R26-R27). -/
structure Block where
  launch : Nat
  index : Nat
  bx : Nat
  by_ : Nat
  bz : Nat
  cpos : Nat
  cluster : Nat
  clusterSize : Nat
  ctx : Ctx
  carve : Nat
  warps : KMap Warp
  sp : KMap Byte
  spSize : Nat
  spPoison : List Nat
  bars : KMap Bar
  feed : List Word
  feedBase : Nat
  armEnded : Bool
  stash : KMap Stash
  prod : Nat
  mode : BlockMode
  trapped : Bool
  /-- `ptime` of its latest issue, and of the halt or save during which idle time is not counted (26 R478) -/
  lastIssue : DWord
  paused : Option DWord
  /-- cycle count from which the conditions of 02 R44 hold -/
  stuck : Option DWord
  /-- what scratchpad bytes held before an `mcvt` that no `arm.wait` has waited for wrote them (06 R150, 11 R272) -/
  unwaited : KMap Byte
  deriving DecidableEq, Repr

/-- A resident line of L1 (04 R88-R90): the order of allocation decides which keep line is oldest. -/
structure L1Line where
  keep : Bool
  stream : Bool
  deriving DecidableEq, Repr

/-- A core's L1: resident lines by line number, contents of the valid 64-byte sectors by sector number, and
dirty bytes by address. -/
structure L1 where
  lines : KMap L1Line
  keepOrder : List Nat
  sectors : KMap (BitVec 512)
  dirty : KMap Byte
  deriving DecidableEq, Repr

/-- A copy held by a copy engine (12 R287-R292). `form` is the function code 0-5; `written` counts the bytes
of the destination in write order, `marked` names the cluster positions that `abar.inval` marked (26 R475).
Its owner is warp `w` of slot `slot` on core `ocore`, or of block `home` of a launch while that is saved. -/
structure Copy where
  ocore : Nat
  slot : Nat
  w : Nat
  home : Option (Nat × Nat)
  ctx : Ctx
  handle : Nat
  form : Nat
  src : DWord
  dst : DWord
  len : Nat
  rows : Nat
  sstride : Nat
  gstride : Nat
  mask : Nat
  aben : Bool
  srcj : Nat
  abar : Nat
  wver : Word
  batch : Option Nat
  reserved : Bool
  written : Nat
  fault : Option Charge
  marked : List Nat
  deriving DecidableEq, Repr

/-- A call held by a unit (12 R280, 15 R346): who sent it, in which context, from which lane, and its words. -/
structure Call where
  slot : Nat
  w : Nat
  ctx : Ctx
  lane : Nat
  q : Nat
  cls : Nat
  words : List Word
  wver : Word
  done : Bool
  status : BitVec 8
  ret : List Word
  fault : Option Charge
  /-- it performs nothing and completes as rejected (23 R424, 27 R487) -/
  failed : Bool
  deriving DecidableEq, Repr

/-- A waiting claim of the register pool (02 R43). -/
structure Claim where
  slot : Nat
  w : Nat
  sp : Nat
  units : Nat
  deriving DecidableEq, Repr

/-- A reservation of a core (02 R50-R51). -/
structure Reserve where
  launch : Nat
  guarded : Bool
  deriving DecidableEq, Repr

/-- Kind of an accumulator (11 R260). -/
inductive AccKind where
  | none | f64 | f32 | i32
  deriving DecidableEq, Repr

/-- A matrix operation issued and not completed (11 R271): its form (0 mload.b, 1 mma, 2 mzero, 3 mcvt), step word and
descriptor words; the rows and scales that it reads or writes, each with its offset and its bytes at issue (11 R272); and
whether its descriptor or what it read was poisoned. -/
structure MxOp where
  slot : Nat
  form : Nat
  step : Word
  words : List Word
  rows : List (Nat × List Byte)
  scale : Nat × List Byte
  bad : Bool
  deriving DecidableEq, Repr

/-- The matrix unit of a core (11 R259-R260, R271). Elements are kept as their bit patterns: element n of row k
of the B tile and of row m of an accumulator under key 192 k + n or 192 m + n, B scale n of block i under
192 i + n, element k of row buffer row j under 256 j + k; `bfmt` is FMT + 16 SBLK of the loaded tile. -/
structure Matrix where
  owner : Option Nat
  waiters : List Nat
  bfmt : Option Nat
  btile : KMap DWord
  bscale : KMap Byte
  rowbuf : KMap DWord
  acc0 : KMap DWord
  acc1 : KMap DWord
  kind0 : AccKind
  kind1 : AccKind
  ops : List MxOp
  deriving DecidableEq, Repr

/-- A core (01 R13-R16). -/
structure Core where
  carve : Nat
  blocks : KMap Block
  poolUsed : Nat
  claims : List Claim
  l1 : L1
  tlb : List TlbEntry
  copies : KMap Copy
  calls : KMap Call
  unitIn : KMap (List Nat)
  unitHold : KMap (List Nat)
  mx : Matrix
  shadow : Option (Nat × Warp)
  /-- issue-slot counters of leaves 1-14 without EMPTY no warp, port × 16 + leaf; port 4 is the armature's
  (17 R382-R385). TOTAL is the die's cycle count since `ctrStart`, and leaf 12 what the others leave of it. -/
  ctrs : KMap DWord
  /-- slots of a port's latest cycles that no issue has taken, with the leaf that they were counted to -/
  spare : KMap (Nat × Nat)
  /-- slots that a port's issues took ahead of the cycle count -/
  ahead : KMap Nat
  ctrStart : DWord
  /-- the die's cycle count at which the counters were frozen -/
  frozen : Option DWord
  /-- TOTAL at the last SAMPLE of each quadrant (17 R388) -/
  sampled : KMap DWord
  bps : KMap (List Word)
  wps : KMap (List Word)
  dbgCmd : Word
  dbgTgt : Word
  dbgData : Word
  /-- the block slot whose armature the port serves next where several could issue (11 R256) -/
  armTurn : Nat
  resv : Option Reserve
  deriving DecidableEq, Repr

/-! ## Dies and the package -/

/-- The throttle of a die (27 R501-R502): thresholds, stage and count, the conditions at the last update,
whether the stage is a voltage stage, when it was entered, and since when its condition is gone. -/
structure Throttle where
  tHold : Nat
  tPace : Nat
  stage : Nat
  events : Word
  low : Bool
  temp : Bool
  volt : Bool
  byVolt : Bool
  entered : DWord
  good : Option DWord
  /-- the die was shut down by stage 3 and has not restarted, and from when it has been below T_PACE minus 40 (27 R502) -/
  shut : Bool
  cold : Option DWord
  deriving DecidableEq, Repr

/-- The memory error block of a die (25 R448-R449). -/
structure MemErr where
  ceCore : Word
  ceL2 : Word
  ceHbm : Word
  ue : Word
  poisoned : Word
  tfaults : Word
  uePa : DWord
  ueSrc : Nat
  uePtime : DWord
  tfVa : DWord
  tfCause : Nat
  tfAsid : Nat
  scrubPa : DWord
  /-- a scrub is in progress, of this address -/
  scrub : Option DWord
  deriving DecidableEq, Repr

/-- The block after die reset or CLEAR: zero. -/
def MemErr.zero : MemErr := ⟨0, 0, 0, 0, 0, 0, 0, 0, 0, 0, 0, 0, 0, .none⟩

/-- A page walk that has not finished (25 R445): the core it serves and its address. -/
structure Walk where
  core : Nat
  ctx : Ctx
  va : DWord
  pol : Policy
  deriving DecidableEq, Repr

/-- A contended line of a die (04 R97): its interval in ns, the waiting splits that the die performs before it
yields the line, and whether it performs the requests of other packages that wait there too. -/
structure Backoff where
  iv : Nat
  batch : List (Nat × Nat × Nat × Nat)
  ins : Bool
  deriving DecidableEq, Repr

/-- A C-die (01 R13, R20). -/
structure Die where
  cyc : DWord
  /-- its clock (01 R18): nanoseconds that it has run, how far it is behind the nominal clock in twentieths of a cycle, and what
  bounds that: for an instant of its past by its place in a microsecond, the lag there less 2,625 for each microsecond before
  it, the least for each place -/
  ran : Nat
  lag : Nat
  lagBounds : KMap Int
  tlb : List TlbEntry
  walks : List Walk
  /-- contended lines (04 R97) -/
  backoff : KMap Backoff
  merr : MemErr
  rctr : KMap Word
  thr : Throttle
  temps : KMap (BitVec 16)
  droops : KMap (BitVec 16)
  vcores : KMap (BitVec 16)
  roscs : KMap (BitVec 32)
  /-- `ptime` at which the next update of the monitor fields is due (17 R396) -/
  monDue : DWord
  inReset : Bool
  rebuild : Bool
  /-- a controlled reset is in progress (27 R496): the queues that it pre-empted -/
  drain : Option (List Nat)
  deriving DecidableEq, Repr

/-- What the directory holds for a 256-byte line of package memory (04 R94, 25 R457): the die that holds it
in M, O or E (`owned` M or O, not E), and the dies that hold an S copy. A line that is not listed is held
by no L2. -/
structure DirLine where
  holder : Option Nat
  owned : Bool
  sharers : List Nat
  /-- `ptime` of the latest grant in M (04 R97) -/
  since : DWord
  deriving DecidableEq, Repr

/-- A frame entry of a page record (05 R113), at its place 0-3; `none` is the home frame. A freed entry keeps its
TAG and FRAME and is not live (05 R125). -/
structure Frame where
  tag : Word
  frame : Option Nat
  place : Nat
  live : Bool
  deriving DecidableEq, Repr

/-- An open versioned region (05 R111-R114); pages not listed hold the home frame with tag 0. `homes` are the
home frames of the pages that were copied. -/
structure VRegion where
  desc : Nat
  base : DWord
  pages : Nat
  records : Nat
  pool : Nat
  poolFrames : Nat
  used : List Nat
  pub : Word
  floor : Word
  pvalid : Bool
  recs : KMap (List Frame)
  homes : KMap Nat
  /-- pages whose internal record was lost (25 R455) -/
  lost : List Nat
  deriving DecidableEq, Repr

/-- Who waits at a page lock (05 R118-R119): a split, or an engine by a number of its own. -/
inductive CowOwner where
  | split (core slot w sp : Nat)
  | engine (id : Nat)
  deriving DecidableEq, Repr

/-- A request for a copy-on-write at its page lock (05 R118-R119), in order of arrival; `copied` once the copy is made
and until the access that asked for it has been performed. -/
structure Cow where
  region : Nat
  page : Nat
  home : Nat
  wver : Word
  owner : CowOwner
  copied : Bool
  deriving DecidableEq, Repr

/-- An action that the snapshot engine applies (05 R127, 12 R305). `action` 0 OPEN, 1 PUBLISH, 2 RACK,
3 CLOSE; `origin` is the packet (queue and index), or the warp and the number of its class 6 operation. -/
structure Snap where
  region : Nat
  action : Nat
  version : Word
  fromPacket : Bool
  a : Nat
  b : Nat
  c : Nat
  d : Nat
  deriving DecidableEq, Repr

/-- Who waits for an event (13 R317-R318). -/
inductive EvWaiter where
  | split (core slot w sp : Nat)
  | packet (q n : Nat)
  | launch (l i : Nat)
  | saved (l index w sp : Nat)
  deriving DecidableEq, Repr

/-- A named event (13 R316-R318): count, waiters with their targets, whether it lives in the overflow table of
its context, and the order in which it became live. -/
structure Event where
  count : Word
  waiters : List (EvWaiter × Nat)
  spilled : Bool
  born : Nat
  deriving DecidableEq, Repr

/-- State of a queue (13 R311). BLOCKED is ACTIVE while the next packet waits, and is read so; a reset is
performed in one step, so RESETTING is present only while it waits for a save (13 R328). -/
inductive QState where
  | idle | active | preempting | preempted | resetting | halted
  deriving DecidableEq, Repr

/-- A packet that has started and not completed (13 R313). -/
structure Packet where
  bytes : List Byte
  start : DWord
  performed : Bool
  status : Nat
  detail : Word
  progress : Nat
  done : Bool
  launch : Option Nat
  /-- it waited for room in an overflow table, and was counted (26 R469) -/
  stalled : Bool
  /-- its completion record was written -/
  noted : Bool
  deriving DecidableEq, Repr

/-- A command queue (13 R310-R314, 26 R478): `cx` is the context read at ENABLE, `ringFault` a failed fetch
(26 R464), `since` the `ptime` from which a startable packet waits (13 R314). -/
structure Queue where
  base : DWord
  enable : Bool
  st : QState
  disp : Disp
  prio : Nat
  log2n : Nat
  lap : Bool
  readIdx : Nat
  ctx : DWord
  cx : Ctx
  handler : DWord
  saveBase : DWord
  savePages : Nat
  error : Nat
  limit : Word
  fired : Nat
  effPrio : Nat
  fetched : Option (List Byte)
  nextNo : Nat
  packets : KMap Packet
  ringFault : Bool
  since : Option DWord
  /-- RESUME was written and saved blocks are being restored (13 R328) -/
  resuming : Bool
  /-- the launch of the next packet, while its event waits keep the packet from starting (13 R313) -/
  pre : Option Nat
  /-- RESET was written and has not taken effect, or is not over (13 R328-R329, 14 R342, 26 R466) -/
  resetDue : Bool
  /-- PREEMPT was written while the linker examines a pair of the queue (14 R342) -/
  preemptDue : Bool := false
  /-- the queue is reset with its X-die, and its registers are to read their reset values (27 R500) -/
  lost : Bool := false
  /-- the front end writes RESUME once the pre-emption under way is over (27 R496) -/
  resumeDue : Bool := false
  deriving DecidableEq, Repr

/-- State of a launch (13 R325). -/
inductive LState where
  | waitev | ready | placing | resident | saved | retiring | complete
  deriving DecidableEq, Repr

/-- The image of a saved block (02 R54, 13 R327), held structurally (log 25); `base` and `size` are the place
of its bytes in the save area, `waiting` that it waits for an event (02 R58). -/
structure Saved where
  block : Block
  calls : KMap Call
  shadow : Option (Nat × Warp)
  claims : List (Nat × Nat × Nat)
  matrix : Option Matrix
  waiting : Bool
  base : Nat
  size : Nat
  deriving DecidableEq, Repr

/-- How a word of fused code came about (14 R343): copied, a swap word, the first word that replaces an
instruction, or the second of a pair of moves. -/
inductive FusedKind where
  | copied | swap | replaced | second
  deriving DecidableEq, Repr

/-- A word of fused code with its PC map entry (14 R343). -/
structure FusedWord where
  word : Word
  pc : DWord
  consumer : Bool
  kind : FusedKind
  deriving DecidableEq, Repr

/-- The fused code of a spliced pair (14 R338-R343): it stands at the producer's CODE in PCs (log 14).
`packet` numbers the consumer's packet, `record` is its record, `args` are the registers that its argument words take,
`faults` counts the blocks whose fault is attributed to it. -/
structure Splice where
  packet : Nat
  words : List FusedWord
  record : List Byte
  args : List Nat
  faults : Nat
  deriving DecidableEq, Repr

/-- A launch (13 R319, R325): its record as read, progress and what it holds. -/
structure Launch where
  record : List Byte
  q : Nat
  packet : Option Nat
  parent : Option Nat
  depth : Nat
  prio : Nat
  st : LState
  ctx : Ctx
  placed : Nat
  retired : Nat
  faults : Nat
  /-- the cause of the origin trap that kills it (23 R424) -/
  cause : Option Nat
  /-- it is being killed: no further block is placed -/
  ending : Bool
  status : Nat
  detail : Word
  start : DWord
  /-- the argument words that its blocks receive, by register (13 R321) -/
  args : Option (KMap Word)
  /-- event waits that are not registered with their event yet -/
  waitsTodo : List Nat
  /-- cluster barrier n of cluster k under key 8 k + n (08 R200) -/
  cbars : KMap Bar
  saved : KMap Saved
  splice : Option Splice
  /-- the SPLICE field of its completion record (13 R322, 14 R342) -/
  spliceSt : Nat
  stored : Bool
  /-- `ptime` of its latest placement, or of READY (02 R51) -/
  waited : DWord
  feedHead : Nat
  feedTail : Nat
  feedWaiters : List (Nat × Nat × Nat × Nat)
  /-- the records of its faulting block, until every block that its kill stops has settled (23 R424) -/
  killRecs : Option (List Word)
  /-- the linker examines its packet with its neighbour, and the examination waits (14 R342) -/
  linking : Bool := false
  deriving DecidableEq, Repr

/-- A message transaction to a member of a group (26 R481): the member, when it was sent, whether it is the repetition, and for
an abort message the member that it names. -/
structure OutMsg where
  to_ : Nat
  at_ : DWord
  again : Bool
  abort : Option Nat
  deriving DecidableEq, Repr

/-- A collective group (16 R372): its entry and the member list read when it was validated; the address of the list while its
read waits; by rank the messages still to come for collectives that have ended (12 R296); and the transactions that may still
end without a response (26 R481). -/
structure Group where
  valid : Bool
  rank : Nat
  size : Nat
  addr : DWord
  members : List Nat
  reading : Option DWord := none
  skip : KMap Nat := []
  out : List OutMsg := []
  deriving DecidableEq, Repr

/-- The entry after reset (16 R372). -/
def Group.zero : Group := ⟨false, 0, 0, 0, [], none, [], []⟩

/-- A collective accepted and not complete (12 R294-R296, 16 R373-R376): its owner, as for a copy, its form,
the words of its descriptor, the neighbour table read at issue and the messages of the peers, by rank. It
counts as class 4 operation `op`, or is call `op` of core `ocore`. -/
structure Coll where
  group : Nat
  ocore : Nat
  slot : Nat
  w : Nat
  home : Option (Nat × Nat)
  ctx : Ctx
  handle : Nat
  form : Nat
  desc : List Word
  table : List (List Word)
  wver : Word
  call : Bool
  op : Nat
  got : KMap (List Byte)
  cause : Option Charge
  deriving DecidableEq, Repr

/-- A pod-remote access outstanding (16 R370-R371, 25 R459): `kind` 0 load, 1 store, 2 atomic; `op` numbers
the operation of class 0 or 1, `dst` the registers it writes, `sent` the `ptime` it was sent. -/
structure Pod where
  core : Nat
  slot : Nat
  w : Nat
  lane : Nat
  op : Nat
  kind : Nat
  pc : DWord
  skip : DWord
  addr : DWord
  pa : Nat
  width : Width
  dst : Option (Nat × Nat)
  data : List Word
  aop : Option AtomOp
  /-- the queue that an `ldv` writes its word to -/
  queue : Option Nat
  /-- the predicate that a checked `ldv` writes (05 R120) -/
  chk : Option PReg
  /-- the port it left on; none when it was not sent -/
  port : Option Nat
  sent : DWord
  /-- its address space -/
  asid : Nat
  deriving DecidableEq, Repr

/-- A trace record (17 R388). -/
structure TRec where
  type : Nat
  split : Nat
  warp : Nat
  core : Nat
  block : Nat
  mask : Mask
  payload : Word
  pc : DWord
  ptime : DWord
  deriving DecidableEq, Repr

/-- The part of a trace session on a die (17 R386-R389). -/
structure TraceSess where
  sink : DWord
  len : Nat
  ctx : Ctx
  /-- records that are in no frame yet, by die -/
  recs : KMap (List TRec)
  wr : KMap Nat
  dropped : KMap Nat
  /-- frames dropped since the last one written, by die (17 R387) -/
  gap : KMap Nat
  /-- REASON of the parts that are closed (26 R467) -/
  closed : KMap Nat
  /-- REASON of the CLOSE words that are still to be written -/
  closeDue : KMap Nat := []
  deriving DecidableEq, Repr

/-- An entry of a firmware event queue (13 R315): the step of packet `packet` of queue `q`, or an overflow service for
address space `q`; `locked` is a frozen core that holds it (27 R485). -/
structure FwEntry where
  q : Nat
  overflow : Bool
  packet : Nat
  locked : Option Nat
  deriving DecidableEq, Repr

/-- The link block (16 R369): enabled ports, package id, ports up, and the count of time-outs (16 R371). -/
structure Link where
  linken : Bool
  pkgid : Nat
  portUp : Word
  timeouts : Word
  deriving DecidableEq, Repr

/-- A completion that is still owed because its event had no room (13 R318) or its record's line is held
(25 R459): the context, the record's address and bytes, the queue and the event. -/
structure Owed where
  ctx : Ctx
  q : Nat
  note : Option (DWord × List Byte)
  cev : Option Nat
  deriving DecidableEq, Repr

/-- The decision of a splice linker (14 R345). -/
structure LinkerReg where
  reason : Nat
  slot : Nat
  queue : Nat
  spliced : Word
  refused : Word
  deriving DecidableEq, Repr

/-- An inbound request of another package (27 R488): its local address, length, data, and the operation of an
atomic. -/
structure Inbound where
  addr : Nat
  len : Nat
  wr : Bool
  atom : Option AtomOp
  data : List Byte
  deriving DecidableEq, Repr

/-- A frozen master (27 R484-R486): its violation and when it arose; `entry` is its place in the freeze block,
none while all eight are in use; `req` is the request that a frozen requester made. -/
structure Freeze where
  cls : Nat
  code : Nat
  id : Nat
  asid : Nat
  pa : Nat
  time : DWord
  entry : Option Nat
  req : Option Inbound
  deriving DecidableEq, Repr

/-- The package without its management blocks: what instructions of warps and armatures act on. -/
structure Pkg where
  /-- the package time in ns (01 R18) -/
  ptime : DWord
  /-- counts steps; free values are applied to it (log 3) -/
  tick : Nat
  mem : KMap Byte
  poison : List Nat
  dir : KMap DirLine
  cores : KMap Core
  dies : KMap Die
  regions : KMap VRegion
  cows : List Cow
  snaps : List Snap
  queues : KMap Queue
  launches : KMap Launch
  nextLaunch : Nat
  plHigh : Nat
  plFull : Word
  events : KMap Event
  liveHigh : Nat
  evStalls : Word
  cursor : Nat
  nextId : Nat
  fwq : KMap (List FwEntry)
  turn : KMap Nat
  groups : KMap Group
  colls : KMap Coll
  pods : KMap Pod
  /-- lines held after time-outs (25 R459): of each unanswered request its port, and whether that has fallen since -/
  heldLines : KMap (List (Nat × Bool))
  /-- accesses to pod memory of masters that are not lanes, sent and without a response: 2^60 times the number of the master
  plus the physical address, to the `ptime` of the request and its port (16 R371) -/
  sent : KMap (DWord × Option Nat)
  traces : KMap TraceSess
  link : Link
  paced : Bool
  /-- the latest window of 100 µs whose power estimate exceeded the limit (01 R23) -/
  powerAt : Nat
  owed : List Owed
  frozen : List Freeze
  /-- UALink requesters that receive errors until their next violation (27 R487) -/
  shunned : List Nat
  /-- inbound atomics that wait for a contended line, with their requester and deadline (04 R97) -/
  inWait : List (Nat × Inbound × DWord)
  /-- the issue of this step, until it passes over the others that could issue (02 R57) -/
  passing : Option Issuer
  /-- latest decision of each X-die's splice linker (14 R345) -/
  linker : KMap LinkerReg
  /-- X-dies held in reset; true when the reset ends by itself (27 R498) -/
  xreset : KMap (Bool × DWord)
  hold : Bool
  deriving DecidableEq, Repr

/-- The management state of the package: register blocks that no instruction of a program touches. -/
structure Mgmt where
  ptimeHi : Word
  tlbKind : Nat
  tlbAsid : Nat
  tlbVa : DWord
  /-- the invalidation in progress: kind, ASID and VA (04 R109) -/
  tlbRun : Option (Nat × Nat × DWord)
  freezes : Word
  frzAction : Nat
  frzEntry : Nat
  /-- BASE, and EN, W and PAGES of an inbound window, by window (27 R488) -/
  windows : KMap (DWord × Word)
  check : Bool
  held : Bool
  rstErr : Nat
  rstKind : Bool
  rstDie : Nat
  xdie : Bool
  /-- M0-M3 of each X-die under 4 x + i (16 R380) -/
  meas : KMap (BitVec 512)
  /-- X-dies whose firmware pool does not run: not booted yet, or its image failed verification (16 R380) -/
  dead : List Nat
  evqAsid : Word
  evqName : Word
  i3cAddr : Option (BitVec 7)
  /-- events that DISEC disabled -/
  i3cEvents : BitVec 8
  /-- the mandatory bytes of the in-band interrupts raised (16 R379) -/
  i3cIbi : List Byte
  /-- the address of a private read that was set up (16 R379) -/
  i3cRead : Option Word
  waddr : Nat
  badaddr : Bool
  wpoison : Bool
  linkUp : KMap Bool
  /-- the last answer on a control link, the I3C port or a UALink port: data, or none for an error response -/
  answer : Option (List Byte)
  deriving DecidableEq, Repr

/-! ## Reset -/

/-- A matrix unit with no owner and nothing loaded (11 R259-R260). -/
def Matrix.reset : Matrix :=
  ⟨.none, [], .none, [], [], [], [], [], .none, .none, []⟩

/-- A core after reset: no block, an empty L1 and TLB, carve 0 (log 11). -/
def Core.reset : Core :=
  { carve := 0, blocks := [], poolUsed := 0, claims := [], l1 := ⟨[], [], [], []⟩, tlb := [], copies := [],
    calls := [], unitIn := [], unitHold := [], mx := Matrix.reset, shadow := .none,
    ctrs := [], spare := [], ahead := [], ctrStart := 0, frozen := .none, sampled := [], bps := [], wps := [], dbgCmd := 0, dbgTgt := 0, dbgData := 0, armTurn := 0,
    resv := .none }

/-- The throttle block after reset (27 R501). -/
def Throttle.reset : Throttle := ⟨880, 840, 0, 0, false, false, false, false, 0, .none, false, .none⟩

/-- A die after reset. -/
def Die.reset : Die :=
  { cyc := 0, ran := 0, lag := 0, lagBounds := [(0, 0)], tlb := [], walks := [], backoff := [], merr := MemErr.zero, rctr := [],
    thr := Throttle.reset, temps := [], droops := [], vcores := [], roscs := [], monDue := 0, inReset := false,
    rebuild := false, drain := .none }

/-- A queue after reset (13 R310). -/
def Queue.reset : Queue :=
  { base := 0, enable := false, st := .idle, disp := .kill, prio := 0, log2n := 0,
    lap := true, readIdx := 0, ctx := 0, cx := ⟨0, 0, 0, 0, 0⟩, handler := 0, saveBase := 0, savePages := 0, error := 0,
    limit := 0, fired := 0, effPrio := 0, fetched := .none, nextNo := 0, packets := [], ringFault := false,
    since := .none, resuming := false, pre := .none, resetDue := false }

/-- The package after reset: nothing is resident, held or outstanding. Cores and queues that are not
listed are in their reset state. -/
def Pkg.reset : Pkg :=
  { ptime := 0, tick := 0, mem := [], poison := [], dir := [], cores := []
    dies := [(0, Die.reset), (1, Die.reset), (2, Die.reset), (3, Die.reset)], regions := [], cows := [], snaps := [],
    queues := [], launches := [], nextLaunch := 0, plHigh := 0, plFull := 0, events := [],
    liveHigh := 0, evStalls := 0, cursor := 0, nextId := 0, fwq := [], turn := [], groups := [],
    colls := [], pods := [], heldLines := [], sent := [], traces := [], link := ⟨false, 0, 0, 0⟩, paced := false, powerAt := 0
    owed := [], frozen := [], shunned := [], inWait := [], passing := .none, linker := [], xreset := [], hold := false }

/-- The management blocks after reset. -/
def Mgmt.reset : Mgmt :=
  { ptimeHi := 0, tlbKind := 0, tlbAsid := 0, tlbVa := 0, tlbRun := .none, freezes := 0, frzAction := 0
    frzEntry := 0, windows := [], check := false, held := false, rstErr := 0, rstKind := false, rstDie := 0
    xdie := false, meas := [], dead := [0, 1], evqAsid := 0, evqName := 0
    i3cAddr := .none, i3cEvents := 0, i3cIbi := [], i3cRead := .none, waddr := 0, badaddr := false
    wpoison := false, linkUp := [], answer := .none }

/-- The machine. `agenda` lists the next actions, head first; `cur` is what issues the instruction being run
(log 3). -/
structure State where
  agenda : List Action
  cur : Option Issuer
  pkg : Pkg
  mgmt : Mgmt
  deriving DecidableEq, Repr

/-- The machine right after package power-on reset (01 R19: `ptime` and all state zero). -/
def State.reset : State :=
  { agenda := [], cur := .none, pkg := Pkg.reset, mgmt := Mgmt.reset }

end Sys2Proof.Machine
end

