-- ==== Sys2Proof/Machine/Base.lean ====
section
/-!
DEFINITION. Access to the parts of the package: cores, blocks, warps, splits, lane registers and
predicates, and the bit and byte helpers that the operations use.
-/

namespace Sys2Proof.Machine

/-! ## Lanes -/

/-- The lane numbers 0-31. -/
def allLanes : List Nat := List.range 32

/-- The lanes of a mask in ascending order. -/
def lanesOf (m : Mask) : List Nat := allLanes.filter (fun l => m.getLsbD l)

/-- The mask of one lane. -/
def laneBit (l : Nat) : Mask := BitVec.twoPow 32 l

/-- The mask of the lanes that satisfy a test. -/
def maskOf (f : Nat → Bool) : Mask :=
  allLanes.foldl (fun m l => if f l then m ||| laneBit l else m) 0

/-- The mask of a list of lanes. -/
def maskOfList (ls : List Nat) : Mask := ls.foldl (fun m l => m ||| laneBit l) 0

/-- Lanes of `m` not in `k`. -/
def Mask.minus (m k : Mask) : Mask := m &&& ~~~k

/-! ## Bytes -/

/-- The `n` low bytes of a number, least significant first. -/
def bytesOf : Nat → Nat → List Byte
  | 0, _ => []
  | n + 1, v => BitVec.ofNat 8 v :: bytesOf n (v / 256)

/-- The number that little-endian bytes spell. -/
def ofBytes : List Byte → Nat
  | [] => 0
  | b :: t => b.toNat + 256 * ofBytes t

/-- Bits [hi:lo] of a number. -/
def bits (v hi lo : Nat) : Nat := v / 2 ^ lo % 2 ^ (hi - lo + 1)

/-- Bit k of a number. -/
def bit (v k : Nat) : Bool := v.testBit k

/-- One as a word when true. -/
def boolWord (b : Bool) : Word := if b then 1 else 0

/-- Insert in order. -/
def insertBy {α : Type} (le : α → α → Bool) (x : α) : List α → List α
  | [] => [x]
  | y :: t => if le x y then x :: y :: t else y :: insertBy le x t

/-- Sort, equal elements in their order. -/
def sortBy {α : Type} (le : α → α → Bool) (l : List α) : List α := l.foldr (insertBy le) []

/-! ## Parts of the package -/

/-- A core, in its reset state when nothing is listed for it. -/
def Pkg.core (p : Pkg) (c : Nat) : Core := p.cores.getD c Core.reset

/-- Replace a core. -/
def Pkg.setCore (p : Pkg) (c : Nat) (k : Core) : Pkg := { p with cores := KMap.insert c k p.cores }

/-- Change a core. -/
def Pkg.modCore (p : Pkg) (c : Nat) (f : Core → Core) : Pkg := p.setCore c (f (p.core c))

/-- The C-die of a core (01 R13). -/
def dieOfCore (c : Nat) : Nat := c / 96

/-- A die, in its reset state when nothing is listed for it. -/
def Pkg.die (p : Pkg) (d : Nat) : Die := p.dies.getD d Die.reset

/-- Change a die. -/
def Pkg.modDie (p : Pkg) (d : Nat) (f : Die → Die) : Pkg :=
  { p with dies := KMap.insert d (f (p.die d)) p.dies }

/-- A queue, in its reset state when nothing is listed for it. -/
def Pkg.queue (p : Pkg) (q : Nat) : Queue := p.queues.getD q Queue.reset

/-- Change a queue. -/
def Pkg.modQueue (p : Pkg) (q : Nat) (f : Queue → Queue) : Pkg :=
  { p with queues := KMap.insert q (f (p.queue q)) p.queues }

/-- A launch. -/
def Pkg.launch? (p : Pkg) (l : Nat) : Option Launch := p.launches.find? l

/-- Change a launch. -/
def Pkg.modLaunch (p : Pkg) (l : Nat) (f : Launch → Launch) : Pkg :=
  { p with launches := p.launches.modify l f }

/-- The block in a block slot of a core. -/
def Pkg.block? (p : Pkg) (c b : Nat) : Option Block := (p.core c).blocks.find? b

/-- Change a block. -/
def Pkg.modBlock (p : Pkg) (c b : Nat) (f : Block → Block) : Pkg :=
  p.modCore c (fun k => { k with blocks := k.blocks.modify b f })

/-- A warp of a block; number 32 is the armature. -/
def Pkg.warp? (p : Pkg) (c b w : Nat) : Option Warp :=
  match p.block? c b with
  | some bl => bl.warps.find? w
  | none => none

/-- Change a warp. -/
def Pkg.modWarp (p : Pkg) (c b w : Nat) (f : Warp → Warp) : Pkg :=
  p.modBlock c b (fun bl => { bl with warps := bl.warps.modify w f })

/-- The number of the armature among the warps of a block. -/
def armNo : Nat := 32

/-- Split `sp` of a warp. -/
def Warp.split (w : Warp) (sp : Nat) : Split := w.splits.getD sp Split.free

/-- Change a split. -/
def Warp.modSplit (w : Warp) (sp : Nat) (f : Split → Split) : Warp :=
  { w with splits := w.splits.modify sp f }

/-- Live lanes: present and not exited (02 R43). -/
def Warp.live (w : Warp) : Mask := Mask.minus w.present w.exited

/-- A master of a class is frozen (27 R484-R485). -/
def Pkg.isFrozen (p : Pkg) (cls id : Nat) : Bool := p.frozen.any (fun f => f.cls == cls && f.id == id)

/-- Freeze a master (27 R484-R486): it takes the lowest free of the eight entries, or none. -/
def State.freezeMaster (s : State) (v : Violation) (req : Option Inbound := none) : State :=
  if s.pkg.isFrozen v.cls v.id then s
  else
    let e := (List.range 8).find? (fun k => s.pkg.frozen.all (fun f => f.entry != some k))
    { s with
      pkg := { s.pkg with frozen := s.pkg.frozen ++ [⟨v.cls, v.code, v.id, v.asid, v.pa, s.pkg.ptime, e, req⟩] }
      mgmt := { s.mgmt with freezes := s.mgmt.freezes + 1 } }

/-! ## Registers of a lane -/

/-- Register r of lane l. -/
def Warp.rd (w : Warp) (r l : Nat) : Word := w.regs.getD (32 * r + l) 0

/-- Write register r of lane l; a whole-register write clears its poison (25 R450). -/
def Warp.wr (w : Warp) (r l : Nat) (v : Word) : Warp :=
  { w with regs := w.regs.setD (32 * r + l) v 0, rpoison := w.rpoison.filter (· != 32 * r + l) }

/-- Registers r and r + 1 of lane l as one value. -/
def Warp.rd64 (w : Warp) (r l : Nat) : DWord := pair (w.rd r l) (w.rd (r + 1) l)

/-- Write a pair. -/
def Warp.wr64 (w : Warp) (r l : Nat) (v : DWord) : Warp :=
  (w.wr r l (half v 0)).wr (r + 1) l (half v 1)

/-- Write consecutive registers from r. -/
def Warp.wrList (w : Warp) (r l : Nat) : List Word → Warp
  | [] => w
  | v :: t => (w.wr r l v).wrList (r + 1) l t

/-- Predicate k of lane l. -/
def Warp.pred (w : Warp) (k : PReg) (l : Nat) : Bool := (w.preds.get k).getLsbD l

/-- Set one bit of a mask. -/
def setBit (m : Mask) (l : Nat) (b : Bool) : Mask := if b then m ||| laneBit l else m &&& ~~~(laneBit l)

/-- Write predicate k of lane l. -/
def Warp.setPred (w : Warp) (k : PReg) (l : Nat) (b : Bool) : Warp :=
  { w with preds := w.preds.set k (setBit (w.preds.get k) l b) }

/-- The lane's predicates as bits 6-0 (08 R190). -/
def Warp.predBits (w : Warp) (l : Nat) : BitVec 7 :=
  (List.finRange 7).foldl (fun m k => if w.pred k l then m ||| BitVec.twoPow 7 k else m) 0

/-- Write all of a lane's predicates from bits 6-0. -/
def Warp.setPredBits (w : Warp) (l : Nat) (m : BitVec 7) : Warp :=
  (List.finRange 7).foldl (fun w k => w.setPred k l (m.getLsbD k)) w

/-- Index register x of lane l (07 R167). -/
def Warp.ix (w : Warp) (x l : Nat) : Word := w.xs.getD (32 * x + l) 0

/-- Write index register x of lane l; the reserved bits [13:9] read as zero. -/
def Warp.setIx (w : Warp) (x l : Nat) (v : Word) : Warp :=
  { w with xs := w.xs.setD (32 * x + l) (v &&& 0xFFFFC1FF) 0 }

/-- Fold a change over the lanes of a mask. -/
def forLanes {α : Type} (m : Mask) (f : Nat → α → α) (a : α) : α :=
  (lanesOf m).foldl (fun a l => f l a) a

/-! ## Wait-class counters -/

/-- Counter of a class (06 R141); class 7 counts nothing. -/
def Warp.count (w : Warp) (c : Nat) : Nat := w.cnt.toList.getD c 0

/-- Change a counter. -/
def Warp.modCount (w : Warp) (c : Nat) (f : Nat → Nat) : Warp :=
  if h : c < 7 then { w with cnt := w.cnt.set c (f (w.cnt.get ⟨c, h⟩)) } else w

/-! ## Clusters -/

/-- Core, slot and block at a cluster position: the blocks of a cluster lie on the cores of one cluster, the
block at position j on its core j (02 R48, 01 R16). -/
def Pkg.peerBlock (p : Pkg) (c b pos : Nat) : Option (Nat × Nat × Block) :=
  match p.block? c b with
  | none => none
  | some bl =>
    if pos = bl.cpos then some (c, b, bl)
    else if bl.clusterSize ≤ pos then none
    else
      (List.find? (fun e => e.2.launch == bl.launch
        && e.2.cluster == bl.cluster && e.2.cpos == pos) (p.core (c - bl.cpos + pos)).blocks).map
          (fun e => (c - bl.cpos + pos, e.1, e.2))

/-! ## New warps and blocks -/

/-- A warp at placement (02 R47, 13 R321): its lanes in split 0 at an address, everything else zero
(log 12). -/
def Warp.fresh (slot alloc : Nat) (lanes : Mask) (pc : DWord) (wver : Word) : Warp :=
  { slot := slot, alloc := alloc, present := lanes, exited := 0
    splits := [{ Split.free with mask := lanes, st := .ready, pc := pc }, Split.free, Split.free, Split.free]
    dstack := [], regs := [], preds := Vector.replicate 7 0, xs := [], fprm := .rne, fpflags := 0, fptrap := 0
    wver := wver, cnt := Vector.replicate 7 0, ops := [], calls := [], callFaults := [], feedCur := 0, copySeq := 0, batchFaults := []
    exitAt := none, copyDone := [], collSeq := 0, stkBase := 0, stkCap := 0, stkDepth := [], stkTop := [], stkOvf := 0
    binds := [], rets := [], sbuf := [], frec := FRec.zero, halt := .running, regions := [], arStat := [], arLog := []
    pri := 0, rpoison := [], busy := [] }

/-- A block at placement. -/
def Block.fresh (launch index bx by_ bz cpos cluster clusterSize : Nat) (ctx : Ctx) (carve spSize prod : Nat)
    (warps : KMap Warp) : Block :=
  { launch := launch, index := index, bx := bx, by_ := by_, bz := bz, cpos := cpos, cluster := cluster
    clusterSize := clusterSize, ctx := ctx, carve := carve, warps := warps, sp := [], spSize := spSize
    spPoison := [], unwaited := [], bars := [], feed := [], feedBase := 0, armEnded := false, stash := [], prod := prod
    mode := .running, trapped := false, lastIssue := 0, paused := none, stuck := none }

/-- A launch of a record, just started (13 R325). -/
def Launch.fresh (record : List Byte) (q : Nat) (packet parent : Option Nat) (depth prio : Nat) (ctx : Ctx)
    (start : DWord) : Launch :=
  { record := record, q := q, packet := packet, parent := parent, depth := depth, prio := prio, st := .waitev
    ctx := ctx, placed := 0, retired := 0, faults := 0, cause := none, ending := false, status := 0, detail := 0, start := start
    args := none, waitsTodo := [], cbars := [], saved := [], splice := none, spliceSt := 0, stored := false, waited := start
    feedHead := 0, feedTail := 0, feedWaiters := [], killRecs := none }

end Sys2Proof.Machine
end

