-- ==== Sys2Proof/Machine/Ops.lean ====
section
/-!
DEFINITION. The named operations over memory, scratchpad, translations, versioned pages and faults, among
them the taking of a trap and the return from a handler.
-/

namespace Sys2Proof.Machine

/-! ## Trace records (17 R386-R388) -/

/-- Byte k of a launch record as a number of n bytes (13 R319). -/
def recNat (r : List Byte) (k n : Nat) : Nat := ofBytes ((r.drop k).take n)

/-- Add a record to the open session of the queue of a block's launch, where the launch's TRACE flag is set. -/
def Pkg.emit (p : Pkg) (c b flag type split warp : Nat) (mask : Mask) (payload : Word) (pc : DWord) : Pkg :=
  match p.block? c b with
  | none => p
  | some bl =>
    match p.launch? bl.launch with
    | none => p
    | some l =>
      match p.traces.find? l.q with
      | none => p
      | some t =>
        let d := dieOfCore c
        if !bit (recNat l.record 0x4A 1) flag || (t.closed.find? d).any (· != 3) then p
        else
          let r : TRec := ⟨type, split, warp, c, bl.index, mask, payload, pc, p.ptime⟩
          { p with traces := KMap.insert l.q { t with recs := KMap.insert d (t.recs.getD d [] ++ [r]) t.recs } p.traces }

/-- A split or armature issued in this step: the others of its port that could issue were passed over (02 R57). -/
def Pkg.noteIssue (p : Pkg) (i : Issuer) : Pkg := { p with passing := some i }

/-! ## Package memory at L2 (04 R93-R94) -/

/-- A byte of package memory by local address; an unlisted byte reads 0x00 (log 1). -/
def Pkg.byte (p : Pkg) (pa : Nat) : Byte := p.mem.getD pa 0

/-- Write a byte of package memory. -/
def Pkg.setByte (p : Pkg) (pa : Nat) (b : Byte) : Pkg := { p with mem := p.mem.setD pa b 0 }

/-- Read n bytes of package memory. -/
def Pkg.readMem (p : Pkg) (pa : Nat) : Nat → List Byte
  | 0 => []
  | n + 1 => p.byte pa :: p.readMem (pa + 1) n

/-- Write bytes to package memory, ascending. -/
def Pkg.writeMem (p : Pkg) (pa : Nat) : List Byte → Pkg
  | [] => p
  | b :: t => (p.setByte pa b).writeMem (pa + 1) t

/-- The number that n bytes of package memory spell. -/
def Pkg.readNat (p : Pkg) (pa n : Nat) : Nat := ofBytes (p.readMem pa n)

/-- A counter of the memory error block that saturates (25 R448). -/
def saturate (v : Word) : Word := if v = 0xFFFFFFFF then v else v + 1

/-- The 64-byte sector of an address is poisoned (25 R450). -/
def Pkg.poisoned (p : Pkg) (pa : Nat) : Bool := p.poison.contains (pa / 64)

/-- Bytes of package memory: 512 GiB (04 R85). -/
def memSize : Nat := 549755813888

/-- The local address of a physical address that names this package's memory (04 R85). -/
def Pkg.local? (p : Pkg) (pa : Nat) : Option Nat :=
  if pa / 2 ^ 46 = p.link.pkgid ∧ pa % 2 ^ 46 < memSize then some (pa % 2 ^ 46) else none

/-- The home die of a local address (04 R93). -/
def homeDie (pa : Nat) : Nat := (bits pa 13 12) ^^^ (bits pa 21 20)

/-- The stack of a local address (04 R93). -/
def homeStack (pa : Nat) : Nat := 4 + 2 * homeDie pa + (bits pa 14 14 ^^^ bits pa 22 22)

/-- Poison a sector of package memory; its home die counts it once (25 R448, R450). -/
def Pkg.poisonSector (p : Pkg) (x : Nat) : Pkg :=
  if p.poison.contains x then p
  else { p with poison := x :: p.poison }.modDie (homeDie (64 * x)) (fun k =>
    { k with merr := { k.merr with poisoned := k.merr.poisoned + 1 } })

/-- Accesses homed on a die that is in reset or rebuilds its directory wait (25 R458). -/
def Pkg.homeDown (p : Pkg) (pa : Nat) : Bool :=
  let d := p.die (homeDie pa)
  d.inReset || d.rebuild

/-- A die's L2 holds a line. -/
def DirLine.heldBy (e : DirLine) (d : Nat) : Bool := e.holder == some d || e.sharers.contains d

/-- A die's L2 gives a line up. -/
def DirLine.drop (e : DirLine) (d : Nat) : DirLine :=
  { e with holder := if e.holder = some d then none else e.holder, owned := e.owned && e.holder != some d,
           sharers := e.sharers.filter (· != d) }

/-- Lines that an L2 of 256 MiB holds (01 R24). -/
def l2Lines : Nat := 1048576

/-- Room for a line in the L2 of a die (01 R24): a full one displaces a line, which of them is open (log 6). -/
def Pkg.dirRoom (p : Pkg) (d line : Nat) : Pkg :=
  let mine := List.filter (fun e => e.2.heldBy d && e.1 != line) p.dir
  if mine.length < l2Lines then p
  else
    match mine[Config.choice p.tick line % mine.length]? with
    | none => p
    | some e =>
      let e' := e.2.drop d
      { p with dir := if e'.holder.isNone && e'.sharers.isEmpty then KMap.erase e.1 p.dir else KMap.insert e.1 e' p.dir }

/-- A die reads a line: an M or E holder elsewhere keeps it in O or S (04 R94). -/
def Pkg.dirRead (p0 : Pkg) (d pa : Nat) : Pkg :=
  let l := pa / 256
  let p := p0.dirRoom d l
  match p.dir.find? l with
  | none =>
    let e : DirLine := if Config.grantExclusive p.tick l then ⟨some d, false, [], p.ptime⟩ else ⟨none, false, [d], 0⟩
    { p with dir := KMap.insert l e p.dir }
  | some e =>
    if e.holder = some d ∨ e.sharers.contains d then p
    else
      let e' : DirLine :=
        match e.holder with
        | some h => if e.owned then { e with sharers := d :: e.sharers } else ⟨none, false, d :: h :: e.sharers, e.since⟩
        | none => { e with sharers := d :: e.sharers }
      { p with dir := KMap.insert l e' p.dir }

/-- A die takes a line in M: no other L2 holds it (04 R94); the time of the grant is kept (04 R97). -/
def Pkg.dirWrite (p0 : Pkg) (d pa : Nat) : Pkg :=
  let p := p0.dirRoom d (pa / 256)
  let since := match p.dir.find? (pa / 256) with
    | some e => if e.holder = some d ∧ e.owned ∧ e.sharers = [] then e.since else p.ptime
    | none => p.ptime
  { p with dir := KMap.insert (pa / 256) ⟨some d, true, [], since⟩ p.dir }

/-! ## Back-off on contended lines (04 R97) -/

/-- The splits of a die that wait for a contended line. -/
def Pkg.waitersOn (p : Pkg) (d line : Nat) : List (Nat × Nat × Nat × Nat) :=
  p.cores.flatMap (fun k => if dieOfCore k.1 ≠ d then [] else k.2.blocks.flatMap (fun b => b.2.warps.flatMap (fun w =>
    w.2.splits.zipIdx.filterMap (fun s =>
      let k' := s.1.wait.map Wait.kind
      if s.1.st == .blocked && (k' == some (.back line) || k' == some (.commit (some line))) then some (k.1, b.1, w.1, s.2)
      else none))))

/-- What a die keeps for a line; nothing is kept of a line at its first interval with no batch. -/
def Pkg.backAt (p : Pkg) (d line : Nat) : Backoff := (p.die d).backoff.getD line ⟨64, [], false⟩

/-- Change what a die keeps for a line. -/
def Pkg.setBack (p : Pkg) (d line : Nat) (b : Backoff) : Pkg :=
  p.modDie d (fun k => { k with backoff := if b = ⟨64, [], false⟩ then KMap.erase line k.backoff else KMap.insert line b k.backoff })

/-- The splits of a line's batch that still wait. -/
def Pkg.batchOf (p : Pkg) (d line : Nat) : List (Nat × Nat × Nat × Nat) :=
  (p.backAt d line).batch.filter (fun x => (p.waitersOn d line).contains x)

/-- Requests of other packages wait for a line at its home die. -/
def Pkg.insOn (p : Pkg) (d line : Nat) : List (Nat × Inbound × DWord) :=
  p.inWait.filter (fun x => x.2.1.addr / 256 == line && homeDie x.2.1.addr == d)

/-- A die has atomics of its batch on a line left. -/
def Pkg.batchLeft (p : Pkg) (d line : Nat) : Bool :=
  !(p.batchOf d line).isEmpty || ((p.backAt d line).ins && !(p.insOn d line).isEmpty)

/-- Another die performs its batch on a line before it yields it (04 R97): a request of die d waits. Number 4 is no die. -/
def Pkg.batchElse (p : Pkg) (d line : Nat) : Bool := (List.range 4).any (fun k => k != d && p.batchLeft k line)

/-- A die is granted a line in M: what is queued there, but for one of them, is its batch, up to 32 atomics with that one. -/
def Pkg.startBatch (p : Pkg) (d line : Nat) (but : Nat × Nat × Nat × Nat) : Pkg :=
  if p.batchLeft d line then p
  else
    let ins := (p.insOn d line).length
    p.setBack d line { p.backAt d line with
      batch := ((p.waitersOn d line).filter (fun x => x != but)).take (31 - ins), ins := decide (0 < ins) }

/-- The deadline of a request for M that finds its line granted in M to another die within the current interval. -/
def Pkg.contended (p : Pkg) (d line : Nat) : Option DWord :=
  match p.dir.find? line with
  | some e =>
    let elsewhere := (match e.holder with | some h => h != d | none => false) && e.owned
    let t := e.since + BitVec.ofNat 64 (p.backAt d line).iv
    if elsewhere && decide (p.ptime.toNat < t.toNat) then some t else none
  | none => none

/-- A wait doubles the interval, up to 4,096 ns. -/
def Pkg.double (p : Pkg) (d line : Nat) : Pkg :=
  p.setBack d line { p.backAt d line with iv := min 4096 (2 * (p.backAt d line).iv) }

/-- An atomic without a wait returns the interval to 64 ns. -/
def Pkg.noWait (p : Pkg) (d line : Nat) : Pkg := p.setBack d line { p.backAt d line with iv := 64 }

/-! ## Scratchpad and stash windows (04 R86-R87, R100-R102) -/

/-- A byte of a block's scratchpad. -/
def Block.spByte (b : Block) (o : Nat) : Byte := b.sp.getD o 0

/-- Write a byte of a block's scratchpad. -/
def Block.setSp (b : Block) (o : Nat) (v : Byte) : Block :=
  { b with sp := b.sp.setD o v 0, unwaited := KMap.erase o b.unwaited }

/-- Read n bytes of scratchpad. -/
def Block.readSp (b : Block) (o : Nat) : Nat → List Byte
  | 0 => []
  | n + 1 => b.spByte o :: b.readSp (o + 1) n

/-- Write bytes to scratchpad; a write of all 8 bytes of a granule clears its poison (25 R450). -/
def Block.writeSpBytes (b : Block) (o : Nat) : List Byte → Block
  | [] => b
  | v :: t => (b.setSp o v).writeSpBytes (o + 1) t

/-- Write bytes to scratchpad and clear the poison of the granules written whole. -/
def Block.writeSp (b : Block) (o : Nat) (vs : List Byte) : Block :=
  let b' := b.writeSpBytes o vs
  { b' with spPoison := b'.spPoison.filter (fun g => ¬(o ≤ 8 * g ∧ 8 * g + 8 ≤ o + vs.length)) }

/-- A read of scratchpad bytes meets poison. -/
def Block.spPoisoned (b : Block) (o n : Nat) : Bool :=
  b.spPoison.any (fun g => decide (8 * g < o + n ∧ o < 8 * g + 8))

/-- The stash window that covers a scratchpad offset, with its id. -/
def Block.stashAt (b : Block) (o : Nat) : Option (Nat × Stash) :=
  List.find? (fun e => decide (e.2.off ≤ o ∧ o < e.2.off + e.2.len)) b.stash

/-- The physical address behind an offset of a stash window. -/
def Stash.paOf (s : Stash) (o : Nat) : Nat :=
  s.pages.getD ((o - s.off) / 4096) 0 + (o - s.off) % 4096

/-- Write one dirty sector of a stash window back to L2; the sector becomes clean. -/
def Pkg.stashWriteBack (p : Pkg) (c b id sec : Nat) : Pkg :=
  match p.block? c b with
  | none => p
  | some bl =>
    match bl.stash.find? id with
    | none => p
    | some s =>
      if s.dirty.contains sec then
        let o := s.off + 64 * sec
        let p := p.writeMem (s.paOf o) (bl.readSp o 64)
        p.modBlock c b (fun bl =>
          { bl with stash := bl.stash.modify id (fun s => { s with dirty := s.dirty.filter (· != sec) }) })
      else p

/-- Invalidate one sector of a stash window: the bytes that lay under it come back (10 R246). -/
def Pkg.stashDrop (p : Pkg) (c b id sec : Nat) : Pkg :=
  p.modBlock c b (fun bl =>
    match bl.stash.find? id with
    | none => bl
    | some s =>
      if s.filled.contains sec then
        let o := s.off + 64 * sec
        let bl := bl.writeSpBytes o ((List.range 64).map (fun i => s.data.getD (o + i) 0))
        { bl with stash := bl.stash.modify id (fun s =>
            { s with filled := s.filled.filter (· != sec), dirty := s.dirty.filter (· != sec),
                     data := List.foldl (fun m i => KMap.erase (o + i) m) s.data (List.range 64) }) }
      else bl)

/-- Every stash sector of the package that holds bytes of a line: core, block slot, window and sector. -/
def Pkg.stashOn (p : Pkg) (line : Nat) : List (Nat × Nat × Nat × Nat) :=
  p.cores.flatMap (fun e => e.2.blocks.flatMap (fun f => f.2.stash.flatMap (fun g =>
    (g.2.filled.filter (fun sec => g.2.paOf (g.2.off + 64 * sec) / 256 == line)).map
      (fun sec => (e.1, f.1, g.1, sec)))))

/-- A byte of package memory as a coherent read finds it (04 R101): a dirty stash sector holds the latest value. -/
def Pkg.coherentByte (p : Pkg) (pa : Nat) : Byte :=
  match (p.stashOn (pa / 256)).findSome? (fun x =>
    match (p.block? x.1 x.2.1).bind (fun b => (b.stash.find? x.2.2.1).map (fun s => (b, s))) with
    | some (b, s) =>
      let o := s.off + 64 * x.2.2.2
      if s.dirty.contains x.2.2.2 && decide (s.paOf o ≤ pa ∧ pa < s.paOf o + 64) then some (b.spByte (o + pa - s.paOf o)) else none
    | none => none) with
  | some v => v
  | none => p.byte pa

/-- n bytes as a coherent read finds them. -/
def Pkg.coherent (p : Pkg) (pa : Nat) : Nat → List Byte
  | 0 => []
  | n + 1 => p.coherentByte pa :: p.coherent (pa + 1) n

/-- A coherent request for a line reaches L2 (04 R101): dirty stash sectors are written back, and a request
to write also invalidates them. -/
def Pkg.recallStash (p : Pkg) (line : Nat) (wr : Bool) : Pkg :=
  (p.stashOn line).foldl (fun p x =>
    let p := p.stashWriteBack x.1 x.2.1 x.2.2.1 x.2.2.2
    if wr then p.stashDrop x.1 x.2.1 x.2.2.1 x.2.2.2 else p) p

/-! ## L1 (04 R88-R92) -/

/-- Byte i of a sector. -/
def sectorByte (c : BitVec 512) (i : Nat) : Byte := (c >>> (8 * i)).setWidth 8

/-- Replace byte i of a sector. -/
def sectorSet (c : BitVec 512) (i : Nat) (b : Byte) : BitVec 512 :=
  (c &&& ~~~(0xFF#512 <<< (8 * i))) ||| ((b.setWidth 512) <<< (8 * i))

/-- The contents of a sector at L2. -/
def Pkg.sector (p : Pkg) (s : Nat) : BitVec 512 := BitVec.ofNat 512 (p.readNat (64 * s) 64)

/-- Sets of an L1 by carve (04 R88). -/
def l1Sets (carve : Nat) : Nat := if carve = 3 ∨ carve = 4 then 64 else 128

/-- Write the dirty bytes of a core that satisfy a test back to L2; valid copies keep the new bytes. -/
def Pkg.l1Flush (p : Pkg) (c : Nat) (sel : Nat → Bool) : Pkg :=
  let k := p.core c
  let out := List.filter (fun e => sel e.1) k.l1.dirty
  let p := out.foldl (fun p e => ((p.recallStash (e.1 / 256) true).setByte e.1 e.2).dirWrite (dieOfCore c) e.1) p
  p.modCore c (fun k => { k with l1 := { k.l1 with
    dirty := List.filter (fun e => !sel e.1) k.l1.dirty
    sectors := out.foldl (fun m e =>
      m.modify (e.1 / 64) (fun v => sectorSet v (e.1 % 64) e.2)) k.l1.sectors } })

/-- Write back every dirty byte of a core's L1 (04 R91). -/
def Pkg.l1WriteBack (p : Pkg) (c : Nat) : Pkg := p.l1Flush c (fun _ => true)

/-- A write-back to an address waits: for the home die (25 R458), or for another die that does not yield the line yet (04
R97). -/
def Pkg.barred (p : Pkg) (d pa : Nat) : Bool := p.homeDown pa || p.batchElse d (pa / 256)

/-- A core holds dirty bytes that it cannot write back now. -/
def Pkg.l1Barred (p : Pkg) (c : Nat) : Bool := (p.core c).l1.dirty.any (fun e => p.barred (dieOfCore c) e.1)

/-- Write back the dirty bytes of one line. -/
def Pkg.l1WriteBackLine (p : Pkg) (c line : Nat) : Pkg := p.l1Flush c (fun a => a / 256 == line)

/-- Invalidate every sector of a core's L1; bytes still dirty stay dirty. -/
def Pkg.l1Invalidate (p : Pkg) (c : Nat) : Pkg :=
  p.modCore c (fun k => { k with l1 := { k.l1 with sectors := [] } })

/-- Invalidate the four sectors of a line. -/
def Pkg.l1InvalidateLine (p : Pkg) (c line : Nat) : Pkg :=
  p.modCore c (fun k => { k with l1 := { k.l1 with
    sectors := List.filter (fun e => e.1 / 4 != line) k.l1.sectors } })

/-- Evict a line: dirty bytes go to L2, the line leaves. -/
def Pkg.l1Evict (p : Pkg) (c line : Nat) : Pkg :=
  let p := (p.l1WriteBackLine c line).l1InvalidateLine c line
  p.modCore c (fun k => { k with l1 := { k.l1 with
    lines := KMap.erase line k.l1.lines, keepOrder := k.l1.keepOrder.filter (· != line) } })

/-- Allocate a line under a policy (04 R90): the set of a line is taken modulo the number of sets (log 13).
A full set evicts a stream line first, else a line that is not kept, else a kept one; which of several is
open. At most four kept lines lie in a set; a fifth demotes the oldest. A line touched under both keep and stream
keeps both marks, and counts as a stream line when one is chosen (log 75, DESIGN CHOICE). -/
def Pkg.l1Alloc (p : Pkg) (c : Nat) (pol : Policy) (line : Nat) : Pkg :=
  let k := p.core c
  let sets := l1Sets k.carve
  let mine (l : Nat) : Bool := l % sets == line % sets
  let p :=
    if (k.l1.lines.find? line).isSome then p
    else
      let way := List.filter (fun e => mine e.1) k.l1.lines
      if way.length < 8 then p
      else
        let st := way.filter (fun e => e.2.stream)
        let nk := way.filter (fun e => !e.2.keep)
        let cand := if st ≠ [] then st else if nk ≠ [] then nk else way
        match cand[Config.choice p.tick line % cand.length]? with
        | some e => p.l1Evict c e.1
        | none => p
  p.modCore c (fun k =>
    let old := k.l1.lines.getD line ⟨false, false⟩
    let keep := old.keep || pol == .keep
    let order := if pol == .keep && !k.l1.keepOrder.contains line then k.l1.keepOrder ++ [line]
      else k.l1.keepOrder
    let kept := order.filter mine
    let demoted := if kept.length > 4 then kept.head? else none
    let lines := KMap.insert line ⟨keep, pol == .stream || old.stream⟩ k.l1.lines
    match demoted with
    | some d => { k with l1 := { k.l1 with
        lines := lines.modify d (fun e => { e with keep := false })
        keepOrder := order.filter (· != d) } }
    | none => { k with l1 := { k.l1 with lines := lines, keepOrder := order } })

/-- A byte as the warps of a core see it: dirty in L1, or in a valid sector, or at L2. -/
def Pkg.viewByte (p : Pkg) (c pa : Nat) : Byte :=
  let k := p.core c
  match k.l1.dirty.find? pa with
  | some b => b
  | none =>
    match k.l1.sectors.find? (pa / 64) with
    | some s => sectorByte s (pa % 64)
    | none => p.byte pa

/-- n bytes as the warps of a core see them. -/
def Pkg.view (p : Pkg) (c pa : Nat) : Nat → List Byte
  | 0 => []
  | n + 1 => p.viewByte c pa :: p.view c (pa + 1) n

/-- Bring a sector into L1 from L2; dirty bytes keep their value (04 R89). -/
def Pkg.l1Fill (p : Pkg) (c : Nat) (pol : Policy) (pa : Nat) : Pkg :=
  let p := ((p.l1Alloc c pol (pa / 256)).recallStash (pa / 256) false).dirRead (dieOfCore c) pa
  p.modCore c (fun k => { k with l1 := { k.l1 with
    sectors := KMap.insert (pa / 64) (p.sector (pa / 64)) k.l1.sectors } })

/-- A load of n bytes of package memory that lie in one sector (04 R89-R90). One under policy 2 ends a valid L1 copy
of its sector, so that no later load of the core reads an older store (06 R133; log 76, DEDUCED). -/
def Pkg.load (p : Pkg) (c : Nat) (pol : Policy) (pa n : Nat) : Pkg × List Byte :=
  match pol with
  | .l2 =>
    let p := ((p.l1Flush c (fun a => a / 64 == pa / 64)).recallStash (pa / 256) false).dirRead (dieOfCore c) pa
    (p.modCore c (fun k => { k with l1 := { k.l1 with sectors := KMap.erase (pa / 64) k.l1.sectors } }), p.readMem pa n)
  | .noalloc =>
    let k := p.core c
    let dirtyAll := (List.range n).all (fun i => (k.l1.dirty.find? (pa + i)).isSome)
    if (k.l1.sectors.find? (pa / 64)).isSome || dirtyAll then (p, p.view c pa n)
    else
      let p := (p.recallStash (pa / 256) false).dirRead (dieOfCore c) pa
      (p, p.view c pa n)
  | _ =>
    let k := p.core c
    let dirtyAll := (List.range n).all (fun i => (k.l1.dirty.find? (pa + i)).isSome)
    let p := if (k.l1.sectors.find? (pa / 64)).isSome || dirtyAll then p.l1Alloc c pol (pa / 256)
      else p.l1Fill c pol pa
    (p, p.view c pa n)

/-- A store of bytes that lie in one sector (04 R89-R90). -/
def Pkg.store (p : Pkg) (c : Nat) (pol : Policy) (pa : Nat) (vs : List Byte) : Pkg :=
  let idx := List.range vs.length
  match pol with
  | .l2 | .noalloc =>
    let p := if pol == .l2 then p.l1Flush c (fun a => a / 64 == pa / 64) else p
    let p := (p.recallStash (pa / 256) true).dirWrite (dieOfCore c) pa
    let p := p.writeMem pa vs
    p.modCore c (fun k => { k with l1 := { k.l1 with
      dirty := idx.foldl (fun m i => KMap.erase (pa + i) m) k.l1.dirty
      sectors := k.l1.sectors.modify (pa / 64) (fun s =>
        idx.foldl (fun s i => sectorSet s ((pa + i) % 64) (vs.getD i 0)) s) } })
  | _ =>
    let p := p.l1Alloc c pol (pa / 256)
    p.modCore c (fun k => { k with l1 := { k.l1 with
      dirty := idx.foldl (fun m i => KMap.insert (pa + i) (vs.getD i 0) m) k.l1.dirty } })

/-- An access performed at L2 on behalf of a core after its own line was written back and invalidated
(04 R96). -/
def Pkg.toL2 (p : Pkg) (c pa : Nat) (wr : Bool) : Pkg :=
  let p := (p.l1WriteBackLine c (pa / 256)).l1InvalidateLine c (pa / 256)
  let p := p.recallStash (pa / 256) wr
  if wr then p.dirWrite (dieOfCore c) pa else p.dirRead (dieOfCore c) pa

/-! ## Translation (04 R104-R107, 25 R445-R446) -/

/-- What an access is for (04 R106). -/
inductive Acc where
  | load | store | fetch
  deriving DecidableEq, Repr

/-- A table entry as a coherent read of L2 finds it (04 R107), or the cause of the failed read (25 R446): 0 while its home
die does not serve, so that what asks for the translation waits (25 R458). -/
def Pkg.pte (p : Pkg) (pa : Nat) : Except Nat Nat :=
  match p.local? pa with
  | none => .error 0x09
  | some a => if p.homeDown a then .error 0 else if p.poisoned a then .error 0x1C else .ok (ofBytes (p.coherent a 8))

/-- Bytes that a leaf at a level maps (04 R104). -/
def leafSize (level : Nat) (c64 : Bool) : Nat :=
  match level with
  | 2 => 1073741824
  | 1 => 2097152
  | _ => if c64 then 65536 else 4096

/-- A valid entry with no reserved bit set (04 R105). -/
def pteValid (e : Nat) : Bool :=
  bit e 0 && !bit e 1 && bits e 11 9 == 0 && bits e 63 56 == 0

/-- A leaf as a translation, after the checks of R106 and R446. -/
def Pkg.leaf (p : Pkg) (asid va level e : Nat) : Except Nat TlbEntry :=
  let c64 := bit e 3
  let size := leafSize level c64
  let addr := bits e 55 12 * 4096
  if bit e 8 && !c64 then .error 0x09
  else if addr % size ≠ 0 then .error 0x09
  else if 575 < addr / 2 ^ 46 then .error 0x09
  else if addr / 2 ^ 46 = p.link.pkgid ∧ memSize ≤ addr % 2 ^ 46 then .error 0x09
  else .ok ⟨asid, va / size, size, addr, bit e 8, bit e 7, bit e 6, bit e 5, bit e 4⟩

/-- The walk from a table at a level (04 R104, R106). -/
def Pkg.walkAt (p : Pkg) (asid va : Nat) : Nat → Nat → Except Nat TlbEntry
  | 0, table =>
    let i := bits va 20 12
    match p.pte (table + 8 * (i / 16 * 16)) with
    | .error c => .error c
    | .ok first =>
      if bit first 0 && bit first 3 then
        if pteValid first && bit first 2 then p.leaf asid va 0 first else .error 0x09
      else
        match p.pte (table + 8 * i) with
        | .error c => .error c
        | .ok e =>
          if pteValid e && bit e 2 && !bit e 3 then p.leaf asid va 0 e else .error 0x09
  | level + 1, table =>
    let i := if level = 3 then bits va 55 48 else bits va (20 + 9 * (level + 1)) (12 + 9 * (level + 1))
    match p.pte (table + 8 * i) with
    | .error c => .error c
    | .ok e =>
      if !pteValid e || bit e 3 then .error 0x09
      else if bit e 2 then (if level + 1 ≤ 2 then p.leaf asid va (level + 1) e else .error 0x09)
      else p.walkAt asid va level (bits e 55 12 * 4096)

/-- The walk of a virtual address in a context. -/
def Pkg.walk (p : Pkg) (ctx : Ctx) (va : Nat) : Except Nat TlbEntry := p.walkAt ctx.asid va 4 ctx.root

/-- The lines of tables that a walk reads, from a table at a level. -/
def Pkg.walkLines (p : Pkg) (va : Nat) : Nat → Nat → List Nat
  | 0, table => [(table + 8 * (bits va 20 12 / 16 * 16)) % 2 ^ 46 / 256, (table + 8 * bits va 20 12) % 2 ^ 46 / 256]
  | level + 1, table =>
    let i := if level = 3 then bits va 55 48 else bits va (20 + 9 * (level + 1)) (12 + 9 * (level + 1))
    let here := (table + 8 * i) % 2 ^ 46 / 256
    match p.pte (table + 8 * i) with
    | .error _ => [here]
    | .ok e => if bit e 2 || !pteValid e then [here] else here :: p.walkLines va level (bits e 55 12 * 4096)

/-- A walk's reads reach L2 (04 R101): dirty stash sectors of the tables are written back. -/
def Pkg.walkRecall (p : Pkg) (ctx : Ctx) (va : Nat) : Pkg :=
  (p.walkLines va 4 ctx.root).foldl (fun p line => p.recallStash line false) p

/-- A translation serves an address of an address space (04 R107). -/
def TlbEntry.serves (e : TlbEntry) (asid va : Nat) : Bool :=
  (e.glob || e.asid == asid) && va / e.size == e.vpn

/-- Add a translation to a TLB of n entries; which one a full TLB drops is open. -/
def tlbAdd (tick n : Nat) (e : TlbEntry) (l : List TlbEntry) : List TlbEntry :=
  if l.length < n then e :: l else e :: l.eraseIdx (Config.choice tick e.vpn % n)

/-- The translation of an address for a core: its L1 TLB, the die's L2 TLB, or a walk, each filling the
ones before it. -/
def Pkg.tlbEntry (p : Pkg) (c : Nat) (ctx : Ctx) (va : Nat) : Except Nat (Pkg × TlbEntry) :=
  let d := dieOfCore c
  match List.find? (fun e => e.serves ctx.asid va) (p.core c).tlb with
  | some e => .ok (p, e)
  | none =>
    match List.find? (fun e => e.serves ctx.asid va) (p.die d).tlb with
    | some e => .ok (p.modCore c (fun k => { k with tlb := tlbAdd p.tick 1024 e k.tlb }), e)
    | none =>
      let p := p.walkRecall ctx va
      match p.walk ctx va with
      | .error x => .error x
      | .ok e =>
        .ok ((p.modCore c (fun k => { k with tlb := tlbAdd p.tick 1024 e k.tlb })).modDie d
          (fun k => { k with tlb := tlbAdd p.tick 65536 e k.tlb }), e)

/-- A walk of a page that is in progress on a die ends with the walk that an access makes of it (25 R445): it gives its
translation, or the failure is that of the prefetches that wait for it too, and they are dropped. -/
def Pkg.shareWalk (p : Pkg) (d : Nat) (ctx : Ctx) (va : Nat) : Pkg :=
  let same (y : Walk) : Bool := y.ctx.asid == ctx.asid && y.va.toNat / 4096 == va / 4096
  if (p.die d).walks.any same then
    match p.walk ctx va with
    | .ok e => if (p.die d).tlb.any (fun t => t.serves ctx.asid va) then p
      else p.modDie d (fun k => { k with tlb := tlbAdd p.tick 65536 e k.tlb })
    | .error 0 => p
    | .error _ => p.modDie d (fun k => { k with walks := k.walks.filter (fun y => !same y) })
  else p

/-- A translated address: the physical address, the local address in package memory, NC, and for a page of a
versioned region the region, the page and the home frame. -/
structure Xl where
  pa : Nat
  loc : Option Nat
  nc : Bool
  ver : Option (Nat × Nat × Nat)
  deriving DecidableEq, Repr

/-- Key of a versioned region: ASID and region number. -/
def regionKey (asid r : Nat) : Nat := asid * 16 + r

/-- The open region of a context that holds an address (05 R115). -/
def Pkg.regionAt (p : Pkg) (asid va : Nat) : Option (Nat × VRegion) :=
  List.find? (fun e => decide (e.1 / 16 = asid ∧ e.2.base.toNat ≤ va
    ∧ va < e.2.base.toNat + e.2.pages * 65536)) p.regions

/-- A translation permits an access (04 R106, R99). -/
def Pkg.permits (p : Pkg) (acc : Acc) (e : TlbEntry) (pa : Nat) : Bool :=
  (acc != .store || e.w) && (acc != .fetch || (e.x && pa / 2 ^ 46 == p.link.pkgid))

/-- Apply a translation (24 R433 step 9): a versioned page outside an open region fails the walk (05 R115), then
permission; a versioned page whose record was lost is poison (25 R455). -/
def Pkg.useEntry (p : Pkg) (ctx : Ctx) (va : Nat) (acc : Acc) (e : TlbEntry) : Except Nat Xl :=
  let pa := e.pa + va % e.size
  let loc := p.local? pa
  if e.ver then
    match p.regionAt ctx.asid va, loc with
    | some (k, r), some a =>
      if !p.permits acc e pa then .error 0x0A
      else if r.lost.contains ((va - r.base.toNat) / 65536) then .error 0x1C
      else .ok ⟨pa, loc, e.nc, some (k, (va - r.base.toNat) / 65536, a - a % 65536)⟩
    | _, _ => .error 0x09
  else if !p.permits acc e pa then .error 0x0A
  else .ok ⟨pa, loc, e.nc, none⟩

/-- Translate an address for a core: bits [63:56], then the walk and its checks. -/
def Pkg.xlate (p : Pkg) (c : Nat) (ctx : Ctx) (va : DWord) (acc : Acc) : Except Nat (Pkg × Xl) :=
  if 2 ^ 56 ≤ va.toNat then .error 0x09
  else
    match p.tlbEntry c ctx va.toNat with
    | .error x => .error x
    | .ok (p', e) =>
      match p'.useEntry ctx va.toNat acc e with
      | .error x => .error x
      | .ok x => .ok (p', x)

/-- Translate for an engine of the X-dies or a core's engine, which walks without the core's TLB. -/
def Pkg.xlateEngine (p : Pkg) (ctx : Ctx) (va : DWord) (acc : Acc) : Except Nat Xl :=
  if 2 ^ 56 ≤ va.toNat then .error 0x09
  else
    match p.walk ctx va.toNat with
    | .error x => .error x
    | .ok e => p.useEntry ctx va.toNat acc e

/-! ## Accesses to scratchpad (04 R86-R87, R101) -/

/-- The translation of a page of a stash window, made again when an invalidation removed it (04 R110); a page
that a window may not hold is cause 0x0A (04 R100). -/
def Pkg.stashPage (p : Pkg) (c b id pg : Nat) : Except Nat Pkg :=
  match p.block? c b with
  | none => .ok p
  | some bl =>
    match bl.stash.find? id with
    | none => .ok p
    | some s =>
      if (s.pages.find? pg).isSome then .ok p
      else
        let va := s.va + BitVec.ofNat 64 (4096 * pg)
        match p.xlate c bl.ctx va .load with
        | .error x => .error x
        | .ok (p, x) =>
          match x.loc with
          | none => .error 0x0A
          | some a =>
            if x.nc || x.ver.isSome then .error 0x0A
            else
              let ro := match p.xlate c bl.ctx va .store with | .error _ => true | .ok _ => false
              let ent := match p.tlbEntry c bl.ctx va.toNat with | .ok (_, t) => [(pg, t)] | .error _ => []
              .ok (p.modBlock c b (fun bl => { bl with stash := bl.stash.modify id (fun (s : Stash) =>
                { s with pages := KMap.insert pg a s.pages,
                         ents := ent.foldl (fun m t => KMap.insert t.1 t.2 m) s.ents,
                         ro := if ro then pg :: s.ro else s.ro.filter (· != pg) }) }))

/-- A scratchpad access within one sector fills the sectors of stash windows that it touches (04 R101): a fill reads
L2; poison there leaves the sector unfilled and is the cause, and so is a store to a page without W. The page is translated.
Cause 0 says that the access waits: for the home die (25 R458), or for a die that does not yield the line yet (04 R97). -/
def Pkg.spTouchAt (p : Pkg) (c b o : Nat) (wr : Bool) : Except Nat Pkg :=
  match p.block? c b with
  | none => .ok p
  | some bl =>
    match bl.stashAt o with
    | none => .ok p
    | some (id, s) =>
      if wr && s.ro.contains ((o - s.off) / 4096) then .error 0x0A
      else
        let sec := (o - s.off) / 64
        let base := s.off + 64 * sec
        let pa := s.paOf base
        let others (p : Pkg) : Pkg := ((p.stashOn (pa / 256)).filter (fun x => !(x.1 == c && x.2.1 == b && x.2.2.1 == id))).foldl
          (fun p x =>
            let p := p.stashWriteBack x.1 x.2.1 x.2.2.1 x.2.2.2
            if wr then p.stashDrop x.1 x.2.1 x.2.2.1 x.2.2.2 else p) p
        if (wr || !s.filled.contains sec) && p.barred (dieOfCore c) pa then .error 0
        else if !s.filled.contains sec && p.poisoned pa then .error 0x1C
        else
          let p := others p
          let p := if wr then p.dirWrite (dieOfCore c) pa else p.dirRead (dieOfCore c) pa
          let p := if s.filled.contains sec then p
            else
              let vs := p.readMem pa 64
              p.modBlock c b (fun bl =>
                let old := List.foldl (fun (m : KMap Byte) i => m.setD (base + i) (bl.spByte (base + i)) 0) s.data (List.range 64)
                { bl.writeSpBytes base vs with
                  stash := bl.stash.modify id (fun s => { s with filled := s.filled ++ [sec], data := old }) })
          .ok (if wr then p.modBlock c b (fun bl => { bl with
              stash := bl.stash.modify id (fun s =>
                { s with dirty := if s.dirty.contains sec then s.dirty else s.dirty ++ [sec] }) })
            else p)

/-- A scratchpad access within one sector touches a stash window (04 R101, R110). -/
def Pkg.spTouch (p : Pkg) (c b o : Nat) (wr : Bool) : Except Nat Pkg :=
  match (p.block? c b).bind (fun bl => bl.stashAt o) with
  | none => .ok p
  | some (id, s) =>
    match p.stashPage c b id ((o - s.off) / 4096) with
    | .error x => .error x
    | .ok p => p.spTouchAt c b o wr

/-- Aligned 4 bytes that an `mcvt` wrote among n bytes from o become visible, where a test says so: from then on every party
reads them (06 R133, R138). -/
def Block.reveal (b : Block) (o n : Nat) (sel : Nat → Bool) : Block :=
  if b.unwaited.isEmpty then b
  else { b with unwaited := List.filter (fun e => !(decide (o / 4 ≤ e.1 / 4 ∧ e.1 / 4 ≤ (o + n - 1) / 4) && sel (e.1 / 4))) b.unwaited }

/-- Read n bytes: what an `mcvt` wrote and nothing has made visible yet reads as it was before. -/
def Block.readRaced (b : Block) (o n : Nat) : List Byte :=
  if b.unwaited.isEmpty then b.readSp o n
  else (List.range n).map (fun i => (b.unwaited.find? (o + i)).getD (b.spByte (o + i)))

/-- Read n bytes of a block's scratchpad that lie in one sector. Where `own`, the block's armature or an atomic reads: the
matrix unit's writes come before it (11 R272, 06 R133). Another party finds each aligned 4 bytes that an `mcvt` wrote, and no
`arm.wait` has completed, old or new by a free choice (11 R272), and never old after new. -/
def Pkg.spRead (p : Pkg) (c b o n : Nat) (own : Bool := false) : Except Nat (Pkg × List Byte) :=
  match p.spTouch c b o false with
  | .error x => .error x
  | .ok p =>
    match p.block? c b with
    | none => .ok (p, List.replicate n 0)
    | some bl =>
      if bl.spPoisoned o n then .error 0x1C
      else
        let p := if bl.unwaited.isEmpty then p
          else p.modBlock c b (fun bl => bl.reveal o n (fun k => own || Config.choice p.tick k % 2 != 0))
        .ok (p, ((p.block? c b).getD bl).readRaced o n)

/-- Write bytes to a block's scratchpad within one sector. -/
def Pkg.spWrite (p : Pkg) (c b o : Nat) (vs : List Byte) : Except Nat Pkg :=
  match p.spTouch c b o true with
  | .error x => .error x
  | .ok p => .ok (p.modBlock c b (fun bl => bl.writeSp o vs))

/-! ## Versioned pages (05 R113-R121) -/

/-- The entries of a page record; a page not listed holds its home frame with tag 0, at place 0 (05 R114; which entry
is the live one after OPEN is not stated: log 77, DESIGN CHOICE). -/
def VRegion.entries (r : VRegion) (page : Nat) : List Frame := r.recs.getD page [⟨0, none, 0, true⟩]

/-- The live frames of a page. -/
def VRegion.frames (r : VRegion) (page : Nat) : List Frame := (r.entries page).filter Frame.live

/-- The live frame with the greatest tag at or below v. -/
def frameAt (v : Word) (fs : List Frame) : Option Frame :=
  fs.foldl (fun a f =>
    if f.tag ≤ v then
      match a with
      | some b => if b.tag < f.tag then some f else a
      | none => some f
    else a) none

/-- The newest frame of a page (05 R113). -/
def newest (fs : List Frame) : Frame := (frameAt 0xFFFFFFFF fs).getD ⟨0, none, 0, true⟩

/-- The local address where a frame begins. -/
def VRegion.frameBase (r : VRegion) (home : Nat) (f : Frame) : Nat :=
  match f.frame with
  | none => home
  | some j => r.pool % 2 ^ 46 + j * 65536

/-- Pool frames not in use (05 R112). -/
def VRegion.free (r : VRegion) : Nat := r.poolFrames - r.used.length

/-- Where a plain access of a translated address is performed: the newest frame of a versioned page. -/
def Pkg.plainPa (p : Pkg) (x : Xl) : Option Nat :=
  match x.ver, x.loc with
  | some (k, page, home), some a =>
    match p.regions.find? k with
    | some r => some (r.frameBase home (newest (r.frames page)) + a % 65536)
    | none => none
  | none, some a => some a
  | _, none => none

/-- What a store with a write version meets (05 R117). -/
inductive VerStore where
  | at (pa : Nat)
  | fault (cause : Nat)
  | copy (c : Cow)
  deriving DecidableEq, Repr

/-- The case of R117 for a store with write version w to an address of a versioned page. -/
def Pkg.verStore (p : Pkg) (w : Word) (x : Xl) (who : CowOwner := .engine 0) : VerStore :=
  match x.ver, x.loc with
  | some (k, page, home), some a =>
    match p.regions.find? k with
    | none => .fault 0x09
    | some r =>
      let fs := r.frames page
      let n := newest fs
      if w < n.tag ∨ (r.pvalid = true ∧ w ≤ r.pub) then .fault 0x0E
      else if w = n.tag then .at (r.frameBase home n + a % 65536)
      else if 4 ≤ fs.length then .fault 0x0F
      else if fs.any (fun f => f.frame.isNone) && r.free == 0 then .fault 0x0F
      else .copy ⟨k, page, home, w, who, false⟩
  | none, some a => .at a
  | _, none => .fault 0x09

/-- Remove the translations of a page of an address space from every TLB (05 R118 step 5, 04 R110). -/
def Pkg.tlbDrop (p : Pkg) (sel : TlbEntry → Bool) : Pkg :=
  { p with
    cores := p.cores.map (fun e => (e.1, { e.2 with tlb := e.2.tlb.filter (fun t => !sel t) }))
    dies := p.dies.map (fun e => (e.1, { e.2 with tlb := e.2.tlb.filter (fun t => !sel t) })) }

/-- The entry of an address space covers a range of addresses. -/
def TlbEntry.covers (e : TlbEntry) (asid lo hi : Nat) : Bool :=
  (e.glob || e.asid == asid) && decide (e.vpn * e.size < hi ∧ lo < (e.vpn + 1) * e.size)

/-- Copy one 64 KiB frame onto another at L2, poison with it; poison of the target stays (25 R452, R454). -/
def Pkg.copyFrame (p : Pkg) (src dst : Nat) : Pkg :=
  let inSrc (a : Nat) : Bool := decide (src ≤ a ∧ a < src + 65536)
  let inDst (a : Nat) : Bool := decide (dst ≤ a ∧ a < dst + 65536)
  let moved := (List.filter (fun e => inSrc e.1) p.mem).map (fun e => (e.1 - src + dst, e.2))
  let kept := List.filter (fun e => !inDst e.1) p.mem
  ((p.poison.filter (fun s => inSrc (64 * s))).map (fun s => s - src / 64 + dst / 64)).foldl Pkg.poisonSector { p with
    mem := moved.foldl (fun m e => KMap.setD m e.1 e.2 0) kept
    dir := List.filter (fun e => !inDst (256 * e.1)) p.dir }

/-- A pool frame that is not in use; which one a copy takes is open (log 6). -/
def VRegion.takeFrame (r : VRegion) (tick : Nat) : Nat :=
  let free := (List.range r.poolFrames).filter (fun j => !r.used.contains j)
  free.getD (Config.choice tick r.used.length % free.length) 0

/-- The place that a new entry of a page record takes: the lowest that holds no live frame, as the final state of 18
R399 shows (log 78, DEDUCED). -/
def freePlace (fs : List Frame) : Nat :=
  ((List.range 4).find? (fun j => !fs.any (fun f => f.live && f.place == j))).getD 0

/-- A page record in memory (05 R113); a freed entry has only V cleared (18 R399). -/
def recordBytes (fs : List Frame) : List Byte :=
  (List.range 4).flatMap (fun j =>
    match fs.find? (fun f => f.place == j) with
    | some f => bytesOf 8 (f.tag.toNat * 2 ^ 32 + (if f.live then 2 ^ 31 else 0) + f.frame.getD 0xFFFFFF)
    | none => List.replicate 8 0)

/-- A write of the package's own engines at L2. -/
def Pkg.engineStore (p : Pkg) (pa : Nat) (bs : List Byte) : Pkg :=
  let p := p.recallStash (pa / 256) true
  { p with dir := KMap.erase (pa / 256) p.dir }.writeMem pa bs

/-- The engine writes a page record back after a change (05 R112). -/
def Pkg.backPage (p : Pkg) (r : VRegion) (page : Nat) : Pkg :=
  p.engineStore (r.records % 2 ^ 46 + 32 * page) (recordBytes (r.entries page))

/-- The 64 bytes of a descriptor (05 R112). -/
def VRegion.descBytes (r : VRegion) (open_ : Bool) : List Byte :=
  bytesOf 8 r.base.toNat ++ bytesOf 4 r.pages ++ bytesOf 4 ((if r.pvalid then 2 else 0) + (if open_ then 1 else 0)) ++
  bytesOf 8 r.records ++ bytesOf 8 r.pool ++ bytesOf 4 r.poolFrames ++ bytesOf 4 r.free ++ bytesOf 4 r.pub.toNat ++
  bytesOf 4 r.floor.toNat ++ List.replicate 16 0

/-- The engine writes a descriptor back after a change, over whatever software stored there (05 R112). -/
def Pkg.backDesc (p : Pkg) (r : VRegion) (open_ : Bool) : Pkg := p.engineStore r.desc (r.descBytes open_)

/-- CopyOnWrite of R118 for a request, where R117 still asks for it. -/
def Pkg.copyOnWrite (p : Pkg) (q : Cow) : Pkg :=
  match p.regions.find? q.region with
  | none => p
  | some r =>
    match p.verStore q.wver ⟨0, some q.home, false, some (q.region, q.page, q.home)⟩ with
    | .copy _ =>
      let fs := r.frames q.page
      let n := newest fs
      let g : Option Nat := if fs.any (fun f => f.frame.isNone) then some (r.takeFrame p.tick) else none
      let f : Frame := ⟨q.wver, g, freePlace fs, true⟩
      let r' : VRegion := { r with
        recs := KMap.insert q.page ((r.entries q.page).filter (fun x => x.place != f.place) ++ [f]) r.recs
        homes := KMap.insert q.page q.home r.homes
        used := match g with | some j => j :: r.used | none => r.used }
      let p := p.copyFrame (r.frameBase q.home n) (r'.frameBase q.home f)
      let p := { p with regions := KMap.insert q.region r' p.regions }
      let p := (p.backPage r' q.page).backDesc r' true
      let lo := r.base.toNat + q.page * 65536
      p.tlbDrop (fun e => e.covers (q.region / 16) lo (lo + 65536))
    | _ => p

/-- Two entries are one request. -/
def Cow.same (a b : Cow) : Bool := { a with copied := false } == { b with copied := false }

/-- A request arrives at its page lock, once. -/
def Pkg.requestCow (p : Pkg) (q : Cow) : Pkg :=
  if p.cows.any (fun x => x.same q) then p else { p with cows := p.cows ++ [q] }

/-- The requests of an owner but for those it still has to make are over: their accesses were performed (05 R118 step 6),
or need another copy. -/
def Pkg.leaveCows (p : Pkg) (who : CowOwner) (left : List Cow) : Pkg :=
  { p with cows := p.cows.filterMap (fun (q : Cow) =>
      if q.owner != who then some q
      else if left.any (fun x => x.same q) then some { q with copied := false }
      else none) }

/-- A request is the oldest of its page, and no action of the snapshot engine waits for its region (05 R119, R127). -/
def Pkg.cowFirst (p : Pkg) (q : Cow) : Bool :=
  (p.cows.find? (fun x => x.region == q.region && x.page == q.page)) == some q &&
  !p.snaps.any (fun x => x.region == q.region)

/-- An engine's access that needs a copy (05 R117-R119): it waits its turn at the page lock, then the copy is made and the
access follows in the same step; none while it waits. -/
def Pkg.engineCow (p : Pkg) (q : Cow) : Pkg × Bool :=
  let p := p.requestCow q
  if p.cowFirst q then ({ p with cows := p.cows.filter (· != q) }.copyOnWrite q, true) else (p, false)

/-! ## Splits (02 R28-R33) -/

/-- The lowest FREE entry of the split table. -/
def Warp.freeEntry (w : Warp) : Option Nat := w.splits.findIdx? (fun s => s.st == .free)

/-- A divergence-stack entry as a split: READY, in the wait that it kept, or stopped. -/
def DEntry.split (e : DEntry) : Split :=
  let s : Split := { Split.free with mask := e.mask, st := .ready, pc := e.pc, reconv := e.reconv, outer := e.outer,
                                     cstack := e.cstack, noBreak := e.noBreak, pend := e.pend }
  let s : Split := match e.kept with
    | some (x, held, pfx) => { s with st := .blocked, wait := some x, held := held, pfx := pfx }
    | none => s
  if e.stop then { s with prior := s.st, st := .stopped } else s

/-- Place a new READY split: the lowest FREE entry, else the divergence stack when it has room (02 R30). -/
def Warp.placeSplit (w : Warp) (e : DEntry) : Option Warp :=
  match w.freeEntry with
  | some k => some (w.modSplit k (fun _ => e.split))
  | none => if w.dstack.length < 16 then some { w with dstack := e :: w.dstack } else none

/-- Divergence of R30: lanes `t` continue in entry `sp` at `target`, lanes `n` in a new entry at `next`.
`q` is the reconvergence PC, 0 for none. -/
def Warp.diverge (w : Warp) (sp : Nat) (t : Mask) (target : DWord) (n : Mask) (next q : DWord) :
    Option Warp :=
  let s := w.split sp
  let rec' := if q = 0 then s.reconv else q
  let out' := if q = 0 then s.outer else s.reconv
  match w.placeSplit ⟨n, next, rec', out', s.cstack, false, none, none, false⟩ with
  | none => none
  | some w' => some (w'.modSplit sp (fun s =>
      { s with mask := t, pc := target, reconv := rec', outer := out' }))

/-- The top of the divergence stack takes the lowest FREE entry (02 R33). -/
def Warp.refill (w : Warp) : Warp :=
  match w.dstack with
  | [] => w
  | e :: t =>
    match w.freeEntry with
    | some k => { w with dstack := t }.modSplit k (fun _ => e.split)
    | none => w

/-- An entry becomes FREE, and the top of the divergence stack takes the lowest FREE entry (02 R33). -/
def Warp.freeSplit (w : Warp) (sp : Nat) : Warp := (w.modSplit sp (fun _ => Split.free)).refill

/-- Lanes of an entry end (08 R194): they leave its mask and are exited; an emptied entry without a pending
record is freed. -/
def Warp.exitLanes (w : Warp) (sp : Nat) (m : Mask) : Warp :=
  let w := { w with exited := w.exited ||| m }.modSplit sp (fun s => { s with mask := Mask.minus s.mask m })
  let s := w.split sp
  if s.mask = 0 ∧ s.pend = none then w.freeSplit sp else w

/-- A READY split at its reconvergence PC parks (02 R31). -/
def Split.parks (s : Split) : Bool :=
  s.st == .ready && s.wait.isNone && s.reconv != 0 && s.pc == s.reconv && s.pfx.words == 0

/-- Two entries hold one parking place: both parked at one PC with one call depth (02 R31-R32), for one RECONV or in one
`wsync`. -/
def Split.meets (a b : Split) : Bool :=
  a.st == .parked && b.st == .parked && a.pc == b.pc && a.cstack.length == b.cstack.length &&
    (match a.wait, b.wait with
     | none, none => a.reconv == b.reconv
     | some _, some _ => true
     | _, _ => false)

/-- READY entries that R32 merges: one PC and one call depth, no prefix run begun. -/
def Split.joins (a b : Split) : Bool :=
  a.st == .ready && b.st == .ready && a.pc == b.pc && a.cstack.length == b.cstack.length &&
    a.pfx.words == 0 && b.pfx.words == 0 && a.wait.isNone && b.wait.isNone

/-- Of two pending records the first stays, marked LOST when another joins it (23 R418). -/
def joinPend : Option Pend → Option Pend → Option Pend
  | none, b => b
  | some a, none => some a
  | some a, some b =>
    if a.cause = b.cause ∧ a.pc = b.pc then some { a with lanes := a.lanes ||| b.lanes, lost := a.lost || b.lost }
    else some { a with lost := true }

/-- Merge entry j into entry i (i below j); entry j becomes FREE. -/
def Warp.merge (w : Warp) (i j : Nat) : Warp :=
  let b := w.split j
  (w.modSplit i (fun a => { a with mask := a.mask ||| b.mask, pend := joinPend a.pend b.pend
                                   stepping := a.stepping || b.stepping })).freeSplit j

/-- The pairs of entries, lower first. -/
def splitPairs : List (Nat × Nat) := [(0, 1), (0, 2), (0, 3), (1, 2), (1, 3), (2, 3)]

/-- Merge every pair of entries that a test allows. -/
def Warp.mergeBy (w : Warp) (f : Split → Split → Bool) : Warp :=
  splitPairs.foldl (fun w p => if f (w.split p.1) (w.split p.2) then w.merge p.1 p.2 else w) w

/-- The other entries of a warp. -/
def Warp.others (w : Warp) (i : Nat) : List Split :=
  ((List.range 4).filter (· != i)).map w.split

/-- A parked entry goes on (02 R31, 08 R196). One that several splits merged into counts as alone where it is the only one
parked at its PC, and goes on beside a BLOCKED split of its RECONV as a single one does (log 90, DESIGN CHOICE). -/
def Warp.resumes (w : Warp) (i : Nat) : Bool :=
  let s := w.split i
  let o := w.others i
  s.st == .parked &&
  match s.wait with
  | none =>
    let noStack := w.dstack.all (fun e => e.reconv != s.reconv)
    (noStack && o.all (fun x => !((x.st == .ready || x.st == .blocked) && x.reconv == s.reconv))) ||
    (noStack && o.all (fun x => x.st == .free || x.st == .blocked || x.st == .stopped ||
      (x.st == .parked && x.pc != s.pc)))
  | some _ =>
    Mask.minus w.live s.mask == 0 ||
    (w.dstack.isEmpty && o.all (fun x => x.st == .free || x.st == .stopped ||
      (x.st == .parked && x.pc != s.pc))) ||
    o.all (fun x => x.st == .parked || x.st == .stopped)

/-- Let a parked entry go on: past its reconvergence PC, or past its `wsync`. -/
def Split.unpark (s : Split) : Split :=
  match s.wait with
  | none => { s with st := .ready, reconv := s.outer, outer := 0 }
  | some x => { s with st := if s.stepping then .stopped else .ready, prior := if s.stepping then .ready else s.prior
                       stepping := false, pc := x.data.headD s.pc, wait := none, held := none }

/-- One round of parking, merging and resuming. It ends with the parking where an entry parks that holds a pending record:
its trap is due (23 R417). -/
def Warp.settleOnce (w : Warp) : Warp :=
  let w := { w with splits := w.splits.map (fun (s : Split) => if s.parks then { s with st := .parked } else s) }
  if w.splits.any (fun s => s.st == .parked && s.pend.isSome) then w else
  let w := w.mergeBy Split.meets
  let w := (List.range 4).foldl (fun w i => if w.resumes i then w.modSplit i Split.unpark else w) w
  w.mergeBy Split.joins

/-- Parking, merging and resuming at an issue decision (02 R31-R32). An entry that a merge frees takes the top of the
divergence stack; that split joins in the second round, and what comes after waits for the next decision (log 91, DESIGN
CHOICE). -/
def Warp.settle (w : Warp) : Warp := w.settleOnce.settleOnce

/-! ## Atomic regions: aborts (10 R254-R255) -/

/-- A region status word (10 R255). -/
def arStatus (cause index : Nat) (repaired committed : Bool) (reason : Nat) : Word :=
  BitVec.ofNat 32 (cause * 16777216 + index * 65536 + (if repaired then 512 else 0) +
    (if committed then 256 else 0) + reason)

/-- Discard a lane's region: registers and predicates return to the checkpoint, the status is recorded. -/
def Warp.closeRegion (w : Warp) (l : Nat) (r : Region) (status : Word) : Warp :=
  let w := r.saved.foldl (fun w e => w.wr e.1 l e.2) w
  let w := w.setPredBits l r.preds
  { w with regions := KMap.erase l w.regions, arStat := w.arStat.setD l status 0, arLog := w.arLog ++ [status] }

/-- The lanes of a mask with an open region, grouped by abort PC, in order of their lowest lane. -/
def Warp.abortGroups (w : Warp) (m : Mask) : List (DWord × Mask) :=
  (lanesOf m).foldl (fun gs l =>
    match w.regions.find? l with
    | none => gs
    | some r =>
      if gs.any (fun g => g.1 == r.abortPc) then
        gs.map (fun g => if g.1 == r.abortPc then (g.1, g.2 ||| laneBit l) else g)
      else gs ++ [(r.abortPc, laneBit l)]) []

/-- Close the regions of a mask of lanes with one status. -/
def Warp.closeRegions (w : Warp) (m : Mask) (status : Word) : Warp :=
  forLanes m (fun l w =>
    match w.regions.find? l with
    | none => w
    | some r => w.closeRegion l r status) w

/-- The entry goes on at an abort PC: it waits for nothing any more (10 R254). -/
def Split.goTo (pc : DWord) (s : Split) : Split :=
  { s with pc := pc, pfx := Pfx.none, wait := none, held := none
           st := if s.st == .stopped then .stopped else .ready
           prior := if s.st == .stopped then .ready else s.prior }

/-- Add lanes to the pending record of an entry as faulting lanes and mask them off (23 R416, R418). -/
def Split.fault (s : Split) (m : Mask) (r : Pend) : Split :=
  { s with mask := Mask.minus s.mask m, pend := joinPend s.pend (some { r with lanes := m }) }

/-- The same for an entry of the divergence stack. -/
def DEntry.fault (e : DEntry) (m : Mask) (r : Pend) : DEntry :=
  { e with mask := Mask.minus e.mask m, pend := joinPend e.pend (some { r with lanes := m }) }

/-- A group of aborted lanes that leaves its entry (10 R254): the entry, in the split table or, counted from the bottom,
in the divergence stack, and what the group takes from it. -/
structure Leave where
  split : Option Nat
  depth : Nat
  entry : DEntry

/-- The groups of aborted lanes among some lanes that leave their entries, in ascending order of their lowest lane. -/
def Warp.leavers (w : Warp) (m : Mask) : List Leave :=
  let some_ (mask : Mask) (f : DWord × Mask → Leave) : List Leave :=
    ((w.abortGroups (mask &&& m)).filter (fun g => g.2 != mask)).map f
  let a := w.splits.zipIdx.flatMap (fun x => some_ x.1.mask (fun g =>
    ⟨some x.2, 0, ⟨g.2, g.1, x.1.reconv, x.1.outer, x.1.cstack, false, none, none, false⟩⟩))
  let b := w.dstack.zipIdx.flatMap (fun x => some_ x.1.mask (fun g =>
    ⟨none, w.dstack.length - 1 - x.2, { x.1 with mask := g.2, pc := g.1, noBreak := false, pend := none, kept := none, stop := false }⟩))
  sortBy (fun x y => decide ((lanesOf x.entry.mask).headD 32 ≤ (lanesOf y.entry.mask).headD 32)) (a ++ b)

/-- Change the entry that a group leaves. -/
def Warp.modOrigin (w : Warp) (x : Leave) (f : Split → Split) (g : DEntry → DEntry) : Warp :=
  match x.split with
  | some sp => w.modSplit sp f
  | none => { w with dstack := w.dstack.modify (w.dstack.length - 1 - x.depth) g }

/-- A group leaves its entry for a new one; a group without a place stays, masked off with cause 0x13. -/
def Warp.leave (w : Warp) (x : Leave) : Warp :=
  let m := x.entry.mask
  match w.placeSplit x.entry with
  | some w => w.modOrigin x (fun s => { s with mask := Mask.minus s.mask m }) (fun e => { e with mask := Mask.minus e.mask m })
  | none => w.modOrigin x (fun s => s.fault m ⟨0x13, s.pc, s.pc, 0, m, 0, false⟩) (fun e => e.fault m ⟨0x13, e.pc, e.pc, 0, m, 0, false⟩)

/-- Entries that no lane and no record holds any more are FREE, and the divergence stack moves up. -/
def Warp.tidy (w : Warp) : Warp :=
  let w := { w with
    splits := w.splits.map (fun (s : Split) => if s.st != .free && s.mask == 0 && s.pend.isNone then Split.free else s)
    dstack := w.dstack.filter (fun (e : DEntry) => e.mask != 0 || e.pend.isSome) }
  (List.range 4).foldl (fun w _ => w.refill) w

/-- The open regions of some lanes abort, wherever the lanes stand (10 R254): a group that is the whole of its entry takes
the entry over, every other group leaves it. -/
def Warp.abortMask (w : Warp) (m : Mask) (status : Word) : Warp :=
  if w.regions.all (fun e => !m.getLsbD e.1) then w
  else
    let whole (mask : Mask) : Option DWord := match w.abortGroups (mask &&& m) with
      | [g] => if g.2 = mask then some g.1 else none
      | _ => none
    let ls := w.leavers m
    let w' := { w with
      splits := w.splits.map (fun (s : Split) => match whole s.mask with | some pc => s.goTo pc | none => s)
      dstack := w.dstack.map (fun (e : DEntry) => match whole e.mask with | some pc => { e with pc := pc, kept := none } | none => e) }
    ((ls.foldl Warp.leave w').tidy).closeRegions m status

/-- Every open region of a warp aborts, on a pre-emption or a halt (10 R254). -/
def Warp.abortAll (w : Warp) (reason : Nat) : Warp := w.abortMask 0xFFFFFFFF (arStatus 0 0 false false reason)

/-! ## Taking a trap (23 R416-R423) -/

/-- The fused code of a spliced pair and where it stands (14 R341, log 14): at the producer's CODE. -/
def Launch.code (l : Launch) : Option (DWord × Splice) :=
  l.splice.map (fun sp => (BitVec.ofNat 64 (recNat l.record 0x10 8), sp))

/-- The fused word at an address. -/
def fusedAt (x : DWord × Splice) (pc : DWord) : Option FusedWord := x.2.words[(pc - x.1).toNat / 4]?

/-- The fused code that a warp of a block runs; a handler's code stands apart (14 R341, 23 R426, 26 R473). -/
def Pkg.fused (p : Pkg) (bl : Block) (w : Nat) : Option (DWord × Splice) :=
  match bl.mode with
  | .handler _ h => if h = w then none else (p.launch? bl.launch).bind Launch.code
  | _ => (p.launch? bl.launch).bind Launch.code

/-- The original PC of an address of the code that a warp of a block runs, and whether it is the consumer's (14 R343). -/
def Pkg.origPc (p : Pkg) (bl : Block) (w : Nat) (pc : DWord) : DWord × Bool :=
  match (p.fused bl w).bind (fun x => fusedAt x pc) with
  | some f => (f.pc, f.consumer)
  | none => (pc, false)

/-- The words of a fault record (23 R413). -/
def FRec.words (r : FRec) : List Word :=
  let w0 := r.cause * 16777216 + r.split * 4194304 + r.warp * 65536 + r.skid * 256 +
    (if r.imprecise then 128 else 0) + (if r.consumer then 64 else 0) + (if r.origin then 32 else 0) +
    (if r.lost then 16 else 0)
  let stop (k : Nat) : DWord := r.stops.getD k 0
  [BitVec.ofNat 32 w0, r.lanes, half r.pc 0, half r.pc 1, half r.addr 0, half r.addr 1,
   BitVec.ofNat 32 (r.skidcyc * 16777216 + r.aux.toNat), r.act.setWidth 32] ++
  (List.range 4).flatMap (fun k => [half (stop k) 0, half (stop k) 1])

/-- The warp field of a record: the index in the block, 0x3F for the armature. -/
def recWarp (w : Nat) : Nat := if w = armNo then 0x3F else w

/-- The stop PC of an entry (23 R421): 0 for a FREE one. -/
def Split.stopPc (orig : DWord → DWord × Bool) (s : Split) : DWord := if s.st == .free then 0 else (orig s.pc).1

/-- An entry that does not wait is at an instruction boundary: a prefix run it had begun is dropped. -/
def Split.dropRun (s : Split) : Split := if s.wait.isSome then s else { s with pfx := Pfx.none, held := none }

/-- Stop an entry: it keeps its prior state, its wait and its PC. -/
def Split.stop (s : Split) : Split :=
  if s.st == .free ∨ s.st == .stopped then s else { s.dropRun with prior := s.st, st := .stopped, stepping := false }

/-- Every lane of a mask stops, wherever it stands. -/
def Warp.stopLanes (w : Warp) (m : Mask) : Warp :=
  { w with
    splits := w.splits.map (fun (s : Split) => if s.mask &&& m = 0 then s else s.stop)
    dstack := w.dstack.map (fun (e : DEntry) => if e.mask &&& m = 0 then e else { e with stop := true }) }

/-- The split waits for a copy-on-write, whose store is performed before its warp stops (25 R455). -/
def Split.inCow (s : Split) : Bool :=
  s.st == .blocked && (match s.wait with
    | some x => (match x.kind with | .cow _ => true | _ => false)
    | none => false)

/-- An entry of a halted warp stops, once its store is performed. -/
def Split.halt (s : Split) : Split := if s.inCow then s else s.stop

/-- The instructions a warp issued since the halt reached it. -/
def HaltState.skid : HaltState → Nat
  | .reached n _ => n
  | _ => 0

/-- Core cycles from the halt reaching a warp to now, at most 64 (23 R413). -/
def HaltState.cycles (now : DWord) : HaltState → Nat
  | .reached _ t => min 64 (now - t).toNat
  | _ => 0

/-- The pending record of a warp that its halt takes (23 R420), and its entry: the lowest entry that holds one, else the
top one of the divergence stack, given as entry 0 (log 37). -/
def Warp.ownPend (w : Warp) : Option (Nat × Pend) :=
  match (w.splits.zipIdx.filterMap (fun e => e.1.pend.map (fun r => (e.2, r)))).head? with
  | some x => some x
  | none => (w.dstack.findSome? DEntry.pend).map (fun r => (0, r))

/-- Stop every entry of a warp and fill its record from a pending one, or with cause 0x23 (23 R420); of a warp without a
live lane it stays zero (23 R423). A record that the armature holds already, of an imprecise fault, keeps its cause. -/
def Warp.stopAll (w : Warp) (orig : DWord → DWord × Bool) (no : Nat) (from_ : Option (Nat × Pend))
    (origin : Bool) (cyc : Nat) : Warp :=
  let w := w.abortAll 0x0E
  let lost := w.splits.zipIdx.any (fun e =>
    e.1.pend.isSome && (match from_ with | some f => e.2 != f.1 | none => true)) ||
    w.dstack.any (fun e => e.pend.isSome && (match from_ with | some f => e.pend != some f.2 | none => true))
  let base : FRec :=
    if w.frec.imprecise then { w.frec with lost := w.frec.lost || from_.isSome || lost }
    else match from_ with
    | none => { FRec.zero with cause := 0x23, warp := recWarp no, lost := lost }
    | some (sp, r) =>
      let s := w.split sp
      { FRec.zero with
        cause := r.cause, split := sp, warp := recWarp no, lost := r.lost || lost,
        lanes := r.lanes, pc := (orig r.pc).1, consumer := (orig r.pc).2, addr := r.addr, aux := r.aux,
        resume := some ⟨r.pc, r.skip, s.reconv, s.outer, s.cstack, if r.cause = 0x29 then s.wait else none, s.held, s.pfx⟩ }
  let clear (s : Split) : Split :=
    let s := { s with pend := none }
    if s.mask = 0 ∧ s.st ≠ .free then Split.free else s.halt
  if from_.isNone && w.live == 0 then { w with halt := .stopped }
  else
    let w := { w with splits := w.splits.map clear, dstack := w.dstack.map (fun (e : DEntry) => { e with pend := none }) }
    { w with
      halt := .stopped
      frec := { base with origin := origin, skid := w.halt.skid, skidcyc := cyc,
                          stops := w.splits.map (Split.stopPc orig) } }

/-- Entries of a stopped warp whose stores were performed meanwhile stop too; a fault of such a store is not recorded, and
sets LOST (23 R418, 25 R455). -/
def Warp.restop (orig : DWord → DWord × Bool) (w : Warp) : Warp :=
  let fix (s : Split) : Split := if s.mask = 0 then Split.free else { s with pend := none }.halt
  let splits := w.splits.map fix
  { w with splits := splits, frec := { w.frec with
      lost := w.frec.lost || w.splits.any (fun s => s.pend.isSome), stops := splits.map (Split.stopPc orig) } }

/-- The halt arrives at a warp (23 R419-R420): one that holds a pending record takes its trap at once. -/
def Warp.haltArrives (orig : DWord → DWord × Bool) (now : DWord) (no : Nat) (w : Warp) : Warp :=
  if w.live = 0 ∨ w.halt ≠ .running then w
  else
    match w.ownPend with
    | some x => w.stopAll orig no (some x) false 0
    | none => { w with halt := .reached 0 now }

/-- The disposition of the queue that a block's launch belongs to. -/
def Pkg.dispOf (p : Pkg) (bl : Block) : Disp :=
  match p.launch? bl.launch with
  | some l => (p.queue l.q).disp
  | none => .kill

/-- A waiting claim of a warp leaves the claim queue (23 R422). -/
def Core.dropClaims (k : Core) (b w : Nat) : Core :=
  { k with claims := k.claims.filter (fun c => !(c.slot == b && c.w == w)) }

/-- The cause of the origin record of a halted block, as the handler's shadow or its warps hold it. -/
def Pkg.originCause (p : Pkg) (c b : Nat) : Option Nat :=
  match p.block? c b with
  | none => none
  | some bl =>
    match (p.core c).shadow with
    | some (x, old) =>
      if x = b ∧ old.frec.origin then some old.frec.cause
      else (bl.warps.vals.find? (fun w => w.frec.origin)).map (fun w => w.frec.cause)
    | none => (bl.warps.vals.find? (fun w => w.frec.origin)).map (fun w => w.frec.cause)

/-- Launch `l` is launch `a` or a descendant of it; the depth of grids is at most 10 (02 R39). -/
def Pkg.under (p : Pkg) (a : Nat) : Nat → Nat → Bool
  | 0, l => l == a
  | n + 1, l => l == a ||
    (match (p.launch? l).bind Launch.parent with
     | some q => p.under a n q
     | none => false)

/-- Launch `l` descends from `a`, or is `a`. -/
def Pkg.within (p : Pkg) (a l : Nat) : Bool := p.under a 10 l

/-- Idle time of a block is not counted from here on (26 R478). -/
def Block.pause (now : DWord) (b : Block) : Block :=
  { b with stuck := none, paused := match b.paused with | some t => some t | none => some now }

/-- Idle time of a block counts again. -/
def Block.unpause (now : DWord) (b : Block) : Block :=
  match b.paused with
  | some t => { b with paused := none, lastIssue := b.lastIssue + (now - t) }
  | none => b

/-- The cycle count of a core's die. -/
def Pkg.cycOf (p : Pkg) (c : Nat) : DWord := (p.die (dieOfCore c)).cyc

/-- The halt reaches the warps of a block that still run (23 R419-R420). -/
def Block.haltWarps (orig : Nat → DWord → DWord × Bool) (now : DWord) (b : Block) : Block :=
  { b with warps := (b.warps.map (fun e => (e.1, e.2.haltArrives (orig e.1) now e.1))) }

/-- The warps of a block that hold a pending record when a halt reaches them: it takes their traps at once (23 R420). -/
def Block.atOnce (b : Block) : List Nat :=
  (List.filter (fun e => e.2.live != 0 && e.2.halt == .running && e.2.ownPend.isSome) b.warps).map Prod.fst

/-- The STOP or RESUME records of a warp's entries (17 R388). -/
def Pkg.emitSplits (p : Pkg) (c b w type : Nat) : Pkg :=
  match p.block? c b, p.warp? c b w with
  | some bl, some x => x.splits.zipIdx.foldl (fun p e =>
      if e.1.st == .free then p
      else p.emit c b 2 type e.2 (recWarp w) e.1.mask 0 (p.origPc bl w e.1.pc).1) p
  | _, _ => p

/-- The FAULT record of a warp whose own record a halt takes (17 R388). -/
def Pkg.emitOwn (p : Pkg) (c b w : Nat) : Pkg :=
  match p.block? c b, p.warp? c b w with
  | some bl, some x =>
    (match x.ownPend with
     | some (sp, r) => p.emit c b 2 0x04 sp (recWarp w) ((x.split sp).mask ||| r.lanes) (BitVec.ofNat 32 r.cause) (p.origPc bl w r.pc).1
     | none => p)
  | _, _ => p

/-- The halt reaches the warps of a block but for some, with the records of those that it stops at once. -/
def Pkg.haltRest (p : Pkg) (c b : Nat) (but : List Nat) : Pkg :=
  match p.block? c b with
  | none => p
  | some bl =>
    let ws := bl.atOnce.filter (fun w => !but.contains w)
    let p := ws.foldl (fun p w => p.emitOwn c b w) p
    let p := p.modBlock c b (fun b => { b with warps := (b.warps.map (fun e =>
      if but.contains e.1 then e else (e.1, e.2.haltArrives (p.origPc bl e.1) (p.cycOf c) e.1))) })
    ws.foldl (fun p w => p.emitSplits c b w 0x05) p

/-- A launch and its descendants are killed (23 R424): no further block of them is placed, and their resident
blocks stop. The launch ends FAULTED with the cause, a descendant KILLED. -/
def Pkg.killLaunch (p : Pkg) (l : Nat) (cause : Option Nat) : Pkg :=
  let p : Pkg := { p with launches := (p.launches.map (fun e =>
    if p.within l e.1 then
      (e.1, if e.2.ending then e.2 else { e.2 with
        ending := true, cause := if e.1 = l then cause else none
        status := if e.1 = l then 2 else 3
        detail := if e.1 = l then BitVec.ofNat 32 (cause.getD 0) else 0 })
    else e)) }
  let killed (f : Nat × Block) : Bool := p.within l f.2.launch && (match f.2.mode with | .halting _ .kill => false | _ => true)
  let hit := p.cores.flatMap (fun e => (List.filter killed e.2.blocks).flatMap (fun f => f.2.atOnce.map (fun w => (e.1, f.1, w))))
  let p := hit.foldl (fun p x => p.emitOwn x.1 x.2.1 x.2.2) p
  let p : Pkg := { p with cores := (p.cores.map (fun e => (e.1, { e.2 with blocks := (e.2.blocks.map (fun f =>
      if killed f then
        (f.1, (Block.pause p.ptime { f.2 with mode := .ending }).haltWarps (p.origPc f.2) (p.cycOf e.1))
      else f)) }))) }
  hit.foldl (fun p x => p.emitSplits x.1 x.2.1 x.2.2 0x05) p

/-- A further fault of a warp (23 R420). One that single-steps in a held block keeps its record, with LOST, while that
waits to be resumed (17 R394). -/
def Warp.furtherTrap (wp : Warp) (orig : DWord → DWord × Bool) (now : DWord) (w sp : Nat) (r : Pend) : Warp :=
  if wp.halt = .stopped ∧ wp.frec.resume.isSome then
    { wp with frec := { wp.frec with lost := true }, splits := wp.splits.modify sp Split.stop }
  else wp.stopAll orig w (some (sp, r)) false (wp.halt.cycles now)

/-- Claims of the warps of a block that have stopped leave the claim queue (23 R422). -/
def Pkg.dropStopped (p : Pkg) (c b : Nat) : Pkg :=
  match p.block? c b with
  | none => p
  | some bl => p.modCore c (fun k => { k with claims := k.claims.filter (fun q =>
      !(q.slot == b && (match bl.warps.find? q.w with | some x => x.halt == .stopped | none => false))) })

/-- The records of a block whose traps two warps took in one cycle (23 R423): the lower index is the origin. -/
def Pkg.takeOrigin (p : Pkg) (c b w o sp : Nat) (r : Pend) (d : Disp) : Pkg :=
  match p.block? c b with
  | none => p
  | some bl =>
    let p := p.modBlock c b (fun bl => { bl with
      mode := .halting w d
      warps := (bl.warps.map (fun e =>
        if e.1 = w then (e.1, { e.2 with halt := .running }.stopAll (p.origPc bl w) w (some (sp, r)) true 0)
        else if e.1 = o then (e.1, { e.2 with frec := { e.2.frec with origin := false } })
        else e)) })
    if d = .kill then p.modLaunch bl.launch (fun l =>
      { l with cause := some r.cause, detail := if l.status = 2 then BitVec.ofNat 32 r.cause else l.detail }) else p

/-- TAKE A TRAP: the pending record of entry `sp` becomes the record of its warp, which stops. In a running
block it is the origin: the disposition is read and the halt reaches every other warp and the armature
(23 R419). In a block already halting it is a further record (R420), or the origin where it was taken in the cycle of the
origin by a lower warp (R423). A fault of the handler warp ends the block as KILL and sets LOST in that warp's record
(R427). -/
def Pkg.takeTrap (p : Pkg) (c b w sp : Nat) : Pkg :=
  match p.block? c b with
  | none => p
  | some bl =>
    match bl.warps.find? w with
    | none => p
    | some wp =>
      match (wp.split sp).pend with
      | none => p
      | some r =>
        let p := p.modCore c (fun k => k.dropClaims b w)
        let p := p.emit c b 2 0x04 sp (recWarp w) ((wp.split sp).mask ||| r.lanes) (BitVec.ofNat 32 r.cause) (p.origPc bl w r.pc).1
        match bl.mode with
        | .running =>
          let p := Pkg.emitSplits (p.modBlock c b (fun bl => Block.pause p.ptime { bl with
            mode := .halting w (p.dispOf bl)
            trapped := true
            warps := bl.warps.modify w (fun x => x.stopAll (p.origPc bl w) w (some (sp, r)) true 0) })) c b w 0x05
          let p := p.haltRest c b [w]
          let p := p.dropStopped c b
          if p.dispOf bl = .kill then p.killLaunch bl.launch (some r.cause) else p
        | .halting o d =>
          let same : Bool := match wp.halt with | .reached _ t => t == p.cycOf c | _ => false
          if same && decide (w < o) then (p.takeOrigin c b w o sp r d).emitSplits c b w 0x05
          else (p.modWarp c b w (fun wp => wp.furtherTrap (p.origPc bl w) (p.cycOf c) w sp r)).emitSplits c b w 0x05
        | .handler o h =>
          if h = w then
            Pkg.killLaunch (Pkg.emitSplits (p.modBlock c b (fun bl => { bl with
              mode := .halting o .kill
              warps := bl.warps.modify w (fun wp =>
                { wp with halt := .stopped, frec := { wp.frec with lost := true },
                          splits := wp.splits.map Split.halt }) })) c b w 0x05) bl.launch (p.originCause c b)
          else (p.modWarp c b w (fun wp => wp.furtherTrap (p.origPc bl w) (p.cycOf c) w sp r)).emitSplits c b w 0x05
        | _ => (p.modWarp c b w (fun wp => wp.furtherTrap (p.origPc bl w) (p.cycOf c) w sp r)).emitSplits c b w 0x05

/-- The imprecise fault of a block that is not running already (23 R417, R423): the armature records it with ORIGIN 0, or
sets LOST where it holds a cause of its own. -/
def Warp.imprecise (x : Warp) (cause : Nat) (aux : BitVec 16) : Warp :=
  if x.frec.cause = 0 ∨ x.frec.cause = 0x23 then
    { x with frec := { x.frec with cause := cause, warp := 0x3F, imprecise := true, aux := aux } }
  else { x with frec := { x.frec with lost := true } }

/-- A fault of the whole block, imprecise (23 R417): cause 0x1D. The armature's record holds it; its FAULT record has PC 0. -/
def Pkg.blockFault (p : Pkg) (c b cause : Nat) (aux : BitVec 16) : Pkg :=
  match p.block? c b with
  | none => p
  | some bl =>
    let p := p.emit c b 2 0x04 0 0x3F (((p.warp? c b armNo).map (fun x => (x.split 0).mask)).getD 0) (BitVec.ofNat 32 cause) 0
    match bl.mode with
    | .running =>
      let d := if cause = 0x1D && p.dispOf bl == .handler then Disp.kill else p.dispOf bl
      let p := Pkg.emitSplits (p.modBlock c b (fun bl => Block.pause p.ptime { bl with
        mode := .halting armNo d
        trapped := true
        warps := bl.warps.modify armNo (fun x =>
          { x with halt := .stopped, splits := x.splits.map Split.halt,
                   frec := { FRec.zero with cause := cause, warp := 0x3F, imprecise := true,
                                            origin := true, aux := aux,
                                            stops := x.splits.map (Split.stopPc (p.origPc bl armNo)) } }) })) c b armNo 0x05
      let p := p.haltRest c b [armNo]
      let p := p.dropStopped c b
      if d = .kill then p.killLaunch bl.launch (some cause) else p
    | _ => p.modWarp c b armNo (fun x => x.imprecise cause aux)

/-- A sibling warp reaches its stop under a halt (23 R420): its regions abort first (10 R254); a pending record of one of its
entries is then its own cause, otherwise cause 0x23. -/
def Pkg.stopSibling (p : Pkg) (c b w cyc : Nat) : Pkg :=
  let orig : DWord → DWord × Bool := match p.block? c b with | some bl => p.origPc bl w | none => fun pc => (pc, false)
  let p := (p.modCore c (fun k => k.dropClaims b w)).modWarp c b w (fun x => x.abortAll 0x0E)
  let p := p.emitOwn c b w
  (p.modWarp c b w (fun wp => wp.stopAll orig w wp.ownPend false cyc)).emitSplits c b w 0x05

/-! ## Returning from a handler or a debug hold (23 R428) -/

/-- What ACT says (23 R428). -/
inductive Resumed where
  | retry | skip | ends
  deriving DecidableEq, Repr

/-- The action of an ACT field. -/
def actOf (a : Nat) : Resumed := if a = 0 then .retry else if a = 1 then .skip else .ends

/-- A STOPPED entry returns to its prior state (17 R394). -/
def Split.unstop (s : Split) : Split :=
  if s.st == .stopped then { s with st := s.prior, prior := .free } else s

/-- Lanes that run again by an action, as an entry: in the wait that a watchdog ended, else from an address. -/
def Resume.entry (r : Resume) (a : Resumed) (m : Mask) (cause : Nat) : DEntry :=
  let pc := if a == .skip then r.skip else r.pc
  match a, r.wait with
  | .retry, some x => { mask := m, pc := pc, reconv := r.reconv, outer := r.outer, cstack := r.cstack, kept := some (x, r.held, r.pfx) }
  | _, _ => { mask := m, pc := pc, reconv := r.reconv, outer := r.outer, cstack := r.cstack, noBreak := a == .retry && cause == 0x20 }

/-- A warp resumes: its entries return to their prior states, the lanes of its record enter a new split
under RETRY or SKIP, and lanes that no split holds any more end. `none` when the new split has no place. -/
def Warp.resumeAll (w : Warp) (no : Nat) (a : Resumed) : Option Warp :=
  let f := w.frec
  let w := { w with splits := w.splits.map Split.unstop, halt := .running, frec := FRec.zero }
  let placed : Option Warp :=
    if no = armNo then
      some (match f.resume with
        | some r => if f.lanes = 0 then w else w.modSplit 0 (fun _ => ({ r with reconv := 0, outer := 0 }.entry a 1 f.cause).split)
        | none => w)
    else
      match f.resume with
      | none => some w
      | some r =>
        let m := f.lanes &&& w.live
        if m = 0 then some w else w.placeSplit (r.entry a m f.cause)
  placed.map (fun w =>
    let held := w.splits.foldl (fun m s => m ||| s.mask ||| (s.pend.map Pend.lanes).getD 0) (w.dstack.foldl (fun m e => m ||| e.mask) 0)
    { w with exited := w.exited ||| Mask.minus w.live held })

/-- The claims of a halted block's waiting `pool.take`s, which left the queue, by warp. -/
def Block.heldClaims (bl : Block) (b : Nat) : List Claim :=
  bl.warps.flatMap (fun e => e.2.splits.zipIdx.filterMap (fun s =>
    match s.1.prior, s.1.wait with
    | .blocked, some x => (match x.kind with
        | .claim n => if x.released then none else some ⟨b, e.1, s.2, n⟩
        | _ => none)
    | _, _ => none))

/-- RETURN FROM A HANDLER: every warp and the armature take one action, the block runs on, and its claims enter the queue
again at the tail (23 R422); where a new split
has no place the block ends as KILL with cause 0x13, in that warp's record too. -/
def Pkg.resumeBlock (p : Pkg) (c b : Nat) (act : Nat → Resumed) : Pkg :=
  match p.block? c b with
  | none => p
  | some bl =>
    let origin := match bl.mode with | .halting o _ => o | .held o => o | .handler o _ => o | _ => 0
    let cause := p.originCause c b
    if bl.warps.any (fun e => act e.1 == .ends && e.2.frec.lanes != 0) then
      (p.modBlock c b (fun bl => { bl with mode := .halting origin .kill })).killLaunch bl.launch cause
    else if bl.warps.any (fun e => (e.2.resumeAll e.1 (act e.1)).isNone) then
      (p.modBlock c b (fun bl => { bl with
        mode := .halting origin .kill
        warps := (bl.warps.map (fun e =>
          match e.2.resumeAll e.1 (act e.1) with
          | some _ => e
          | none => (e.1, { e.2 with frec := { e.2.frec with cause := 0x13 } }))) })).killLaunch bl.launch (some 0x13)
    else
      let p := p.modBlock c b (fun bl => Block.unpause p.ptime { bl with
        mode := .running
        warps := (bl.warps.map (fun e => (e.1, (e.2.resumeAll e.1 (act e.1)).getD e.2))) })
      let p := p.modCore c (fun k => { k with claims := k.claims ++ (bl.heldClaims b).filter (fun q => !k.claims.contains q) })
      bl.warps.keys.foldl (fun p w => p.emitSplits c b w 0x06) p

end Sys2Proof.Machine
end

