-- ==== Sys2Proof/Machine/Operands.lean ====
section
/-!
DEFINITION. Operand positions and forms, the checks of an instruction in the order of R433
(24_instruction_exceptions.md), reading and writing operands, and what an instruction leaves behind:
faults, region aborts, waits and the next PC.
-/

namespace Sys2Proof.Machine

/-! ## Positions and forms -/

/-- Operand widths in registers (07 R165). -/
inductive OpW where
  | w32 | w64 | w128
  deriving DecidableEq, Repr

/-- Registers that a width takes. -/
def OpW.regs : OpW → Nat
  | .w32 => 1
  | .w64 => 2
  | .w128 => 4

/-- The position kinds of R438. `upd` is read, then written; `atom` is the d of an atomic (10 R238);
`call` is the a of `qsend`; `ldst` is the d of a load, which takes no queue code (10 R233). -/
inductive Pos where
  | src (w : OpW)
  | dst (w : OpW)
  | upd (w : OpW)
  | atom (w : OpW)
  | addr
  | block (n : Nat)
  | blockDst (n : Nat)
  | call
  | ldst (w : OpW)
  deriving DecidableEq, Repr

/-- Registers that a position takes. -/
def Pos.regs : Pos → Nat
  | .src w | .dst w | .upd w | .atom w | .ldst w => w.regs
  | .addr => 2
  | .block n | .blockDst n => n
  | .call => 4

/-- The position is read. -/
def Pos.reads : Pos → Bool
  | .src _ | .upd _ | .atom _ | .addr | .block _ | .call => true
  | .dst _ | .blockDst _ | .ldst _ => false

/-- The position is written; a d of an atomic only when it is a register. -/
def Pos.writes (o : Operand) : Pos → Bool
  | .dst _ | .upd _ | .blockDst _ | .ldst _ => true
  | .atom _ => match o with | .reg _ | .ix _ => true | _ => false
  | _ => false

/-- A position's width in 32-bit operands, where queue codes and `sq` are legal (07 R165). -/
def Pos.word : Pos → Bool
  | .src .w32 | .dst .w32 | .upd .w32 | .atom .w32 => true
  | _ => false

/-- The operand code may stand in the position (24 R438-R439, 07 R166): step 3 of R433. -/
def codeOk (arm once : Bool) (k : Pos) : Operand → Bool
  | .reg n =>
    (!arm || decide (n.val < 64)) &&
    (match k with
     | .block m | .blockDst m => decide (n.val + m ≤ 112)
     | _ => true)
  | .ix _ => !arm && (match k with | .block _ | .blockDst _ | .call => false | _ => true)
  | .q _ => !arm && !once && k.word
  | .zero => (match k with | .block _ | .blockDst _ | .call => false | _ => true)
  | .lit =>
    (match k with
     | .src .w32 | .src .w64 | .atom _ | .addr => true
     | _ => false)
  | .sq => !arm && (match k with | .src .w32 | .atom .w32 => true | _ => false)

/-- A direct register is aligned to its position (07 R165): step 5 of R433. -/
def alignOk (k : Pos) : Operand → Bool
  | .reg n =>
    (match k with
     | .src .w64 | .dst .w64 | .upd .w64 | .atom .w64 | .ldst .w64 | .addr => n.val % 2 == 0
     | .src .w128 | .dst .w128 | .upd .w128 | .atom .w128 | .ldst .w128 | .block _ | .blockDst _ | .call => n.val % 4 == 0
     | _ => true)
  | _ => true

/-- How a form treats region tags (10 R251): concretize what it reads, carry a tag by a rule over the tags
and values of its sources, or by itself. -/
inductive TagRule where
  | concretize
  | carry (f : List (Option ArTag) → List DWord → Option ArTag)
  | own

/-- What the checks of R433 need to know of an instruction: executors, operands in the order d, a, b,
guard, prefixes it accepts (07 R160, R162), once per warp (12 R275), allowed in a region (10 R249) and in a
handler (23 R427), and whether it is an `exit`, `ret` at depth 0 or `wsync` (23 R417). -/
structure Form where
  warp : Bool
  arm : Bool
  guard : Guard
  ops : List (Pos × Operand)
  off : Bool
  rm : Bool
  sat : Bool
  nb : Bool
  scv : Option Nat
  once : Bool
  region : Bool
  handler : Bool
  tag : TagRule
  /-- at a call depth it lets a pending trap go first (23 R417) -/
  ends : Nat → Bool

/-- A form valid in both executors that accepts no modifier. -/
def Form.wa (g : Guard) (ops : List (Pos × Operand)) : Form :=
  { warp := true, arm := true, guard := g, ops := ops, off := false, rm := false, sat := false, nb := false
    scv := none, once := false, region := false, handler := true, tag := .concretize, ends := fun _ => false }

/-- A form valid in warps only. -/
def Form.w (g : Guard) (ops : List (Pos × Operand)) : Form := { Form.wa g ops with arm := false }

/-- The form names `lit`. -/
def Form.namesLit (f : Form) : Bool := f.ops.any (fun o => o.2 == .lit)

/-- The form names a queue code in some position. -/
def Form.namesQ (f : Form) : Bool := f.ops.any (fun o => match o.2 with | .q _ => true | _ => false)

/-- The form names `sq`. -/
def Form.namesSq (f : Form) : Bool := f.ops.any (fun o => o.2 == .sq)

/-- The form names an index register, a queue or `sq` (10 R249). -/
def Form.namesIndirect (f : Form) : Bool :=
  f.ops.any (fun o => match o.2 with | .ix _ | .q _ | .sq => true | _ => false)

/-- The `pfx.mod` is accepted (07 R160, 24 R440-R441). -/
def Form.modOk (f : Form) : Option PfxMod → Bool
  | none => true
  | some m =>
    (m.rm.isNone || f.rm) && (!m.sat || f.sat) && (m.nb.isNone || f.nb) &&
    (match m.scv with
     | none => true
     | some s => match f.scv with
       | none => false
       | some lo => decide (lo ≤ s.toNat ∧ s.toNat ≤ 6))

/-- The decode faults, steps 2 to 5 of R433: the cause of the first check that fails. -/
def Form.decodeFault (f : Form) (arm : Bool) (x : Pfx) : Option Nat :=
  if (if arm then f.arm else f.warp) = false then some 0x06
  else if x.bad || !f.ops.all (fun o => codeOk arm f.once o.1 o.2) then some 0x01
  else if x.misplaced || (x.lit.isSome != f.namesLit) || (x.off.isSome && !f.off) || !f.modOk x.md then
    some 0x02
  else if !f.ops.all (fun o => alignOk o.1 o.2) then some 0x03
  else none

/-! ## What an instruction knows and answers -/

/-- An instruction being performed: issuer, lanes of its split, lanes whose guard is true, those of them it acts on, its own
and the next address, prefix values, words popped from `sq` and queues, and the wait it resumes. `orig` is the
package before anything was popped. -/
structure Env where
  is : Issuer
  arm : Bool
  exec : Mask
  on : Mask
  act : Mask
  pc : DWord
  npc : DWord
  lit : DWord
  off : DWord
  md : Option PfxMod
  sq : Word
  qv : KMap Word
  resume : Option Wait
  orig : Pkg

/-- A fault of one lane; `abort` is the status of a region abort that is no fault (10 R254). -/
structure LFault where
  lane : Nat
  cause : Nat
  addr : DWord
  aux : BitVec 16
  abort : Option Word
  deriving DecidableEq, Repr

/-- A plain fault. -/
def LFault.of (lane cause : Nat) (addr : DWord := 0) (aux : BitVec 16 := 0) : LFault :=
  ⟨lane, cause, addr, aux, none⟩

/-- The abort of a lane's region. -/
def LFault.abortOf (lane : Nat) (status : Word) : LFault := ⟨lane, 0, 0, 0, some status⟩

/-- Where the split goes: on, to a target, as the meaning left it, into a wait, parked in `wsync`, or left
READY without having issued. -/
inductive Next where
  | seq
  | jump (t : DWord)
  | own
  | block (w : Wait)
  | park (w : Wait)
  | stall

/-- What an instruction answers. -/
structure Res where
  pkg : Pkg
  faults : List LFault
  next : Next

/-- Complete with no fault. -/
def Res.ok (p : Pkg) : Res := ⟨p, [], .seq⟩

/-- Every lane of a mask faults with one cause. -/
def Res.fail (p : Pkg) (m : Mask) (cause : Nat) (addr : DWord := 0) (aux : BitVec 16 := 0) : Res :=
  ⟨p, (lanesOf m).map (fun l => LFault.of l cause addr aux), .seq⟩

/-- Wait, with the package as it was but for what the wait itself records. -/
def Res.wait (p : Pkg) (k : WaitKind) : Res := ⟨p, [], .block (Wait.of k)⟩

/-- A wait keeps what the instruction has read (02 R37). -/
def Res.keep (r : Res) (took : Option Took) : Res :=
  match r.next with
  | .block x => { r with next := .block { x with took := took } }
  | .park x => { r with next := .park { x with took := took } }
  | _ => r

/-- The executing warp. -/
def Env.warp (e : Env) (p : Pkg) : Option Warp := p.warp? e.is.core e.is.slot e.is.w

/-- Change the executing warp. -/
def Env.modWarp (e : Env) (p : Pkg) (f : Warp → Warp) : Pkg := p.modWarp e.is.core e.is.slot e.is.w f

/-- The executing block. -/
def Env.block (e : Env) (p : Pkg) : Option Block := p.block? e.is.core e.is.slot

/-- The lanes acted on, ascending. -/
def Env.lanes (e : Env) : List Nat := lanesOf e.act

/-- The lowest lane acted on (12 R275). -/
def Env.lead (e : Env) : Nat := e.lanes.headD 0

/-- The highest lane acted on (08 R185). -/
def Env.last (e : Env) : Nat := e.lanes.getLastD 0

/-- Pod-remote accesses of the executing thread that have no response yet. -/
def Env.outstanding (e : Env) (p : Pkg) (loads stores : Bool) : Bool :=
  p.pods.any (fun x => x.2.core == e.is.core && x.2.slot == e.is.slot && x.2.w == e.is.w &&
    ((loads && x.2.kind != 1) || (stores && x.2.kind != 0)))

/-! ## Reading operands -/

/-- The register an operand names for a lane (07 R164, R167). -/
def Warp.regOf (w : Warp) (o : Operand) (l : Nat) : Option Nat :=
  match o with
  | .reg n => some n.val
  | .ix i =>
    let x := (w.ix i.val l).toNat
    some ((bits x 22 14 + bits x 8 0) % 512)
  | _ => none

/-- Step 7 of R433 for one lane and operand: the cause, or none (07 R165, R167; poison 25 R450). -/
def Warp.regFault (w : Warp) (l : Nat) (k : Pos) (o : Operand) : Option Nat :=
  let n := k.regs
  let poison (r : Nat) : Bool := k.reads && (List.range n).any (fun i => w.rpoison.contains (32 * (r + i) + l))
  match o with
  | .reg r =>
    (match k with
     | .call => none
     | _ => if w.alloc < r.val + n then some 0x05 else if poison r.val then some 0x1C else none)
  | .ix i =>
    let x := (w.ix i.val l).toNat
    let j := (bits x 22 14 + bits x 8 0) % 512
    if min (bits x 31 23) 256 < j + n then some 0x04
    else if j % n ≠ 0 then some 0x03
    else if w.alloc < j + n then some 0x05
    else if poison j then some 0x1C
    else none
  | _ => none

/-- The first failing register check of a lane, step 7 of R433: indexed operands in the order d, a, b, then direct ones. -/
def Form.laneFault (f : Form) (w : Warp) (l : Nat) : Option Nat :=
  let ix (o : Pos × Operand) : Bool := match o.2 with | .ix _ => true | _ => false
  (f.ops.filter ix ++ f.ops.filter (fun o => !ix o)).findSome? (fun o => w.regFault l o.1 o.2)

/-- The registers of a lane that a form names. -/
def Form.regsOf (f : Form) (w : Warp) (l : Nat) : List Nat :=
  f.ops.flatMap (fun o => match w.regOf o.2 l with
    | some r => (List.range o.1.regs).map (fun i => r + i)
    | none => [])

/-- The place among the busy registers that says that a pod-remote `ldv` will write a predicate of lane l (05 R120). -/
def predBusy (l : Nat) : Nat := 16384 + l

/-- A pod-remote `ldv` will write a predicate of one of some lanes. -/
def Warp.predsBusy (w : Warp) (m : Mask) : Bool := (lanesOf m).any (fun l => w.busy.contains (predBusy l))

/-- A 32-bit operand of a lane (07 R164). -/
def Env.rd32 (e : Env) (w : Warp) (o : Operand) (l : Nat) : Word :=
  match o with
  | .reg n => w.rd n.val l
  | .ix _ => match w.regOf o l with | some r => w.rd r l | none => 0
  | .q n => e.qv.getD (32 * n.val + l) 0
  | .zero => 0
  | .lit => e.lit.setWidth 32
  | .sq => e.sq

/-- A 64-bit operand of a lane. -/
def Env.rd64 (e : Env) (w : Warp) (o : Operand) (l : Nat) : DWord :=
  match o with
  | .reg n => w.rd64 n.val l
  | .ix _ => match w.regOf o l with | some r => w.rd64 r l | none => 0
  | .lit => e.lit
  | _ => 0

/-- An operand of any width as the words of its registers. -/
def Env.rdWords (e : Env) (w : Warp) (k : Nat) (o : Operand) (l : Nat) : List Word :=
  match o with
  | .reg n => (List.range k).map (fun i => w.rd (n.val + i) l)
  | .ix _ => match w.regOf o l with | some r => (List.range k).map (fun i => w.rd (r + i) l) | none => []
  | .lit => [half e.lit 0, half e.lit 1]
  | .q _ | .sq => [e.rd32 w o l]
  | .zero => List.replicate k 0

/-- A 32- or 64-bit operand as one value. -/
def Env.rdv (e : Env) (w : Warp) (k : OpW) (o : Operand) (l : Nat) : DWord :=
  match k with
  | .w32 => (e.rd32 w o l).setWidth 64
  | _ => e.rd64 w o l

/-! ## Wait classes (06 R141-R142) -/

/-- The operations of a class in issue order. -/
def Warp.opsOf (w : Warp) (cls : Nat) : List ClassOp := w.ops.filter (fun o => o.cls == cls)

/-- Operations of a class that its counter no longer counts. -/
def Warp.retired (w : Warp) (cls : Nat) : List ClassOp :=
  (w.opsOf cls).take ((w.opsOf cls).length - w.count cls)

/-- The oldest counted operation of a class completes when it is done: its counter falls. -/
def Warp.settleOne (w : Warp) (cls : Nat) : Warp :=
  match (w.opsOf cls)[(w.opsOf cls).length - w.count cls]? with
  | some o => if o.done && w.count cls != 0 then w.modCount cls (· - 1) else w
  | none => w

/-- Completed operations of a class that hold no fault are forgotten. -/
def Warp.forget (w : Warp) (cls : Nat) : Warp :=
  let gone := ((w.retired cls).filter (fun o => o.faults.isEmpty)).map ClassOp.id
  { w with ops := w.ops.filter (fun o => !(o.cls == cls && gone.contains o.id)) }

/-- Operations of a class complete in issue order (06 R141). -/
def Warp.settleClass (w : Warp) (cls : Nat) : Warp :=
  ((List.range (w.opsOf cls).length).foldl (fun w _ => w.settleOne cls) w).forget cls

/-- An operation is done, with the faults it met. -/
def Warp.doneOp (w : Warp) (cls id : Nat) (fs : List Charge) : Warp :=
  { w with ops := w.ops.map (fun (o : ClassOp) =>
      if o.cls = cls ∧ o.id = id then { o with done := true, faults := o.faults ++ fs } else o) }.settleClass cls

/-! ## Queues as operands (12 R276-R286) -/

/-- The binding of a queue. -/
def Warp.bind? (w : Warp) (q : Nat) : Option Bind := w.binds.find? q

/-- Return records waiting for a lane. -/
def Warp.retsOf (w : Warp) (q l : Nat) : List RetRec := w.rets.getD (32 * q + l) []

/-- Return records waiting in a queue, over all lanes. -/
def Warp.retCount (w : Warp) (q : Nat) : Nat :=
  allLanes.foldl (fun n l => n + (w.retsOf q l).length) 0

/-- Return slots of a queue reserved by calls that are not complete. -/
def Warp.retReserved (w : Warp) (q : Nat) : Nat :=
  (w.calls.filter (fun c => c.retq == some q)).length

/-- Free return slots of a queue (12 R280). -/
def Warp.retSpace (w : Warp) (q : Nat) : Nat := 64 - (w.retCount q + w.retReserved q)

/-- The header checks of R280 on a call's first two words: cause, or none. -/
def Warp.headerFault (w : Warp) (cls : Nat) (w0 w1 : Word) : Option Nat :=
  let len := bits w0.toNat 15 8
  if len < 2 ∨ 16 < len ∨ bits w1.toNat 15 4 ≠ 0 then some 0x16
  else if cls ≠ 8 ∧ !bit w1.toNat 3 ∧ (w.bind? (bits w1.toNat 2 0)).isNone then some 0x15
  else none

/-- Entries of a unit's input queue (12 R280). -/
def Core.unitQueue (k : Core) (cls : Nat) : List Nat := k.unitIn.getD cls []

/-- Answer of a call. -/
inductive Accept where
  | ok (p : Pkg)
  | wait
  | fault (cause : Nat)

/-- Accept a call of a lane through a queue (12 R280, R286): `op` numbers the class 3 operation. -/
def Pkg.acceptCall (p : Pkg) (i : Issuer) (op lane q : Nat) (words : List Word) : Accept :=
  match p.warp? i.core i.slot i.w with
  | none => .fault 0x15
  | some w =>
    match w.bind? q with
    | none => .fault 0x15
    | some b =>
      let w0 := words.getD 0 0
      let w1 := words.getD 1 0
      match w.headerFault b.cls w0 w1 with
      | some c => .fault c
      | none =>
        let id := p.nextId
        let retq : Option Nat := if b.cls = 8 ∨ bit w1.toNat 3 then none else some (bits w1.toNat 2 0)
        let ctx : Ctx := match p.block? i.core i.slot with | some bl => bl.ctx | none => ⟨0, 0, 0, 0, 0⟩
        let call : Call := ⟨i.slot, i.w, ctx, lane, q, b.cls, words, w.wver, false, 0, [], none, false⟩
        let enter (p : Pkg) : Pkg :=
          let p := { p with nextId := p.nextId + 1 }
          let p := p.modCore i.core (fun k => { k with
            calls := KMap.insert id call k.calls
            unitIn := KMap.insert b.cls (k.unitQueue b.cls ++ [id]) k.unitIn })
          p.modWarp i.core i.slot i.w (fun w => { w with calls := w.calls ++ [⟨id, op, lane, q, retq⟩] })
        if b.cls = 8 then
          if b.peer = 0x1F then .fault 0x15
          else
            match p.warp? i.core i.slot b.peer with
            | none => .fault 0x15
            | some pw =>
              match pw.bind? b.peerq with
              | none => .fault 0x15
              | some pb =>
                if pb.cls ≠ 8 ∨ (pb.peer ≠ i.w ∧ pb.peer ≠ 0x1F) then .fault 0x15
                else
                  let flying := (List.filter (fun e => e.2.cls == 8 && e.2.slot == i.slot &&
                    ((p.warp? i.core i.slot e.2.w).bind (fun x => x.bind? e.2.q)) == some b)
                    (p.core i.core).calls).length
                  if 64 ≤ pw.retCount b.peerq + flying then .wait else .ok (enter p)
        else
          let space := match retq with | none => true | some r => decide (0 < w.retSpace r)
          if ((p.core i.core).unitQueue b.cls).length < 64 && space then .ok (enter p) else .wait

/-- A new class 3 operation (12 R280): the counter rises. -/
def Warp.countCall (w : Warp) (op : Nat) : Warp :=
  { w.modCount 3 (· + 1) with ops := w.ops ++ [⟨3, op, false, []⟩] }

/-- Push a word on the send buffer of a queue (12 R282). -/
def Pkg.pushQ (p : Pkg) (i : Issuer) (op lane q : Nat) (v : Word) : Accept :=
  match p.warp? i.core i.slot i.w with
  | none => .fault 0x15
  | some w =>
    match w.bind? q with
    | none => .fault 0x15
    | some b =>
      let key := 32 * q + lane
      let ws := w.sbuf.getD key [] ++ [v]
      let drop (p : Pkg) : Pkg :=
        p.modWarp i.core i.slot i.w (fun w => { w with sbuf := KMap.erase key w.sbuf })
      let keep (p : Pkg) : Pkg :=
        p.modWarp i.core i.slot i.w (fun w => { w with sbuf := KMap.insert key ws w.sbuf })
      let bad := if ws.length = 2 then w.headerFault b.cls (ws.getD 0 0) v else none
      match bad with
      | some c => .fault c
      | none =>
        if 2 ≤ ws.length ∧ ws.length = bits (ws.getD 0 0).toNat 15 8 then
          match p.acceptCall i op lane q ws with
          | .ok p => .ok (drop p)
          | .wait => .wait
          | .fault c => .fault c
        else .ok (keep p)

/-- Empty a lane's send buffer, after a failing header (12 R282). -/
def Pkg.dropSend (p : Pkg) (i : Issuer) (lane q : Nat) : Pkg :=
  p.modWarp i.core i.slot i.w (fun w => { w with sbuf := KMap.erase (32 * q + lane) w.sbuf })

/-- Take the fault of a call, if it has one that no wait has charged (12 R285). -/
def Warp.takeCall (w : Warp) (call : Nat) : Option Charge × Warp :=
  ((w.callFaults.find? (fun f => f.call == call)).map CallFault.charge,
    { w with callFaults := w.callFaults.filter (fun f => f.call != call) })

/-- Pop the next word of a lane's oldest return record (12 R282): the word, the warp after, and the fault that
the record carried when it was popped whole (12 R285). -/
def Warp.popQ (w : Warp) (q l : Nat) : Option (Word × Warp × Option Charge) :=
  match w.retsOf q l with
  | [] => none
  | r :: t =>
    let v := r.words.getD r.read 0
    let len := bits (r.words.getD 0 0).toNat 15 8
    if r.read + 1 < len then
      some (v, { w with rets := KMap.insert (32 * q + l) ({ r with read := r.read + 1 } :: t) w.rets }, none)
    else
      let x := w.takeCall r.call
      some (v, { x.2 with rets := w.rets.setD (32 * q + l) t [] }, x.1)

/-! ## Writing operands -/

/-- Count a sent operation in class 3 (12 R280): the counter falls at once where its calls have completed. -/
def Warp.countSend (w : Warp) (op : Nat) : Warp :=
  let w := w.countCall op
  if w.calls.any (fun c => c.op == op) then w else w.doneOp 3 op []

/-- A word completes the record that a lane writes to a queue (12 R282). -/
def Warp.fills (w : Warp) (q l : Nat) (v : Word) : Bool :=
  let ws := w.sbuf.getD (32 * q + l) [] ++ [v]
  decide (2 ≤ ws.length) && ws.length == bits (ws.getD 0 0).toNat 15 8

/-- The counter of class 3 is full (06 R141). -/
def Warp.sendsFull (w : Warp) : Bool := decide (63 ≤ w.count 3)

/-- Words of lanes as a wait keeps them. -/
def packWords (ws : List (Nat × Word)) : List DWord := ws.flatMap (fun x => [BitVec.ofNat 64 x.1, x.2.setWidth 64])

/-- Words of lanes that a wait kept. -/
def unpackWords : List DWord → List (Nat × Word)
  | l :: v :: t => (l.toNat, v.setWidth 32) :: unpackWords t
  | _ => []

/-- A floating-point trap that waits until its results are written (03 R72): the lanes, and AUX above them. -/
def packTraps (fs : List LFault) : DWord :=
  (maskOfList (fs.map LFault.lane)).setWidth 64 ||| (((fs.head?.map LFault.aux).getD 0).setWidth 64 <<< 32)

/-- The faults of that trap, in lanes that have none of the write itself. -/
def unpackTraps (x : DWord) (fs : List LFault) : List LFault :=
  ((lanesOf (x.setWidth 32)).filter (fun l => fs.all (fun f => f.lane != l))).map (fun l =>
    LFault.of l 0x28 0 ((x >>> 32).setWidth 16))

/-- Lanes write their words to a queue in ascending order (12 R280, R282): a lane whose header fails faults, one that
finds no room makes the instruction wait there with the lower lanes done. An instruction that completed a record, `did`,
counts once in class 3, and waits while that is full. The floating-point traps `tr` are taken once all is written (03 R72). -/
def Env.pushOn (e : Env) (op q : Nat) (tr : DWord) : Bool → Pkg → List LFault → List (Nat × Word) → Res
  | did, p, fs, [] =>
    if did then
      if (e.warp p).any Warp.sendsFull then ⟨p, fs, .block ⟨.push q, 1, false, [BitVec.ofNat 64 op, tr], none⟩⟩
      else ⟨e.modWarp p (fun w => w.countSend op), fs ++ unpackTraps tr fs, .seq⟩
    else ⟨p, fs ++ unpackTraps tr fs, .seq⟩
  | did, p, fs, (l, v) :: t =>
    match p.pushQ e.is op l q v with
    | .ok p' => e.pushOn op q tr (did || (e.warp p).any (fun w => w.fills q l v)) p' fs t
    | .fault c => e.pushOn op q (tr &&& ~~~(laneBit l).setWidth 64) did (p.dropSend e.is l q) (fs ++ [LFault.of l c]) t
    | .wait => ⟨p, fs, .block ⟨.push q, if did then 1 else 0, false, BitVec.ofNat 64 op :: tr :: packWords ((l, v) :: t), none⟩⟩

/-- The instruction waits with nothing done, for room in class 3. -/
def Res.undone (r : Res) : Bool :=
  match r.next with
  | .block x => x.kind == .count 3
  | _ => false

/-- Faults beside those of the writes, unless nothing was done. -/
def Res.andFaults (r : Res) (fs : List LFault) : Res := if r.undone then r else { r with faults := fs ++ r.faults }

/-- An instruction goes on to write the words that its wait kept. -/
def Env.pushRest (e : Env) (p : Pkg) (q : Nat) (x : Wait) : Res :=
  match x.data with
  | op :: tr :: ws => e.pushOn op.toNat q tr (x.done != 0) p [] (unpackWords ws)
  | _ => Res.ok p

/-- Write a lane's words to a register. -/
def Env.writeLane (e : Env) (p : Pkg) (o : Operand) (v : Nat × List Word) : Pkg :=
  e.modWarp p (fun w => match w.regOf o v.1 with | some r => w.wrList r v.1 v.2 | none => w)

/-- Write each lane's words to d; a queue takes the first word of each (12 R282), and an instruction that would complete a
record while class 3 is full has done nothing yet (06 R141). Lanes that raise a floating-point trap, `tr`, take it when their
words are written (03 R72). -/
def Env.writeAll (e : Env) (p : Pkg) (o : Operand) (vals : List (Nat × List Word)) (tr : List LFault := []) : Res :=
  match o with
  | .q n =>
    let ws := vals.map (fun v => (v.1, v.2.getD 0 0))
    if (e.warp p).any (fun w => w.sendsFull && ws.any (fun x => w.fills n.val x.1 x.2)) then Res.wait e.orig (.count 3)
    else e.pushOn p.nextId n.val (packTraps tr) false { p with nextId := p.nextId + 1 } [] ws
  | .reg _ | .ix _ => ⟨vals.foldl (fun p v => e.writeLane p o v) p, tr, .seq⟩
  | _ => ⟨p, tr, .seq⟩

/-! ## Regions: tags and checkpoints (10 R249-R252) -/

/-- The tags whose registers an operand of k registers from r meets. -/
def Region.tagsOn (g : Region) (r k : Nat) : List ArTag :=
  (List.filter (fun e => decide (e.1 < r + k ∧ r < e.1 + (if e.2.wide then 2 else 1))) g.tags).map Prod.snd

/-- The tag of exactly an operand of k registers from r. -/
def Region.tagAt (g : Region) (r k : Nat) : Option ArTag :=
  match g.tags.find? r with
  | some t => if (t.wide && k == 2) || (!t.wide && k == 1) then some t else none
  | none => none

/-- Record a constraint; the seventeenth aborts with reason CAP_CONSTRAINTS (10 R252). -/
def Region.addCon (g : Region) (c : ArCon) : Except (Nat × Nat) Region :=
  if g.cons.length < 16 then .ok { g with cons := g.cons ++ [c] } else .error (0x04, 16)

/-- Record the equality constraint of a symbol, once (10 R251). -/
def Region.concretize (g : Region) (sym : Nat) : Except (Nat × Nat) Region :=
  match g.loads[sym]? with
  | none => .ok g
  | some ld =>
    if ld.eq then .ok g
    else
      ({ g with loads := g.loads.set sym { ld with eq := true } }).addCon
        ⟨⟨sym, 0, 0, true⟩, .eq, .nat, true, ld.value, true⟩

/-- Concretize every tag of a list. -/
def Region.concretizeAll (g : Region) : List ArTag → Except (Nat × Nat) Region
  | [] => .ok g
  | t :: ts =>
    match g.concretize t.sym with
    | .ok g => g.concretizeAll ts
    | .error x => .error x

/-- Keep the checkpoint of registers before they are written; the seventeenth distinct register aborts with
reason CAP_REGS (10 R252). Their tags end. -/
def Region.willWrite (g : Region) (w : Warp) (l : Nat) : List Nat → Except (Nat × Nat) Region
  | [] => .ok g
  | r :: rs =>
    let g := { g with tags := List.filter (fun e => !(e.1 == r || (e.2.wide && e.1 + 1 == r))) g.tags }
    if g.written.contains r then g.willWrite w l rs
    else if g.written.length < 16 then
      { g with written := g.written ++ [r], saved := KMap.insert r (w.rd r l) g.saved }.willWrite w l rs
    else .error (0x05, 16)

/-- Prepare a lane's region for an instruction: tags read are concretized or carried, and the registers to be
written are checkpointed. The error is an abort reason with its index. -/
def Form.regionPrep (f : Form) (e : Env) (w : Warp) (l : Nat) (g : Region) : Except (Nat × Nat) Region :=
  let direct (o : Operand) : Option Nat := match o with | .reg n => some n.val | _ => none
  let reads := f.ops.filter (fun o => o.1.reads)
  let tagged := reads.flatMap (fun o => match direct o.2 with | some r => g.tagsOn r o.1.regs | none => [])
  let carried : Option ArTag := match f.tag with
    | .carry rule =>
      if tagged = [] || !reads.all (fun o => match direct o.2 with
          | some r => (g.tagsOn r o.1.regs).isEmpty || (g.tagAt r o.1.regs).isSome
          | none => true) then none
      else rule (reads.map (fun o => (direct o.2).bind (fun r => g.tagAt r o.1.regs)))
        (reads.map (fun o => if o.1.regs = 2 then e.rd64 w o.2 l else (e.rd32 w o.2 l).setWidth 64))
    | _ => none
  let g1 : Except (Nat × Nat) Region := match f.tag, carried with
    | .own, _ => if f.ops.any (fun o => o.1.writes o.2) then g.concretizeAll tagged else .ok g
    | _, some _ => .ok g
    | _, none => g.concretizeAll tagged
  match g1 with
  | .error x => .error x
  | .ok g =>
    let outs := f.ops.flatMap (fun o =>
      if o.1.writes o.2 then (match direct o.2 with
        | some r => (List.range o.1.regs).map (fun i => r + i)
        | none => []) else [])
    match g.willWrite w l outs with
    | .error x => .error x
    | .ok g =>
      match carried, outs with
      | some t, r :: _ => .ok { g with tags := KMap.insert r t g.tags }
      | _, _ => .ok g

/-- Place entries for groups of lanes one after another: the warp after, and the lanes without a place. -/
def Warp.placeAll (w : Warp) : List DEntry → Warp × Mask
  | [] => (w, 0)
  | e :: t =>
    match w.placeSplit e with
    | some w => w.placeAll t
    | none => (w, t.foldl (fun m x => m ||| x.mask) e.mask)

/-- Groups of lanes of entry `sp` go on at addresses of their own (10 R254): the first group stays in the entry, the other groups
and then the lanes that go on at `cont` get entries of their own. Where none finds a place, every lane faults with cause 0x13
at `pc`; where a later one finds none, its lanes do. -/
def Warp.sendGroups (w : Warp) (sp : Nat) (gs : List (DWord × Mask)) (cont pc skip : DWord) : Warp :=
  let s := w.split sp
  let rest := Mask.minus s.mask (gs.foldl (fun m g => m ||| g.2) 0)
  match gs with
  | [] => w
  | g :: gs =>
    let others := (gs ++ (if rest = 0 then [] else [(cont, rest)])).map (fun o =>
      (⟨o.2, o.1, s.reconv, s.outer, s.cstack, false, none, none, false⟩ : DEntry))
    let out := (w.modSplit sp (fun s => { s.goTo g.1 with mask := g.2 })).placeAll others
    let lost := if out.2 != 0 && out.2 == Mask.minus s.mask g.2 then s.mask else out.2
    if lost = 0 then out.1
    else out.1.modSplit sp (fun t => { t with
      mask := Mask.minus t.mask lost, pend := joinPend t.pend (some ⟨0x13, pc, skip, 0, lost, 0, false⟩) })

/-- Abort the regions of some lanes of entry `sp` (10 R254): the group of the lowest aborted lane stays in the
entry at its abort PC, the other groups and then the lanes that go on at `cont` get entries of their own (log 92, DESIGN
CHOICE). -/
def Warp.abortLanes (w : Warp) (sp : Nat) (aborts : List (Nat × Word)) (cont pc skip : DWord) : Warp :=
  let gs := w.abortGroups (maskOfList (aborts.map Prod.fst))
  let w := aborts.foldl (fun w a =>
    match w.regions.find? a.1 with
    | some r => w.closeRegion a.1 r a.2
    | none => w) w
  w.sendGroups sp gs cont pc skip

/-- Fault lanes wherever their entries stand: each entry takes a pending record (23 R416). -/
def Warp.charge (w : Warp) (m : Mask) (rec' : Mask → DWord → Pend) : Warp :=
  if m = 0 then w
  else { w with
    splits := w.splits.map (fun s =>
      if s.mask &&& m = 0 then s else s.fault (s.mask &&& m) (rec' (s.mask &&& m) s.pc))
    dstack := w.dstack.map (fun s =>
      if s.mask &&& m = 0 then s else s.fault (s.mask &&& m) (rec' (s.mask &&& m) s.pc)) }

/-! ## Ending an instruction -/

/-- Group lane faults into one record (23 R418, 24 R434): the lowest lane's cause, the lanes that share it,
and LOST when another cause arose. -/
def pendOf (fs : List LFault) (pc skip : DWord) : Option Pend :=
  match fs with
  | [] => none
  | f :: _ =>
    some ⟨f.cause, pc, skip, f.addr, maskOfList ((fs.filter (fun x => x.cause == f.cause)).map LFault.lane),
      f.aux, fs.any (fun x => x.cause != f.cause)⟩

/-- Count accesses that ended with cause 0x09 or 0x0A in the die's memory error block (25 R448). -/
def Pkg.countTf (p : Pkg) (d asid : Nat) (fs : List LFault) : Pkg :=
  match (fs.filter (fun f => f.cause == 0x09 || f.cause == 0x0A)).getLast? with
  | none => p
  | some f =>
    let n := (fs.filter (fun f => f.cause == 0x09 || f.cause == 0x0A)).length
    p.modDie d (fun k => { k with merr := { k.merr with
      tfaults := k.merr.tfaults + BitVec.ofNat 32 n, tfVa := f.addr, tfCause := f.cause, tfAsid := asid } })

/-- The context of the executing block. -/
def Env.ctx (e : Env) (p : Pkg) : Ctx :=
  match e.block p with | some b => b.ctx | none => ⟨0, 0, 0, 0, 0⟩

/-- The split lets every other READY split of its quadrant have an issue opportunity first (07 R161). -/
def Split.yield (s : Split) : Split := { s with yielded := true, seen := [] }

/-- The port of a warp: its quadrant, or 4 for the armature (17 R384). -/
def portOf (key slot : Nat) : Nat := if key = armNo then 4 else slot % 4

/-- The block's queue is saving it (13 R326). -/
def Pkg.saving (p : Pkg) (bl : Block) : Bool :=
  match p.launch? bl.launch with
  | some l => (p.queue l.q).st == .preempting || (p.queue l.q).st == .resetting
  | none => false

/-- A READY split of a port: block slot, warp, entry and what they hold. -/
structure Ready where
  slot : Nat
  w : Nat
  sp : Nat
  warp : Warp
  split : Split

/-- The READY splits of a port that a halt, a save or the hold does not keep. -/
def Pkg.readyOn (p : Pkg) (c port : Nat) : List Ready :=
  if p.hold then []
  else (p.core c).blocks.flatMap (fun b =>
    if p.saving b.2 then []
    else (List.filter (fun w => portOf w.1 w.2.slot == port && w.2.halt == .running) b.2.warps).flatMap (fun w =>
      w.2.splits.zipIdx.filterMap (fun s =>
        if s.1.st == .ready && s.1.mask != 0 then some ⟨b.1, w.1, s.2, w.2, s.1⟩ else none)))

/-- Change a split of the package. -/
def Pkg.modSplitAt (p : Pkg) (c b w sp : Nat) (f : Split → Split) : Pkg := p.modWarp c b w (fun x => x.modSplit sp f)

/-- The operands of a READY split are ready. -/
def Pkg.couldIssue (p : Pkg) (c : Nat) (x : Ready) : Bool :=
  x.warp.busy.isEmpty && Config.operandsReady p.tick ⟨c, x.slot, x.w, x.sp⟩

/-- The issue of a step passes over the others of its port whose operands are ready (02 R57); the count of the rest begins
anew. -/
def Pkg.passOver (p : Pkg) : Pkg :=
  match p.passing with
  | none => p
  | some i =>
    let p := { p with passing := none }
    match p.warp? i.core i.slot i.w with
    | none => p
    | some w =>
      let q := p
      ((p.readyOn i.core (portOf i.w w.slot)).filter (fun x => !(x.slot == i.slot && x.w == i.w && x.sp == i.sp))).foldl
        (fun p x => p.modSplitAt i.core x.slot x.w x.sp (fun s =>
          { s with passed := if q.couldIssue i.core x then s.passed + 1 else 0 })) p

/-! ## Slots of a port (17 R382-R384) -/

/-- Add to a counter of a port; leaf 12 is what the others leave of TOTAL. -/
def Core.bump (k : Core) (port leaf : Nat) (n : DWord) : Core :=
  if leaf = 12 then k
  else { k with ctrs := KMap.insert (port * 16 + leaf) (k.ctrs.getD (port * 16 + leaf) 0 + n) k.ctrs }

/-- A core with the slot counters of another, and all else its own. -/
def Core.withSlots (k x : Core) : Core := { k with ctrs := x.ctrs, ahead := x.ahead, spare := x.spare }

/-- n cycles of a port go to a leaf, but for those that issues took ahead. -/
def Core.slots (k : Core) (port leaf n : Nat) : Core :=
  k.withSlots (if k.frozen.isSome ∨ n = 0 then k
  else
    let a := k.ahead.getD port 0
    let k := k.bump port leaf (BitVec.ofNat 64 (n - a))
    { k with ahead := k.ahead.setD port (a - n) 0, spare := KMap.insert port (leaf, n - a) k.spare })

/-- An issue takes the latest slot of its port, or the next one. -/
def Core.takeSlot (k : Core) (port leaf : Nat) : Core :=
  k.withSlots (if k.frozen.isSome then k
  else
    let k := k.bump port leaf 1
    match k.spare.find? port with
    | some (l, n + 1) => { k.bump port l (-1) with spare := KMap.insert port (l, n) k.spare }
    | _ => { k with ahead := KMap.insert port (k.ahead.getD port 0 + 1) k.ahead })

/-- What was offered did not issue after all: its slot is given back. -/
def Core.giveSlot (k : Core) (port leaf : Nat) : Core :=
  k.withSlots (if k.frozen.isSome then k
  else
    let k := k.bump port leaf (-1)
    match k.ahead.getD port 0, k.spare.find? port with
    | n + 1, _ => { k with ahead := k.ahead.setD port n 0 }
    | 0, some (l, m) => { k.bump port l 1 with spare := KMap.insert port (l, m + 1) k.spare }
    | 0, none => k)

/-- Apply the hints of the run (07 R161). -/
def Warp.applyHint (w : Warp) (sp : Nat) (h : Option PfxHint) : Warp :=
  match h with
  | none => w
  | some h =>
    let w := if h.prv then { w with pri := h.pri } else w
    if h.yld then w.modSplit sp Split.yield else w

/-- A word of fused code is the second of a pair of moves, which a single step takes with the first (14 R343). -/
def Pkg.secondMove (p : Pkg) (bl : Block) (w : Nat) (pc : DWord) : Bool :=
  ((p.fused bl w).bind (fun x => fusedAt x pc)).any (fun f => f.kind == .second)

/-- The executing entry goes on at an address: the prefix run is consumed and the wait over. A split that
single-steps stops there (17 R394), but not between two moves that count as one. -/
def Split.advance (s : Split) (pc : DWord) (mid : Bool := false) : Split :=
  let stops := s.stepping && !mid
  { s with pc := pc, pfx := Pfx.none, held := none, wait := none, noBreak := false, stepping := s.stepping && mid
           prior := if stops then .ready else s.prior
           st := if stops then .stopped else if s.st == .blocked ∨ s.st == .parked then .ready else s.st }

/-- Take the trap of the executing entry when R417 says so: the armature at once, a split whose lanes all
faulted, a second fault, or a wait with a record pending. -/
def Pkg.trapIf (p : Pkg) (i : Issuer) : Pkg :=
  match p.warp? i.core i.slot i.w with
  | none => p
  | some w =>
    let s := w.split i.sp
    match s.pend with
    | none => p
    | some r =>
      if i.w = armNo ∨ s.mask = 0 ∨ r.lost ∨ s.st = .blocked ∨ s.st = .parked then
        p.takeTrap i.core i.slot i.w i.sp
      else p

/-- The block issued an instruction, and when its split last did (26 R478, 17 R388). A split that only waits on
keeps its time. -/
def Env.issued (e : Env) (p : Pkg) : Pkg :=
  let i := e.is
  match e.resume with
  | none =>
    (p.modBlock i.core i.slot (fun b =>
      { b with lastIssue := p.ptime, stuck := none
               warps := b.warps.modify i.w
                 (fun w => w.modSplit i.sp (fun s => { s with since := p.ptime, passed := 0 })) })).noteIssue i
  | some _ =>
    e.modWarp p (fun w => w.modSplit i.sp (fun s =>
      if s.st = .blocked ∨ s.st = .stopped then s else { s with since := p.ptime, passed := 0 }))

/-- A split that single-stepped and has stopped (17 R394): its regions abort with reason HALT before the stop is recorded
(10 R254), and every lane that it stopped with stays stopped; the warp's record shows cause 0x22, unless it still holds a
trap's, which is then marked LOST. -/
def Pkg.stepOver (p old : Pkg) (i : Issuer) : Pkg :=
  match old.warp? i.core i.slot i.w, p.warp? i.core i.slot i.w, p.block? i.core i.slot with
  | some was, some now, some bl =>
    let s := now.split i.sp
    if !((was.split i.sp).stepping && s.st == .stopped && !s.stepping) then p
    else
      let w := (now.abortMask s.mask (arStatus 0 0 false false 0x0E)).stopLanes s.mask
      let s := w.split i.sp
      let f : FRec := { FRec.zero with
        cause := 0x22, split := i.sp, warp := recWarp i.w, lanes := s.mask, pc := (p.origPc bl i.w s.pc).1
        consumer := (p.origPc bl i.w s.pc).2, stops := w.splits.map (Split.stopPc (p.origPc bl i.w)) }
      let rec' := if w.halt == .stopped && w.frec.resume.isSome then { w.frec with lost := true } else f
      let p := p.modWarp i.core i.slot i.w (fun _ => { w with frec := rec' })
      let p := p.emit i.core i.slot 2 0x04 i.sp (recWarp i.w) s.mask 0x22 f.pc
      p.emit i.core i.slot 2 0x05 i.sp (recWarp i.w) s.mask 0 f.pc
  | _, _, _ => p

/-- The executing split single-steps (17 R394). -/
def Env.stepping (e : Env) : Bool := (e.warp e.orig).any (fun w => (w.split e.is.sp).stepping)

/-- What the instruction leaves (23 R416, 24 R434-R435, 10 R254): the entry goes on, waits or parks; lanes
in a region that faulted abort; other faulting lanes are masked off; a trap is taken when it is due. -/
def Env.finish (e : Env) (hint : Option PfxHint) (r : Res) : Pkg :=
  let i := e.is
  match r.next with
  | .stall => r.pkg
  | nxt =>
    let mid (pc : DWord) : Bool := match e.block r.pkg with | some bl => r.pkg.secondMove bl i.w pc | none => false
    let p := e.modWarp r.pkg (fun w =>
      let w := w.applyHint i.sp hint
      w.modSplit i.sp (fun s => match nxt with
        | .seq => s.advance e.npc (mid e.npc)
        | .jump t => s.advance t false
        | .block x => { s with st := .blocked, wait := some x }
        | .park x => { s with st := .parked, wait := some x }
        | _ => s))
    let p := e.issued p
    match r.faults with
    | [] => match nxt with
      | .block _ | .park _ => (p.stepOver e.orig i).trapIf i
      | _ => p.stepOver e.orig i
    | fs =>
      let p := p.countTf (dieOfCore i.core) (e.ctx p).asid fs
      let p := (fs.filter (fun f => f.cause == 0x09 || f.cause == 0x1C)).foldl (fun p f =>
        p.shareWalk (dieOfCore i.core) (e.ctx p) f.addr.toNat) p
      let inRegion (l : Nat) : Bool := match e.warp r.pkg with
        | some w => (w.regions.find? l).isSome
        | none => false
      let ab := fs.filter (fun f => inRegion f.lane)
      let real := fs.filter (fun f => !inRegion f.lane)
      let p := match pendOf real e.pc e.npc with
        | none => p
        | some pd => e.modWarp p (fun w => w.modSplit i.sp (fun s =>
            { s with mask := Mask.minus s.mask (maskOfList (real.map LFault.lane))
                     pend := joinPend s.pend (some pd) }))
      let status (f : LFault) : Word := match f.abort with
        | some v => v
        | none => if f.cause = 0x21 then arStatus 0 0 false false 0x0E else arStatus f.cause 0 false false 0x09
      let watch := maskOfList ((ab.filter (fun f => f.abort.isNone && f.cause == 0x21)).map LFault.lane)
      let p := if ab = [] then p
        else e.modWarp p (fun w => ((w.abortLanes i.sp (ab.map (fun f => (f.lane, status f))) e.npc e.pc e.npc).charge watch
          (fun m pc => ⟨0x21, pc, pc, 0, m, 0, false⟩)).stopLanes (if e.stepping then e.exec else 0))
      (p.stepOver e.orig i).trapIf i

/-- Lanes abort their regions before the instruction is performed; the others of the split perform it anew (10 R254). A
step ends with the abort, for every lane of the split (17 R394). -/
def Env.abortHere (e : Env) (p : Pkg) (ab : List (Nat × Word)) : Pkg :=
  let p := e.modWarp p (fun w => (w.abortLanes e.is.sp ab e.pc e.pc e.npc).stopLanes (if e.stepping then e.exec else 0))
  ((e.issued p).stepOver e.orig e.is).trapIf e.is

/-- A decode fault, steps 1 to 5 of R433, on every lane of `exec`: regions close with reason FAULT and their
checkpoint comes back (10 R254), and the trap is taken at once; a failed fetch is counted (25 R448). `more` counts words of the run behind the one at hand. -/
def Pkg.decodeTrap (p : Pkg) (i : Issuer) (cause : Nat) (addr : DWord := 0) (more : Nat := 0) : Pkg :=
  let p := match p.block? i.core i.slot with
    | some b => p.countTf (dieOfCore i.core) b.ctx.asid [LFault.of 0 cause addr]
    | none => p
  let p := p.modWarp i.core i.slot i.w (fun w =>
    let s := w.split i.sp
    let skip := s.pc + BitVec.ofNat 64 (4 * (s.pfx.words + more + 1))
    let w := w.closeRegions s.mask (arStatus cause 0 false false 0x09)
    w.modSplit i.sp (fun s =>
      { s with mask := 0, pfx := Pfx.none, held := none, wait := none
               pend := joinPend s.pend (some ⟨cause, s.pc, skip, addr, s.mask, 0, false⟩) }))
  p.takeTrap i.core i.slot i.w i.sp

/-! ## Performing an instruction -/

/-- The lanes a guard admits (07 R154). -/
def Warp.guardMask (w : Warp) : Guard → Mask
  | .always => 0xFFFFFFFF
  | .p n => w.preds.get n

/-- What reading `sq` meets (02 R37-R38, 23 R427). -/
inductive SqRead where
  | value (v : Word) (p : Pkg)
  | wait
  | fault (cause : Nat)

/-- Retire the entries of a feed queue that every warp that has not exited has read (02 R37). -/
def Block.retireFeed (b : Block) : Block :=
  let curs := b.warps.filterMap (fun e => if e.1 = armNo ∨ e.2.live = 0 then none else some e.2.feedCur)
  let low := curs.foldl min (b.feedBase + b.feed.length)
  { b with feed := b.feed.drop (low - b.feedBase), feedBase := max low b.feedBase }

/-- Read the feed queue for a warp. -/
def Env.readSq (e : Env) (p : Pkg) : SqRead :=
  match e.block p, e.warp p with
  | some b, some w =>
    if (b.warps.find? armNo).isNone then .fault 0x1A
    else
      match b.feed[w.feedCur - b.feedBase]? with
      | some v =>
        let p := e.modWarp p (fun w => { w with feedCur := w.feedCur + 1 })
        .value v (p.modBlock e.is.core e.is.slot Block.retireFeed)
      | none => if b.armEnded then .fault 0x1A else .wait
  | _, _ => .fault 0x1A

/-- The queues a form reads. -/
def Form.readQueues (f : Form) : List Nat :=
  (f.ops.filterMap (fun o => match o.2 with
    | .q n => if o.1.reads then some n.val else none
    | _ => none)).dedup

/-- The queues a form names at all. -/
def Form.queues (f : Form) : List Nat :=
  (f.ops.filterMap (fun o => match o.2 with | .q n => some n.val | _ => none)).dedup

/-- Pop one word per lane from each queue a form reads: the words, the warp after and the faults that the
records carried; none when a lane has no record. -/
def Warp.popAll (w : Warp) (qs ls : List Nat) : Option (KMap Word × Warp × List LFault) :=
  (qs.flatMap (fun q => ls.map (fun l => (q, l)))).foldl (fun acc x =>
    match acc with
    | none => none
    | some (m, w, bad) =>
      match w.popQ x.1 x.2 with
      | none => none
      | some (v, w, b) => some (KMap.insert (32 * x.1 + x.2) v m, w, match b with
          | some c => bad ++ [LFault.of x.2 c.cause c.addr c.aux]
          | none => bad))
    (some ([], w, []))

/-- The warp is the handler warp of its block (23 R426). -/
def Env.inHandler (e : Env) (p : Pkg) : Bool :=
  match e.block p with
  | some b => (match b.mode with | .handler _ h => h == e.is.w | _ => false)
  | none => false

/-- Lanes that faulted in the instruction itself consume no queue word (24 R435): their records come back, as they were
before the read. That holds of a lane that takes 0x28 too, whose result alone R435 exempts (log 93, DESIGN CHOICE). -/
def Warp.unpop (w : Warp) (t : Took) (m : Mask) : Warp :=
  (List.filter (fun (e : Nat × RetRec) => m.getLsbD (e.1 % 32)) t.recs).foldl (fun (w : Warp) e =>
    let now := w.rets.getD e.1 []
    let rest := if now.head?.any (fun r => r.call == e.2.call) then now.drop 1 else now
    { w with rets := KMap.insert e.1 (e.2 :: rest) w.rets }) w

/-- What an instruction leaves that read `t`: lanes that fault get their records back, and a wait keeps what was read. -/
def Env.read (e : Env) (r : Res) (t : Took) : Res :=
  { r with pkg := e.modWarp r.pkg (fun x => x.unpop t (maskOfList (r.faults.map LFault.lane))) }.keep (some t)

/-- The form's meaning for the lanes whose operands are at hand: `sq` and queue words are read once, for the first time
(02 R37, 12 R282), or were read before the wait that it resumes. An `sq` that fails faults every lane of `exec` (02 R38,
24 R442). A popped record's fault faults its lane (12 R285). -/
def Pkg.performRead (p : Pkg) (f : Form) (body : Env → Pkg → Res) (e : Env) : Res :=
  match e.resume.bind Wait.took with
  | some t => e.read (body { e with sq := t.sq, qv := t.words } p) t
  | none =>
    let qs := f.readQueues
    if !f.namesSq && qs.isEmpty then body e p
    else
      match (if f.namesSq then e.readSq p else .value 0 p) with
      | .fault c => Res.fail p (Mask.minus e.exec (Mask.minus e.on e.act)) c
      | .wait => Res.wait p .feed
      | .value v p1 =>
        match e.warp p1 with
        | none => Res.ok p
        | some w =>
          match w.popAll qs e.lanes with
          | none => Res.wait p (.queue (qs.headD 0))
          | some (m, w', pf) =>
            let p2 := e.modWarp p1 (fun _ => w')
            let act := Mask.minus e.act (maskOfList (pf.map LFault.lane))
            let keys := qs.flatMap (fun q => e.lanes.map (fun l => 32 * q + l))
            let t : Took := ⟨v, m, keys.foldl (fun (k : KMap RetRec) i => match w.rets.getD i [] with
              | r :: _ => KMap.insert i r k
              | [] => k) []⟩
            let r := e.read (if act = 0 then Res.ok p2
              else body { e with sq := v, qv := m, act := act, resume := none, orig := p2 } p2) t
            { r with faults := r.faults ++ pf }

/-- Steps 7 on, for the lanes that the guard admits: register checks, `sq` and queue reads, then the form's
own meaning, and what it leaves. An instruction that waits to write the rest of its words to a queue only goes on. -/
def Pkg.performLanes (p : Pkg) (f : Form) (body : Env → Pkg → Res) (e : Env) (w : Warp)
    (hint : Option PfxHint) : Pkg :=
  let bad := e.lanes.filterMap (fun l => (f.laneFault w l).map (fun c => LFault.of l c))
  let e := { e with act := Mask.minus e.act (maskOfList (bad.map LFault.lane)) }
  if e.act = 0 then e.finish hint ⟨p, bad, .seq⟩
  else
    let add (r : Res) : Res := { r with faults := sortBy (fun a b => decide (a.lane ≤ b.lane)) (bad ++ r.faults) }
    if f.queues.any (fun q => (w.bind? q).isNone) then e.finish hint (add (Res.fail p e.act 0x15))
    else
      match e.resume with
      | some ⟨.push q, m, r, ws, t⟩ =>
        let x := e.pushRest p q ⟨.push q, m, r, ws, t⟩
        e.finish hint (add (match t with | some t => e.read x t | none => x))
      | _ => e.finish hint (add (p.performRead f body e))

/-- No other entry of the warp is READY (23 R417). -/
def Warp.onlyReady (w : Warp) (sp : Nat) : Bool := (w.others sp).all (fun s => s.st != .ready)

/-- An instruction of a split or armature: the checks of R433 in order, regions, and its meaning. One that would end the
only READY split of its warp first takes that split's pending trap (23 R417). -/
def Pkg.issue (p : Pkg) (i : Issuer) (f : Form) (body : Env → Pkg → Res) : Pkg :=
  match p.warp? i.core i.slot i.w with
  | none => p
  | some w =>
    let s := w.split i.sp
    let arm := i.w == armNo
    match f.decodeFault arm s.pfx with
    | some c => p.decodeTrap i c
    | none =>
      let act := s.mask &&& w.guardMask f.guard
      let npc := s.pc + BitVec.ofNat 64 (4 * (s.pfx.words + 1))
      let e : Env :=
        { is := i, arm := arm, exec := s.mask, on := act, act := act, pc := s.pc, npc := npc
          lit := s.pfx.lit.getD 0, off := s.pfx.off.getD 0, md := s.pfx.md, sq := 0, qv := [], resume := s.wait, orig := p }
      if s.pend.isSome && f.ends s.cstack.length && w.onlyReady i.sp then
        (e.modWarp p (fun w => w.modSplit i.sp (fun s => { s with pfx := Pfx.none, held := none, wait := none }))).takeTrap
          i.core i.slot i.w i.sp
      else if w.predsBusy s.mask || e.lanes.any (fun l => (f.regsOf w l).any (fun r => w.busy.contains (32 * r + l))) then
        (if s.st = .ready then p.modCore i.core (fun k => k.giveSlot (portOf i.w w.slot) 1) else p)
      else if act = 0 then e.finish s.pfx.hint ⟨p, [], .seq⟩
      else if e.inHandler p && (!f.handler || f.namesSq || f.namesQ) then
        e.finish s.pfx.hint (Res.fail p act 0x12)
      else if w.regions.isEmpty then p.performLanes f body e w s.pfx.hint
      else
        let mine := e.lanes.filterMap (fun l => (w.regions.find? l).map (fun g => (l, g)))
        let prep := mine.map (fun x =>
          if !f.region || f.namesIndirect then (x.1, Except.error (0x07, 0))
          else if (f.laneFault w x.1).isSome then (x.1, .ok x.2)
          else (x.1, f.regionPrep e w x.1 x.2))
        let ab := prep.filterMap (fun x => match x.2 with
          | .error (reason, ix) => some (x.1, arStatus 0 ix false false reason)
          | .ok _ => none)
        if ab ≠ [] then e.abortHere p ab
        else
          let p := e.modWarp p (fun w => prep.foldl (fun w x => match x.2 with
            | .ok g => { w with regions := KMap.insert x.1 g w.regions }
            | .error _ => w) w)
          match e.warp p with
          | some w => p.performLanes f body { e with orig := p } w s.pfx.hint
          | none => p

/-- Entries that a warp holds: split-table entries in use and the divergence stack. -/
def Warp.entries (w : Warp) : Nat := (w.splits.filter (fun s => s.st != .free)).length + w.dstack.length

/-- The DIVERGE record of an instruction that left its warp with more entries (17 R386-R388). -/
def Pkg.traceDiverge (p old : Pkg) (i : Issuer) : Pkg :=
  match old.warp? i.core i.slot i.w, p.warp? i.core i.slot i.w, p.block? i.core i.slot with
  | some a, some b, some bl =>
    if a.entries < b.entries then
      p.emit i.core i.slot 1 0x02 i.sp (recWarp i.w) (b.split i.sp).mask 0 (p.origPc bl i.w (a.split i.sp).pc).1
    else p
  | _, _, _ => p

/-- Run an instruction in the name of the current issuer. -/
def perform (f : Form) (body : Env → Pkg → Res) (s : State) : Host.Outcome State Fault Refusal :=
  match s.cur with
  | none => .fault .noIssuer
  | some i =>
    match s.pkg.warp? i.core i.slot i.w with
    | none => .fault .noIssuer
    | some w =>
      if (w.split i.sp).mask = 0 then .fault .noIssuer
      else .next { s with pkg := (s.pkg.issue i f body).traceDiverge s.pkg i }

/-- A form that writes d from each lane's own operands, without any other effect. -/
def laneForm (f : Form) (d : Operand) (val : Env → Warp → Nat → List Word) (s : State) :
    Host.Outcome State Fault Refusal :=
  perform f (fun e p =>
    match e.warp p with
    | none => Res.ok p
    | some w => e.writeAll p d (e.lanes.map (fun l => (l, val e w l)))) s

/-- The words of a result of a width. -/
def wordsOf (k : OpW) (v : DWord) : List Word :=
  match k with
  | .w32 => [half v 0]
  | _ => [half v 0, half v 1]

end Sys2Proof.Machine
end

