-- ==== Sys2Proof/Machine/Barrier.lean ====
section
/-!
DEFINITION. Numbered barriers, cluster barriers and arrival barriers (08_isa_integer_control.md R197-R204),
and the release of waiters.
-/

namespace Sys2Proof.Machine

/-! ## Releasing waiters -/

/-- A wait that a test picks is over: its split may issue again, and continues without repeating what it
already did (23 R421). -/
def Split.release (sel : WaitKind → Bool) (s : Split) : Split :=
  match s.wait with
  | none => s
  | some x =>
    if sel x.kind && s.st != .parked then
      { s with wait := some { x with released := true }
               st := if s.st == .blocked then .ready else s.st
               prior := if s.st == .stopped && s.prior == .blocked then .ready else s.prior }
    else s

/-- Release the waits of a warp that a test picks. -/
def Warp.release (sel : WaitKind → Bool) (w : Warp) : Warp :=
  { w with splits := w.splits.map (Split.release sel) }

/-- Release the waits of every warp of a block that a test picks. -/
def Block.release (sel : WaitKind → Bool) (b : Block) : Block :=
  { b with warps := (b.warps.map (fun e => (e.1, e.2.release sel))) }

/-! ## Charges (12 R285, R292) -/

/-- The faults that a wait on a class takes once it goes on: those of its completed operations (12 R292, R296,
R305), oldest first, and the warp without them. -/
def Warp.takeCharges (w : Warp) (cls : Nat) : List Charge × Warp :=
  let ids := (w.retired cls).map ClassOp.id
  ((w.retired cls).flatMap ClassOp.faults,
    { w with ops := w.ops.filter (fun o => !(o.cls == cls && ids.contains o.id)) })

/-- The faults of calls that a wait on class 3 covers (12 R285): every call of its completed operations. -/
def Warp.takeCalls (w : Warp) (sel : CallFault → Bool) : List CallFault × Warp :=
  (w.callFaults.filter sel, { w with callFaults := w.callFaults.filter (fun f => !sel f) })

/-- The call belongs to an operation that class 3 no longer counts. -/
def Warp.callCovered (w : Warp) (f : CallFault) : Bool :=
  !((w.opsOf 3).drop ((w.opsOf 3).length - w.count 3)).any (fun o => o.id == f.op)

/-- Charge faults of an engine to the executing lanes: the first is the record, the others join it or set LOST
(12 R292). -/
def Env.charged (e : Env) (cs : List Charge) : List LFault :=
  (lanesOf e.act).flatMap (fun l => cs.map (fun c => LFault.of l c.cause c.addr c.aux))

/-- Charge faults of calls to their lanes (12 R285): a lane outside the executing ones faults where it stands,
at this instruction. -/
def Env.chargeCalls (e : Env) (p : Pkg) (fs : List CallFault) : Res :=
  let mine := fs.filter (fun f => e.act.getLsbD f.lane)
  let rest := fs.filter (fun f => !e.act.getLsbD f.lane)
  let p := rest.foldl (fun p f => e.modWarp p (fun w => w.charge (laneBit f.lane)
    (fun m _ => ⟨f.charge.cause, e.pc, e.npc, f.charge.addr, m, f.charge.aux, false⟩))) p
  ⟨p, sortBy (fun a b => decide (a.lane ≤ b.lane))
    (mine.map (fun f => LFault.of f.lane f.charge.cause f.charge.addr f.charge.aux)), .seq⟩

/-! ## Numbered barriers (08 R197-R199) -/

/-- The armature of a block takes part: the block has one that has not ended. -/
def Block.armLive (b : Block) : Bool := (b.warps.find? armNo).isSome && !b.armEnded

/-- The warps of a block, without the armature. -/
def Block.realWarps (b : Block) : KMap Warp := List.filter (fun e => e.1 != armNo) b.warps

/-- The participants that a `zero` count includes (08 R198): warps with a live lane, and a live armature. -/
def Block.participants (b : Block) : Nat :=
  (List.filter (fun e => e.2.live != 0) b.realWarps).length + (if b.armLive then 1 else 0)

/-- A warp has arrived: its mask covers every live lane (08 R197). A warp of which no lane arrived in the phase has not,
though it have no live lane (log 80, DESIGN CHOICE). -/
def arrivedMask (m live : Mask) : Bool := m != 0 && Mask.minus live m == 0

/-- Participants that have arrived in the current phase; under `zero` only those that still count. -/
def Block.arrivals (b : Block) (r : Bar) (zero : Bool) : Nat :=
  (List.filter (fun e => arrivedMask (r.arrived.getD e.1 0) e.2.live && (!zero || e.2.live != 0))
    b.realWarps).length
    + (if r.arrived.getD armNo 0 != 0 && (!zero || b.armLive) then 1 else 0)

/-- The phase is complete (08 R199). -/
def Block.barDone (b : Block) (r : Bar) : Bool :=
  match r.expect with
  | none => false
  | some none => decide (b.participants ≤ b.arrivals r true)
  | some (some n) => decide (n ≤ b.arrivals r false)

/-- A numbered barrier of a block. -/
def Block.bar (b : Block) (n : Nat) : Bar := b.bars.getD n Bar.zero

/-- Complete a barrier whose participants have arrived: the phase rises, masks clear, waiters go on. -/
def Block.completeBar (b : Block) (n : Nat) : Block :=
  let r := b.bar n
  if b.barDone r then
    { b with bars := KMap.insert n ⟨r.phase + 1, none, []⟩ b.bars }.release
      (fun k => match k with | .bar m ph => m == n && ph == r.phase | _ => false)
  else b

/-- Complete every barrier of a block that can, after an exit or an armature's end. -/
def Block.completeBars (b : Block) : Block := (List.range 16).foldl Block.completeBar b

/-- Fix or check the expected count of a phase (08 R198): none when the arrival faults. -/
def Bar.accept (r : Bar) (want : Option Nat) (hi : Nat) : Option Bar :=
  let ok := match want with | none => true | some n => decide (1 ≤ n ∧ n ≤ hi)
  if !ok then none
  else
    match r.expect with
    | none => some { r with expect := some want }
    | some e => if e = want then some r else none

/-- Arrivals of lanes at a barrier, each with the count it gives: the barrier after, and the lanes that
fault with cause 0x12. Lanes that give different counts arrive in ascending order, so that the lowest sets E (log 80,
DESIGN CHOICE). -/
def Bar.arrive (r : Bar) (key hi : Nat) (ls : List (Nat × Option Nat)) : Bar × List Nat :=
  ls.foldl (fun acc l =>
    let r := acc.1
    let m := r.arrived.getD key 0
    if m.getLsbD l.1 then (r, acc.2 ++ [l.1])
    else
      match r.accept l.2 hi with
      | none => (r, acc.2 ++ [l.1])
      | some r' => ({ r' with arrived := KMap.insert key (m ||| laneBit l.1) r'.arrived }, acc.2)) (r, [])

/-- The counts that the lanes of a barrier form give: operand code `zero`, or a number each. -/
def Env.counts (e : Env) (w : Warp) (a : Operand) : List (Nat × Option Nat) :=
  e.lanes.map (fun l => (l, match a with | .zero => none | _ => some (e.rd32 w a l).toNat))

/-- `bar.arrive`, `bar.wait` and `bar.sync`: an arrival releases, so it waits for the thread's pod-remote accesses first
(06 R135). -/
def barForm (arr wt : Bool) (g : Guard) (a : Operand) (n : Nat) (s : State) :
    Host.Outcome State Fault Refusal :=
  perform { Form.wa g [(.src .w32, a)] with handler := false } (fun e p =>
    match e.resume, e.block p, e.warp p with
    | some ⟨.bar m ph, d, r, ws, t⟩, b, _ =>
      if r || b.any (fun b => (b.bar m).phase != ph) then Res.ok p else ⟨p, [], .block ⟨.bar m ph, d, r, ws, t⟩⟩
    | _, some b, some w =>
      if arr && e.outstanding p true true then Res.wait e.orig .mem else
      let r := b.bar n
      let done : Bar × List Nat := if arr then r.arrive e.is.w 33 (e.counts w a) else (r, [])
      let p := if arr then p.modBlock e.is.core e.is.slot (fun b =>
          { b with bars := KMap.insert n done.1 b.bars }.completeBar n) else p
      let fs : List LFault := done.2.map (fun l => LFault.of l 0x12)
      let passed := match e.block p with | some b => (b.bar n).phase != r.phase | none => true
      if wt && !passed && fs.length < e.lanes.length then
        ⟨p, fs, .block (Wait.of (.bar n r.phase))⟩
      else ⟨p, fs, .seq⟩
    | _, _, _ => Res.ok p) s

/-- `bar.arrive` (08 R198-R199). -/
def execBarArrive (g : Guard) (a : Operand) (n : BitVec 4) (s : State) : Host.Outcome State Fault Refusal :=
  barForm true false g a n.toNat s

/-- `bar.wait` (08 R198-R199). -/
def execBarWait (g : Guard) (a : Operand) (n : BitVec 4) (s : State) : Host.Outcome State Fault Refusal :=
  barForm false true g a n.toNat s

/-- `bar.sync` (08 R198-R199). -/
def execBarSync (g : Guard) (a : Operand) (n : BitVec 4) (s : State) : Host.Outcome State Fault Refusal :=
  barForm true true g a n.toNat s

/-! ## Cluster barriers (08 R200) -/

/-- The resident blocks of the cluster of a block: core, slot and block. -/
def Pkg.clusterBlocks (p : Pkg) (c b : Nat) : List (Nat × Nat × Block) :=
  match p.block? c b with
  | none => []
  | some bl => (List.range bl.clusterSize).filterMap (fun k => p.peerBlock c b k)

/-- A block has arrived at a cluster barrier: every participant of it that still counts has. -/
def Block.clusterArrived (b : Block) (r : Bar) : Bool :=
  decide (0 < b.participants) &&
  b.realWarps.all (fun e => e.2.live == 0 || arrivedMask (r.arrived.getD (b.cpos * 64 + e.1) 0) e.2.live) &&
  (!b.armLive || r.arrived.getD (b.cpos * 64 + armNo) 0 != 0)

/-- A block that arrived and whose participants have ended counts toward an explicit count while it is resident; one that
retired counts no more (log 80, DESIGN CHOICE). -/
def Block.clusterGone (b : Block) (r : Bar) : Bool :=
  decide (b.participants = 0) && b.warps.any (fun e => r.arrived.getD (b.cpos * 64 + e.1) 0 != 0)

/-- Cluster barrier n of a launch's cluster. -/
def Launch.cbar (l : Launch) (cluster n : Nat) : Bar := l.cbars.getD (8 * cluster + n) Bar.zero

/-- Complete a cluster barrier whose blocks have arrived. -/
def Pkg.completeCbar (p : Pkg) (c b n : Nat) : Pkg :=
  match p.block? c b with
  | none => p
  | some bl =>
    match p.launch? bl.launch with
    | none => p
    | some ln =>
      let r := ln.cbar bl.cluster n
      let bs : List (Nat × Nat × Block) := p.clusterBlocks c b
      let live := bs.filter (fun x => decide (0 < x.2.2.participants))
      let come := (live.filter (fun x => x.2.2.clusterArrived r)).length
      let done : Bool := match r.expect with
        | none => false
        | some none => decide (live.length ≤ come)
        | some (some k) => decide (k ≤ come + (bs.filter (fun x => x.2.2.clusterGone r)).length)
      if done then
        let p := p.modLaunch bl.launch (fun l =>
          { l with cbars := KMap.insert (8 * bl.cluster + n) ⟨r.phase + 1, none, []⟩ l.cbars })
        bs.foldl (fun (p : Pkg) (x : Nat × Nat × Block) => p.modBlock x.1 x.2.1 (Block.release
          (fun k => match k with | .cbar m ph => m == n && ph == r.phase | _ => false))) p
      else p

/-- Complete every cluster barrier that can, after an exit. -/
def Pkg.completeCbars (p : Pkg) (c b : Nat) : Pkg :=
  (List.range 8).foldl (fun p n => p.completeCbar c b n) p

/-- `cbar.arrive`, `cbar.wait` and `cbar.sync`: at cluster scope, so the L1 actions of R91 apply. -/
def cbarForm (arr wt : Bool) (g : Guard) (a : Operand) (n : Nat) (s : State) :
    Host.Outcome State Fault Refusal :=
  perform { Form.wa g [(.src .w32, a)] with handler := false } (fun e p =>
    match e.resume, e.block p, e.warp p with
    | some ⟨.cbar m ph, d, r, ws, t⟩, b, _ =>
      if r || (b.bind (fun b => (p.launch? b.launch).map (fun l => (l.cbar b.cluster m).phase))).any (· != ph) then Res.ok ((p.l1WriteBack e.is.core).l1Invalidate e.is.core) else ⟨p, [], .block ⟨.cbar m ph, d, r, ws, t⟩⟩
    | _, some b, some w =>
      if arr && e.outstanding p true true then Res.wait e.orig .mem else
      match p.launch? b.launch with
      | none => Res.ok p
      | some ln =>
        let r := ln.cbar b.cluster n
        let done : Bar × List Nat := if arr then r.arrive (b.cpos * 64 + e.is.w) 8 (e.counts w a) else (r, [])
        let p := if arr then
            let p := p.l1WriteBack e.is.core
            (p.modLaunch b.launch (fun l => { l with cbars := KMap.insert (8 * b.cluster + n) done.1 l.cbars })).completeCbar
              e.is.core e.is.slot n
          else p
        let fs : List LFault := done.2.map (fun l => LFault.of l 0x12)
        let passed := match p.launch? b.launch with
          | some l => (l.cbar b.cluster n).phase != r.phase
          | none => true
        if wt && !passed && fs.length < e.lanes.length then
          ⟨p, fs, .block (Wait.of (.cbar n r.phase))⟩
        else if wt then ⟨(p.l1WriteBack e.is.core).l1Invalidate e.is.core, fs, .seq⟩
        else ⟨p, fs, .seq⟩
    | _, _, _ => Res.ok p) s

/-- `cbar.arrive` (08 R200). -/
def execCbarArrive (g : Guard) (a : Operand) (n : BitVec 3) (s : State) : Host.Outcome State Fault Refusal :=
  cbarForm true false g a n.toNat s

/-- `cbar.wait` (08 R200). -/
def execCbarWait (g : Guard) (a : Operand) (n : BitVec 3) (s : State) : Host.Outcome State Fault Refusal :=
  cbarForm false true g a n.toNat s

/-- `cbar.sync` (08 R200). -/
def execCbarSync (g : Guard) (a : Operand) (n : BitVec 3) (s : State) : Host.Outcome State Fault Refusal :=
  cbarForm true true g a n.toNat s

/-! ## Scratchpad addresses (04 R86-R87) -/

/-- Where a scratchpad address leads: core, block slot and offset, after alignment and the checks of R87;
the error is the cause. -/
def Pkg.spAddr (p : Pkg) (c b : Nat) (a : Word) (n : Nat) : Except Nat (Nat × Nat × Nat) :=
  let v := a.toNat
  if v % n ≠ 0 then .error 0x08
  else if bits v 31 25 ≠ 0 then .error 0x0B
  else if !bit v 24 && bits v 23 21 != 0 then .error 0x0B
  else
    match (if bit v 24 then p.peerBlock c b (bits v 23 21) else (p.block? c b).map (fun bl => (c, b, bl))) with
    | none => .error 0x0B
    | some (c', b', bl) =>
      if bl.spSize < bits v 20 0 + n then .error 0x0B else .ok (c', b', bits v 20 0)

/-! ## Arrival barriers (08 R201-R204) -/

/-- The fields of an arrival barrier object (08 R201). -/
structure Abar where
  phase : Bool
  valid : Bool
  expected : Nat
  arrived : Nat
  discards : Nat
  owed : List Int
  reserved : Bool
  deriving DecidableEq, Repr

/-- Read the object's bytes. PENDING follows BYTESj. -/
def Abar.ofNat (v : Nat) : Abar :=
  { phase := bit v 31, valid := bit v 30, expected := bits v 21 11, arrived := bits v 10 0
    discards := bits v 63 48
    owed := (List.range 8).map (fun j => (BitVec.ofNat 24 (v / 2 ^ (64 + 24 * j))).toInt)
    reserved := bits v 29 22 != 0 || bits v 47 40 != 0 }

/-- The object's 32 bytes. -/
def Abar.toNat (o : Abar) : Nat :=
  let pending := o.owed.zipIdx.foldl (fun m x => if x.1 = 0 then m else m + 2 ^ x.2) 0
  (if o.phase then 2 ^ 31 else 0) + (if o.valid then 2 ^ 30 else 0) + o.expected * 2 ^ 11 + o.arrived +
    o.discards * 2 ^ 48 + pending * 2 ^ 32 +
    o.owed.zipIdx.foldl (fun m x => m + (BitVec.ofInt 24 x.1).toNat * 2 ^ (64 + 24 * x.2)) 0

/-- An operation finds the object in an invalid state (08 R201). -/
def Abar.broken (o : Abar) : Bool := o.reserved || decide (o.expected < o.arrived)

/-- The object at an offset of a block's scratchpad. -/
def Pkg.abarAt (p : Pkg) (c b off : Nat) : Abar :=
  match p.block? c b with
  | some bl => Abar.ofNat (ofBytes (bl.readSp off 32))
  | none => Abar.ofNat 0

/-- Write the object back. -/
def Pkg.setAbar (p : Pkg) (c b off : Nat) (o : Abar) : Pkg :=
  p.modBlock c b (fun bl => bl.writeSp off (bytesOf 32 o.toNat))

/-- Count a discarded delivery: no other field of the object changes (08 R204). -/
def Pkg.discard (p : Pkg) (c b off : Nat) : Pkg :=
  p.modBlock c b (fun bl => bl.writeSp (off + 6) (bytesOf 2 (min 0xFFFF ((p.abarAt c b off).discards + 1))))

/-- A block's wait names the object at an offset of the block at a cluster position. -/
def waitsOn (cpos off : Nat) : WaitKind → Bool
  | .abar q o => q == cpos && o == off
  | _ => false

/-- Release the waiters of an object in every block of the cluster. -/
def Pkg.releaseAbar (p : Pkg) (c b off : Nat) (ok : Bool) : Pkg :=
  match p.block? c b with
  | none => p
  | some bl =>
    (p.clusterBlocks c b).foldl (fun (p : Pkg) (x : Nat × Nat × Block) => p.modBlock x.1 x.2.1 (fun y =>
      { y with warps := (y.warps.map (fun e => (e.1, { e.2 with splits := e.2.splits.map (fun s =>
          match s.wait with
          | some z => if waitsOn bl.cpos off z.kind && !z.released then
              { Split.release (waitsOn bl.cpos off) s with
                wait := some { z with released := true, data := [if ok then 1 else 0] } } else s
          | none => s) }))) })) p

/-- A split of the cluster waits on the object. -/
def Pkg.abarWaited (p : Pkg) (c b off : Nat) : Bool :=
  match p.block? c b with
  | none => false
  | some bl => (p.clusterBlocks c b).any (fun x => x.2.2.warps.any (fun e => e.2.splits.any (fun s =>
      match s.wait with
      | some z => waitsOn bl.cpos off z.kind && !z.released
      | none => false)))

/-- The phase of an object completes when every thread arrived and every source delivered (08 R203). -/
def Pkg.completeAbar (p : Pkg) (c b off : Nat) : Pkg :=
  let o := p.abarAt c b off
  if o.valid && o.arrived == o.expected && o.owed.all (· == 0) then
    (p.setAbar c b off { o with phase := !o.phase, arrived := 0 }).releaseAbar c b off true
  else p

/-- BYTESj stays in its signed 24-bit range. -/
def owedOk (v : Int) : Bool := decide (-8388608 ≤ v ∧ v ≤ 8388607)

/-- A delivery of n bytes of a source to an object (08 R203-R204): the package, and whether the copy takes
the endpoint error. -/
def Pkg.deliver (p : Pkg) (c b off j n : Nat) (marked : Bool) : Pkg × Bool :=
  match p.spTouch c b off true with
  | .error _ => (p, true)
  | .ok q =>
    let o := q.abarAt c b off
    if !o.valid || marked then (q.discard c b off, false)
    else if o.broken then (q, true)
    else
      let v := o.owed.getD j 0 - n
      if owedOk v then ((q.setAbar c b off { o with owed := o.owed.set j v }).completeAbar c b off, false)
      else (q, true)

/-- A copy that no `abar.inval` has marked still names the object of a block (08 R202, 26 R475). -/
def Pkg.abarNamed (p : Pkg) (c b off : Nat) : Bool :=
  match p.block? c b with
  | none => false
  | some bl => (p.clusterBlocks c b).any (fun x => (p.core x.1).copies.any (fun e =>
      let y := e.2
      y.home.isNone && y.slot == x.2.1 && y.aben && decide (y.abar / 32 = off / 32) && !y.marked.contains bl.cpos &&
      (if y.form = 4 then y.mask.testBit bl.cpos
       else
         let d := (half y.dst 0).toNat
         (if bit d 24 then bits d 23 21 else x.2.2.cpos) == bl.cpos)))

/-- Mark the outstanding copies that name the object (26 R475). -/
def Pkg.abarMark (p : Pkg) (c b off : Nat) : Pkg :=
  match p.block? c b with
  | none => p
  | some bl => (p.clusterBlocks c b).foldl (fun (p : Pkg) (x : Nat × Nat × Block) => p.modCore x.1 (fun k =>
      { k with copies := k.copies.map (fun e =>
          if e.2.home.isNone && e.2.slot == x.2.1 && e.2.aben && decide (e.2.abar / 32 = off / 32) &&
            !e.2.marked.contains bl.cpos then
            (e.1, { e.2 with marked := bl.cpos :: e.2.marked }) else e) })) p

/-- An object's sector in a stash window is filled before it is used, and dirty where it may change (04 R101); poison is
cause 0x1C (25 R450). -/
def Pkg.touchAbar (p : Pkg) (x : Nat × Nat × Nat) (wr : Bool) : Except Nat Pkg :=
  match p.spTouch x.1 x.2.1 x.2.2 wr with
  | .error c => .error c
  | .ok p =>
    if (p.block? x.1 x.2.1).any (fun bl => bl.spPoisoned x.2.2 32) then .error 0x1C else .ok p

/-- The scope at which an `abar` form orders: block for a local object, cluster for a remote one, unless
SCV names one (08 R204). -/
def Env.abarWide (e : Env) (c b : Nat) : Bool :=
  match e.md.bind (fun m => m.scv) with
  | some sc => decide (3 ≤ sc.toNat)
  | none => c != e.is.core || b != e.is.slot

/-- The L1 side of a release at cluster scope or wider (04 R91). -/
def Env.releaseL1 (e : Env) (p : Pkg) (wide : Bool) : Pkg := if wide then p.l1WriteBack e.is.core else p

/-- The L1 side of an acquire at cluster scope or wider (04 R91). -/
def Env.acquireL1 (e : Env) (p : Pkg) (wide : Bool) : Pkg :=
  if wide then (p.l1WriteBack e.is.core).l1Invalidate e.is.core else p

/-- The object an `abar` form names, from the lowest lane (12 R275). -/
def Env.object (e : Env) (p : Pkg) (w : Warp) (a : Operand) : Except Nat (Nat × Nat × Nat) :=
  p.spAddr e.is.core e.is.slot (e.rd32 w a e.lead) 32

/-- The operation writes scratchpad: an `mcvt` from an accumulator. -/
def MxOp.writes (x : MxOp) : Bool := x.form == 3 && !x.step.getLsbD 30

/-- An access of the armature to n bytes of its scratchpad waits for its matrix instructions in flight: for one that writes a
byte of them, and where it writes for one that reads one (07 R155, 11 R272). -/
def Env.tileBusy (e : Env) (p : Pkg) (c b o n : Nat) (wr : Bool) : Bool :=
  e.is.w == armNo && e.is.core == c && e.is.slot == b && (p.core c).mx.ops.any (fun x =>
    x.slot == b && (wr || x.writes) && (x.scale :: x.rows).any (fun r => decide (o < r.1 + r.2.length ∧ r.1 < o + n)))

/-- A lane's scratchpad access, by its address, must wait so, or for a stash window's line (04 R97, 25 R458). -/
def Env.spBusy (e : Env) (p : Pkg) (a : Word) (n : Nat) (wr : Bool) : Bool :=
  match p.spAddr e.is.core e.is.slot a n with
  | .ok (c, b, o) => e.tileBusy p c b o n wr || (match p.spTouch c b o wr with | .error 0 => true | _ => false)
  | .error _ => false

/-- An `abar` form over its object; `wr` where it may change. In the forms that act per lane a queue code may stand in a: a word
of every guard-true lane is popped, and the lowest lane's is the address (log 98, DESIGN CHOICE). -/
def abarForm (wr : Bool) (f : Form) (a : Operand) (body : Env → Pkg → Warp → Nat × Nat × Nat → Res) (s : State) :
    Host.Outcome State Fault Refusal :=
  perform f (fun e p =>
    match e.warp p with
    | none => Res.ok p
    | some w =>
      match e.object p w a with
      | .error c => Res.fail p e.act c
      | .ok x =>
        if e.tileBusy p x.1 x.2.1 x.2.2 32 wr then Res.wait e.orig .mem
        else
        match p.touchAbar x wr with
        | .error 0 => Res.wait e.orig .mem
        | .error c => Res.fail p e.act c
        | .ok p => body e p w x) s

/-- `abar.init` (08 R202). -/
def execAbarInit (g : Guard) (d a : Operand) (s : State) : Host.Outcome State Fault Refusal :=
  abarForm true { Form.wa g [(.src .w32, d), (.src .w32, a)] with once := true } a (fun e p w x =>
    let n := bits (e.rd32 w d e.lead).toNat 10 0
    let o := p.abarAt x.1 x.2.1 x.2.2
    if n < 1 ∨ 1024 < n ∨ o.broken then Res.fail p e.act 0x12
    else if o.valid && (p.abarWaited x.1 x.2.1 x.2.2 || o.owed.any (· != 0) || p.abarNamed x.1 x.2.1 x.2.2) then
      Res.fail p e.act 0x11
    else Res.ok (p.setAbar x.1 x.2.1 x.2.2 ⟨false, true, n, 0, 0, List.replicate 8 0, false⟩)) s

/-- `abar.owe` (08 R202-R203). -/
def execAbarOwe (g : Guard) (d a : Operand) (s : State) : Host.Outcome State Fault Refusal :=
  abarForm true { Form.wa g [(.src .w32, d), (.src .w32, a)] with once := true } a (fun e p w x =>
    let v := (e.rd32 w d e.lead).toNat
    let o := p.abarAt x.1 x.2.1 x.2.2
    let j := bits v 26 24
    let n := o.owed.getD j 0 + bits v 23 0
    if bits v 31 27 ≠ 0 ∨ !o.valid ∨ o.broken ∨ !owedOk n then Res.fail p e.act 0x12
    else Res.ok ((p.setAbar x.1 x.2.1 x.2.2 { o with owed := o.owed.set j n }).completeAbar x.1 x.2.1 x.2.2)) s

/-- `abar.arrive` (08 R202): each lane receives PHASE as it stood before its arrival. -/
def execAbarArrive (g : Guard) (d a : Operand) (s : State) : Host.Outcome State Fault Refusal :=
  abarForm true { Form.wa g [(.dst .w32, d), (.src .w32, a)] with scv := some 2 } a (fun e p _ x =>
    let o := p.abarAt x.1 x.2.1 x.2.2
    let n := e.lanes.length
    if e.outstanding p true true then Res.wait e.orig .mem
    else if !o.valid ∨ o.broken ∨ o.expected < o.arrived + n then Res.fail p e.act 0x12
    else
      let p := e.releaseL1 p (e.abarWide x.1 x.2.1)
      let p := (p.setAbar x.1 x.2.1 x.2.2 { o with arrived := o.arrived + n }).completeAbar x.1 x.2.1 x.2.2
      e.writeAll p d (e.lanes.map (fun l => (l, [boolWord o.phase])))) s

/-- `abar.wait` (08 R202): each lane compares its own token. A split that blocked goes on when the object's phase completes,
with 1 in every lane, though lanes hold different tokens (log 80, DESIGN CHOICE), or when it finds that a store has changed
PHASE or VALID (R201). -/
def execAbarWait (g : Guard) (d a : Operand) (s : State) : Host.Outcome State Fault Refusal :=
  abarForm true { Form.wa g [(.upd .w32, d), (.src .w32, a)] with scv := some 2 } a (fun e p w x =>
    let own : Option Wait := match e.resume with
      | some ⟨.abar q f, d, r, ws, t⟩ => some ⟨.abar q f, d, r, ws, t⟩
      | _ => none
    let p := if own.isNone && !(p.abarAt x.1 x.2.1 x.2.2).broken then p.completeAbar x.1 x.2.1 x.2.2 else p
    let o := p.abarAt x.1 x.2.1 x.2.2
    let cpos := match p.block? x.1 x.2.1 with | some b => b.cpos | none => 0
    let tok (l : Nat) : Bool := (e.rd32 w d l).getLsbD 0
    let finish (v : Nat → Word) : Res :=
      e.writeAll (e.acquireL1 p (e.abarWide x.1 x.2.1)) d (e.lanes.map (fun l => (l, [v l])))
    match own with
    | some z =>
      if z.released then finish (fun _ => if z.data.headD 0 = 1 then 1 else 0)
      else if o.broken then ⟨e.orig, [], .block z⟩
      else if !o.valid then finish (fun _ => 0)
      else if e.lanes.all (fun l => o.phase != tok l) then finish (fun _ => 1)
      else ⟨e.orig, [], .block z⟩
    | none =>
      if o.broken then Res.fail p e.act 0x12
      else if !o.valid then finish (fun _ => 0)
      else if e.lanes.all (fun l => o.phase != tok l) then finish (fun _ => 1)
      else ⟨p, [], .block (Wait.of (.abar cpos x.2.2))⟩) s

/-- `abar.test` (08 R202). It is an operation that completes a phase which is due (R203), and compares its token after that
(log 97, DESIGN CHOICE). -/
def execAbarTest (g : Guard) (d a : Operand) (s : State) : Host.Outcome State Fault Refusal :=
  abarForm true { Form.wa g [(.upd .w32, d), (.src .w32, a)] with scv := some 2 } a (fun e p w x =>
    if (p.abarAt x.1 x.2.1 x.2.2).broken then Res.fail p e.act 0x12
    else
      let p := p.completeAbar x.1 x.2.1 x.2.2
      let o := p.abarAt x.1 x.2.1 x.2.2
      let ans (l : Nat) : Bool := o.valid && o.phase != (e.rd32 w d l).getLsbD 0
      let p := e.acquireL1 p (e.lanes.any ans && e.abarWide x.1 x.2.1)
      e.writeAll p d (e.lanes.map (fun l => (l, [boolWord (ans l)])))) s

/-- `abar.inval` (08 R204, 26 R475). -/
def execAbarInval (g : Guard) (a : Operand) (s : State) : Host.Outcome State Fault Refusal :=
  abarForm true { Form.wa g [(.src .w32, a)] with once := true } a (fun e p _ x =>
    let o := p.abarAt x.1 x.2.1 x.2.2
    if o.broken then Res.fail p e.act 0x12
    else
      let p := (p.abarMark x.1 x.2.1 x.2.2).setAbar x.1 x.2.1 x.2.2
        { o with valid := false, arrived := 0, owed := List.replicate 8 0 }
      Res.ok (p.releaseAbar x.1 x.2.1 x.2.2 false)) s

end Sys2Proof.Machine
end

