-- ==== Sys2Proof/Machine/Integer.lean ====
section
/-!
DEFINITION. Integer arithmetic and logic, bit fields, moves, index registers and special registers
(08_isa_integer_control.md R179-R185).
-/

namespace Sys2Proof.Machine

/-! ## Shapes -/

/-- The three operands of a T form of one width. -/
def opsT (k : OpW) (d a b : Operand) : List (Pos × Operand) := [(.dst k, d), (.src k, a), (.src k, b)]

/-- d := f a b on 32-bit operands, with a region tag rule. -/
def int32 (f : Word → Word → Word) (tag : TagRule) (g : Guard) (d a b : Operand) (s : State) :
    Host.Outcome State Fault Refusal :=
  laneForm { Form.wa g (opsT .w32 d a b) with region := true, tag := tag } d
    (fun e w l => [f (e.rd32 w a l) (e.rd32 w b l)]) s

/-- d := f d a b on 32-bit operands, d read before it is written (07 R157). -/
def int32u (f : Word → Word → Word → Word) (g : Guard) (d a b : Operand) (s : State) :
    Host.Outcome State Fault Refusal :=
  laneForm { Form.wa g [(.upd .w32, d), (.src .w32, a), (.src .w32, b)] with region := true } d
    (fun e w l => [f (e.rd32 w d l) (e.rd32 w a l) (e.rd32 w b l)]) s

/-- d := f a b on pairs. -/
def int64 (f : DWord → DWord → DWord) (tag : TagRule) (g : Guard) (d a b : Operand) (s : State) :
    Host.Outcome State Fault Refusal :=
  laneForm { Form.wa g (opsT .w64 d a b) with region := true, tag := tag } d
    (fun e w l => wordsOf .w64 (f (e.rd64 w a l) (e.rd64 w b l))) s

/-- A pair d := f a b of 32-bit operands. -/
def intWide (f : Word → Word → DWord) (g : Guard) (d a b : Operand) (s : State) :
    Host.Outcome State Fault Refusal :=
  laneForm { Form.wa g [(.dst .w64, d), (.src .w32, a), (.src .w32, b)] with region := true } d
    (fun e w l => wordsOf .w64 (f (e.rd32 w a l) (e.rd32 w b l))) s

/-- d := f a on 32-bit operands. -/
def int32a (f : Word → Word) (tag : TagRule) (g : Guard) (d a : Operand) (s : State) :
    Host.Outcome State Fault Refusal :=
  laneForm { Form.wa g [(.dst .w32, d), (.src .w32, a)] with region := true, tag := tag } d
    (fun e w l => [f (e.rd32 w a l)]) s

/-- d := f a on pairs. -/
def int64a (f : DWord → DWord) (tag : TagRule) (g : Guard) (d a : Operand) (s : State) :
    Host.Outcome State Fault Refusal :=
  laneForm { Form.wa g [(.dst .w64, d), (.src .w64, a)] with region := true, tag := tag } d
    (fun e w l => wordsOf .w64 (f (e.rd64 w a l))) s

/-- A 32-bit d := f a of a pair a. -/
def intNarrow (f : DWord → Word) (g : Guard) (d a : Operand) (s : State) :
    Host.Outcome State Fault Refusal :=
  laneForm { Form.wa g [(.dst .w32, d), (.src .w64, a)] with region := true } d
    (fun e w l => [f (e.rd64 w a l)]) s

/-! ## Region tags (10 R251) -/

/-- `mov`: the same tag. -/
def tagMove : TagRule := .carry (fun ts _ => ts.headD none)

/-- `add`: a constant is added to the form, or a form is doubled. -/
def tagAdd (n : Nat) : TagRule := .carry (fun ts vs =>
  match ts, vs with
  | [some t, none], [_, v] => some { t with c := t.c + v }
  | [none, some t], [v, _] => some { t with c := t.c + v }
  | [some t, some u], _ =>
    if t.sym = u.sym ∧ t.s = u.s ∧ t.s + 1 < n then some { t with s := t.s + 1, c := t.c + u.c } else none
  | _, _ => none)

/-- `sub`: a constant is subtracted from the form. -/
def tagSub : TagRule := .carry (fun ts vs =>
  match ts, vs with
  | [some t, none], [_, v] => some { t with c := t.c - v }
  | _, _ => none)

/-- `addi`: the immediate is added to the form. -/
def tagAddi (i : DWord) : TagRule := .carry (fun ts _ =>
  match ts with
  | [some t] => some { t with c := t.c + i }
  | _ => none)

/-- `shli`: the form is shifted while its shift stays below 32. -/
def tagShl (n : Nat) : TagRule := .carry (fun ts _ =>
  match ts with
  | [some t] => if t.s + n ≤ 31 then some { t with s := t.s + n, c := t.c <<< n } else none
  | _ => none)

/-! ## Results -/

/-- Signed quotient (03 R64): truncated; division by zero gives all ones. -/
def divS (a b : Word) : Word := if b = 0 then 0xFFFFFFFF else BitVec.ofInt 32 (Int.tdiv a.toInt b.toInt)

/-- Unsigned quotient (03 R64). -/
def divU (a b : Word) : Word := if b = 0 then 0xFFFFFFFF else a / b

/-- Signed remainder with the sign of the dividend; the dividend for a zero divisor (03 R64). -/
def remS (a b : Word) : Word := if b = 0 then a else BitVec.ofInt 32 (Int.tmod a.toInt b.toInt)

/-- Unsigned remainder (03 R64). -/
def remU (a b : Word) : Word := if b = 0 then a else a % b

/-- Signed minimum. -/
def minS (a b : Word) : Word := if a.slt b then a else b

/-- Signed maximum. -/
def maxS (a b : Word) : Word := if a.slt b then b else a

/-- Unsigned minimum. -/
def minU (a b : Word) : Word := if a < b then a else b

/-- Unsigned maximum. -/
def maxU (a b : Word) : Word := if a < b then b else a

/-- The 64-bit signed product. -/
def mulSS (a b : Word) : DWord := a.signExtend 64 * b.signExtend 64

/-- The 64-bit unsigned product. -/
def mulUU (a b : Word) : DWord := a.setWidth 64 * b.setWidth 64

/-- A shift amount of a 32-bit shift (08 R179). -/
def amount (b : Word) : Nat := b.toNat % 32

/-- Position and length of a bit field (08 R181). -/
def fieldOf (b : Word) : Nat × Nat := (bits b.toNat 4 0, min (bits b.toNat 13 8) 32)

/-- Bits [len-1:0] of a value, sign-extended when asked (08 R181). -/
def extField (signed : Bool) (len : Nat) (f : Word) : Word :=
  if len = 0 then 0
  else
    let v := f.toNat % 2 ^ len
    if signed && v.testBit (len - 1) then BitVec.ofInt 32 ((v : Int) - 2 ^ len) else BitVec.ofNat 32 v

/-- Signed bit-field extract (08 R181). -/
def bfeS (a b : Word) : Word := extField true (fieldOf b).2 (a.sshiftRight (fieldOf b).1)

/-- Unsigned bit-field extract (08 R181). -/
def bfeU (a b : Word) : Word := extField false (fieldOf b).2 (a >>> (fieldOf b).1)

/-- Bit-field insert (08 R181). -/
def bfiW (d a b : Word) : Word :=
  let m : Word := BitVec.ofNat 32 ((2 ^ (fieldOf b).2 - 1) * 2 ^ (fieldOf b).1)
  (d &&& ~~~m) ||| ((a <<< (fieldOf b).1) &&& m)

/-- Number of 1 bits. -/
def popCount {n : Nat} (v : BitVec n) : Nat := ((List.range n).filter (fun i => v.getLsbD i)).length

/-- Leading zeros; the width for zero. -/
def leadZeros {n : Nat} (v : BitVec n) : Nat :=
  ((List.range n).find? (fun i => v.getLsbD (n - 1 - i))).getD n

/-- Trailing zeros; the width for zero. -/
def trailZeros {n : Nat} (v : BitVec n) : Nat := ((List.range n).find? (fun i => v.getLsbD i)).getD n

/-- A count as a word. -/
def countWord (n : Nat) : Word := BitVec.ofNat 32 n

/-! ## Meanings -/

/-- `add.i32` (08 R179). -/
def execAddI32 (g : Guard) (d a b : Operand) (s : State) : Host.Outcome State Fault Refusal :=
  int32 (fun x y => x + y) (tagAdd 32) g d a b s

/-- `sub.i32` (08 R179). -/
def execSubI32 (g : Guard) (d a b : Operand) (s : State) : Host.Outcome State Fault Refusal :=
  int32 (fun x y => x - y) tagSub g d a b s

/-- `mul.i32` (08 R179). -/
def execMulI32 (g : Guard) (d a b : Operand) (s : State) : Host.Outcome State Fault Refusal :=
  int32 (fun x y => x * y) .concretize g d a b s

/-- `mulhi.i32` (08 R179). -/
def execMulhiI32 (g : Guard) (d a b : Operand) (s : State) : Host.Outcome State Fault Refusal :=
  int32 (fun x y => half (mulSS x y) 1) .concretize g d a b s

/-- `mulhi.n32` (08 R179). -/
def execMulhiN32 (g : Guard) (d a b : Operand) (s : State) : Host.Outcome State Fault Refusal :=
  int32 (fun x y => half (mulUU x y) 1) .concretize g d a b s

/-- `min.i32` (08 R179). -/
def execMinI32 (g : Guard) (d a b : Operand) (s : State) : Host.Outcome State Fault Refusal :=
  int32 minS .concretize g d a b s

/-- `max.i32` (08 R179). -/
def execMaxI32 (g : Guard) (d a b : Operand) (s : State) : Host.Outcome State Fault Refusal :=
  int32 maxS .concretize g d a b s

/-- `min.n32` (08 R179). -/
def execMinN32 (g : Guard) (d a b : Operand) (s : State) : Host.Outcome State Fault Refusal :=
  int32 minU .concretize g d a b s

/-- `max.n32` (08 R179). -/
def execMaxN32 (g : Guard) (d a b : Operand) (s : State) : Host.Outcome State Fault Refusal :=
  int32 maxU .concretize g d a b s

/-- `and` (08 R179). -/
def execAnd (g : Guard) (d a b : Operand) (s : State) : Host.Outcome State Fault Refusal :=
  int32 (fun x y => x &&& y) .concretize g d a b s

/-- `andn` (08 R179). -/
def execAndn (g : Guard) (d a b : Operand) (s : State) : Host.Outcome State Fault Refusal :=
  int32 (fun x y => x &&& ~~~y) .concretize g d a b s

/-- `or` (08 R179). -/
def execOr (g : Guard) (d a b : Operand) (s : State) : Host.Outcome State Fault Refusal :=
  int32 (fun x y => x ||| y) .concretize g d a b s

/-- `xor` (08 R179). -/
def execXor (g : Guard) (d a b : Operand) (s : State) : Host.Outcome State Fault Refusal :=
  int32 (fun x y => x ^^^ y) .concretize g d a b s

/-- `shl` (08 R179). -/
def execShl (g : Guard) (d a b : Operand) (s : State) : Host.Outcome State Fault Refusal :=
  int32 (fun x y => x <<< amount y) .concretize g d a b s

/-- `shr` (08 R179). -/
def execShr (g : Guard) (d a b : Operand) (s : State) : Host.Outcome State Fault Refusal :=
  int32 (fun x y => x >>> amount y) .concretize g d a b s

/-- `sra` (08 R179). -/
def execSra (g : Guard) (d a b : Operand) (s : State) : Host.Outcome State Fault Refusal :=
  int32 (fun x y => x.sshiftRight (amount y)) .concretize g d a b s

/-- `rotl` (08 R179). -/
def execRotl (g : Guard) (d a b : Operand) (s : State) : Host.Outcome State Fault Refusal :=
  int32 (fun x y => x.rotateLeft (amount y)) .concretize g d a b s

/-- `bfe.i32` (08 R181). -/
def execBfeI32 (g : Guard) (d a b : Operand) (s : State) : Host.Outcome State Fault Refusal :=
  int32 bfeS .concretize g d a b s

/-- `bfe.n32` (08 R181). -/
def execBfeN32 (g : Guard) (d a b : Operand) (s : State) : Host.Outcome State Fault Refusal :=
  int32 bfeU .concretize g d a b s

/-- `div.i32` (08 R179, 03 R64). -/
def execDivI32 (g : Guard) (d a b : Operand) (s : State) : Host.Outcome State Fault Refusal :=
  int32 divS .concretize g d a b s

/-- `div.n32` (08 R179, 03 R64). -/
def execDivN32 (g : Guard) (d a b : Operand) (s : State) : Host.Outcome State Fault Refusal :=
  int32 divU .concretize g d a b s

/-- `rem.i32` (08 R179, 03 R64). -/
def execRemI32 (g : Guard) (d a b : Operand) (s : State) : Host.Outcome State Fault Refusal :=
  int32 remS .concretize g d a b s

/-- `rem.n32` (08 R179, 03 R64). -/
def execRemN32 (g : Guard) (d a b : Operand) (s : State) : Host.Outcome State Fault Refusal :=
  int32 remU .concretize g d a b s

/-- `add.i64` (08 R179). -/
def execAddI64 (g : Guard) (d a b : Operand) (s : State) : Host.Outcome State Fault Refusal :=
  int64 (fun x y => x + y) (tagAdd 64) g d a b s

/-- `sub.i64` (08 R179). -/
def execSubI64 (g : Guard) (d a b : Operand) (s : State) : Host.Outcome State Fault Refusal :=
  int64 (fun x y => x - y) tagSub g d a b s

/-- `mad.i32` (08 R179). -/
def execMadI32 (g : Guard) (d a b : Operand) (s : State) : Host.Outcome State Fault Refusal :=
  int32u (fun z x y => x * y + z) g d a b s

/-- `bfi` (08 R181). -/
def execBfi (g : Guard) (d a b : Operand) (s : State) : Host.Outcome State Fault Refusal :=
  int32u bfiW g d a b s

/-- `mulwide.i32` (08 R179). -/
def execMulwideI32 (g : Guard) (d a b : Operand) (s : State) : Host.Outcome State Fault Refusal :=
  intWide mulSS g d a b s

/-- `mulwide.n32` (08 R179). -/
def execMulwideN32 (g : Guard) (d a b : Operand) (s : State) : Host.Outcome State Fault Refusal :=
  intWide mulUU g d a b s

/-- `addi.i32` (08 R180). -/
def execAddiI32 (g : Guard) (d a : Operand) (i : BitVec 8) (s : State) : Host.Outcome State Fault Refusal :=
  int32a (fun x => x + i.signExtend 32) (tagAddi (i.signExtend 64)) g d a s

/-- `shli` (08 R180). -/
def execShli (g : Guard) (d a : Operand) (n : BitVec 6) (s : State) : Host.Outcome State Fault Refusal :=
  int32a (fun x => x <<< (n.toNat % 32)) (tagShl (n.toNat % 32)) g d a s

/-- `shri` (08 R180). -/
def execShri (g : Guard) (d a : Operand) (n : BitVec 6) (s : State) : Host.Outcome State Fault Refusal :=
  int32a (fun x => x >>> (n.toNat % 32)) .concretize g d a s

/-- `srai` (08 R180). -/
def execSrai (g : Guard) (d a : Operand) (n : BitVec 6) (s : State) : Host.Outcome State Fault Refusal :=
  int32a (fun x => x.sshiftRight (n.toNat % 32)) .concretize g d a s

/-- `rotli` (08 R180). -/
def execRotli (g : Guard) (d a : Operand) (n : BitVec 6) (s : State) : Host.Outcome State Fault Refusal :=
  int32a (fun x => x.rotateLeft (n.toNat % 32)) .concretize g d a s

/-- `andi` (08 R180). -/
def execAndi (g : Guard) (d a : Operand) (i : BitVec 6) (s : State) : Host.Outcome State Fault Refusal :=
  int32a (fun x => x &&& i.setWidth 32) .concretize g d a s

/-- `ori` (08 R180). -/
def execOri (g : Guard) (d a : Operand) (i : BitVec 6) (s : State) : Host.Outcome State Fault Refusal :=
  int32a (fun x => x ||| i.setWidth 32) .concretize g d a s

/-- `xori` (08 R180). -/
def execXori (g : Guard) (d a : Operand) (i : BitVec 6) (s : State) : Host.Outcome State Fault Refusal :=
  int32a (fun x => x ^^^ i.setWidth 32) .concretize g d a s

/-- `movi` (08 R180). -/
def execMovi (g : Guard) (d : Operand) (i : BitVec 15) (s : State) : Host.Outcome State Fault Refusal :=
  laneForm { Form.wa g [(.dst .w32, d)] with region := true } d (fun _ _ _ => [i.signExtend 32]) s

/-- `mov` (08 R182). -/
def execMov (g : Guard) (d a : Operand) (s : State) : Host.Outcome State Fault Refusal :=
  int32a (fun x => x) tagMove g d a s

/-- `mov.64` (08 R182). -/
def execMov64 (g : Guard) (d a : Operand) (s : State) : Host.Outcome State Fault Refusal :=
  int64a (fun x => x) tagMove g d a s

/-- `not` (08 R182). -/
def execNot (g : Guard) (d a : Operand) (s : State) : Host.Outcome State Fault Refusal :=
  int32a (fun x => ~~~x) .concretize g d a s

/-- `negi32` (08 R182). -/
def execNegI32 (g : Guard) (d a : Operand) (s : State) : Host.Outcome State Fault Refusal :=
  int32a (fun x => 0 - x) .concretize g d a s

/-- `absi32` (08 R182). -/
def execAbsI32 (g : Guard) (d a : Operand) (s : State) : Host.Outcome State Fault Refusal :=
  int32a (fun x => if x.msb then 0 - x else x) .concretize g d a s

/-- `popc` (08 R182). -/
def execPopc (g : Guard) (d a : Operand) (s : State) : Host.Outcome State Fault Refusal :=
  int32a (fun x => countWord (popCount x)) .concretize g d a s

/-- `clz` (08 R182). -/
def execClz (g : Guard) (d a : Operand) (s : State) : Host.Outcome State Fault Refusal :=
  int32a (fun x => countWord (leadZeros x)) .concretize g d a s

/-- `ctz` (08 R182). -/
def execCtz (g : Guard) (d a : Operand) (s : State) : Host.Outcome State Fault Refusal :=
  int32a (fun x => countWord (trailZeros x)) .concretize g d a s

/-- `brev` (08 R182). -/
def execBrev (g : Guard) (d a : Operand) (s : State) : Host.Outcome State Fault Refusal :=
  int32a (fun x => x.reverse) .concretize g d a s

/-- `sext8` (08 R182). -/
def execSext8 (g : Guard) (d a : Operand) (s : State) : Host.Outcome State Fault Refusal :=
  int32a (fun x => (x.setWidth 8).signExtend 32) .concretize g d a s

/-- `sext16` (08 R182). -/
def execSext16 (g : Guard) (d a : Operand) (s : State) : Host.Outcome State Fault Refusal :=
  int32a (fun x => (x.setWidth 16).signExtend 32) .concretize g d a s

/-- `zext8` (08 R182). -/
def execZext8 (g : Guard) (d a : Operand) (s : State) : Host.Outcome State Fault Refusal :=
  int32a (fun x => (x.setWidth 8).setWidth 32) .concretize g d a s

/-- `zext16` (08 R182). -/
def execZext16 (g : Guard) (d a : Operand) (s : State) : Host.Outcome State Fault Refusal :=
  int32a (fun x => (x.setWidth 16).setWidth 32) .concretize g d a s

/-- `neg.i64` (08 R182). -/
def execNegI64 (g : Guard) (d a : Operand) (s : State) : Host.Outcome State Fault Refusal :=
  int64a (fun x => 0 - x) .concretize g d a s

/-- `popc.64` (08 R182). -/
def execPopc64 (g : Guard) (d a : Operand) (s : State) : Host.Outcome State Fault Refusal :=
  intNarrow (fun x => countWord (popCount x)) g d a s

/-- `clz.64` (08 R182). -/
def execClz64 (g : Guard) (d a : Operand) (s : State) : Host.Outcome State Fault Refusal :=
  intNarrow (fun x => countWord (leadZeros x)) g d a s

/-! ## Index registers and special registers -/

/-- `ixset` (08 R183): the reserved bits [13:9] are ignored. -/
def execIxset (g : Guard) (a : Operand) (x : Fin 4) (s : State) : Host.Outcome State Fault Refusal :=
  perform (Form.w g [(.src .w32, a)]) (fun e p =>
    Res.ok (e.modWarp p (fun w0 => forLanes e.act (fun l w => w.setIx x.val l (e.rd32 w0 a l)) w0))) s

/-- `ixadd` (08 R183): OFF moves modulo 512. -/
def execIxadd (g : Guard) (a : Operand) (x : Fin 4) (s : State) : Host.Outcome State Fault Refusal :=
  perform (Form.w g [(.src .w32, a)]) (fun e p =>
    Res.ok (e.modWarp p (fun w0 => forLanes e.act (fun l w =>
      let v := w.ix x.val l
      w.setIx x.val l ((v &&& 0xFFFFFE00) ||| ((v + e.rd32 w0 a l) &&& 0x1FF))) w0))) s

/-- `ixget` (08 R183). -/
def execIxget (g : Guard) (d : Operand) (x : Fin 4) (s : State) : Host.Outcome State Fault Refusal :=
  laneForm (Form.w g [(.dst .w32, d)]) d (fun _ w l => [w.ix x.val l &&& 0xFFFFC1FF]) s

/-- The code of a rounding mode in FPMODE (03 R70). -/
def rmWord (m : RM) : Word := BitVec.ofNat 32 (rmCode m)

/-- The grid extents of a launch record (13 R319). -/
def gridOf (rec' : List Byte) (k : Nat) : Word :=
  match k with
  | 0 => BitVec.ofNat 32 (ofBytes ((rec'.drop 0x28).take 4))
  | 1 => BitVec.ofNat 32 (ofBytes ((rec'.drop 0x2C).take 2))
  | _ => BitVec.ofNat 32 (ofBytes ((rec'.drop 0x2E).take 2))

/-- Selectors that exist on a warp only (07 R173). -/
def getsWarpOnly : GetsSel → Bool
  | .lane | .split | .fpflags | .fpmode | .fptrap => true
  | _ => false

/-- The value of a selector of `gets` (08 R184). -/
def Env.special (e : Env) (p : Pkg) (w : Warp) (l : Nat) (x : GetsSel) : Word :=
  let grid (k : Nat) : Word := match (e.block p).bind (fun b => p.launch? b.launch) with
    | some ln => gridOf ln.record k
    | none => 1
  let blk (f : Block → Nat) : Word := match e.block p with | some b => BitVec.ofNat 32 (f b) | none => 0
  match x with
  | .lane => BitVec.ofNat 32 l
  | .warp => if e.arm then 0xFFFFFFFF else BitVec.ofNat 32 e.is.w
  | .split => BitVec.ofNat 32 e.is.sp
  | .blockX => blk (fun b => b.bx)
  | .blockY => blk (fun b => b.by_)
  | .blockZ => blk (fun b => b.bz)
  | .gridX => grid 0
  | .gridY => grid 1
  | .gridZ => grid 2
  | .cpos => blk (fun b => b.cpos)
  | .core => BitVec.ofNat 32 e.is.core
  | .die => BitVec.ofNat 32 (dieOfCore e.is.core)
  | .depth => match (e.block p).bind (fun b => p.launch? b.launch) with
    | some ln => BitVec.ofNat 32 ln.depth
    | none => 0
  | .wver => w.wver
  | .fpflags => w.fpflags.setWidth 32
  | .clock => half (p.die (dieOfCore e.is.core)).cyc 0
  | .fpmode => rmWord w.fprm
  | .fptrap => w.fptrap.setWidth 32

/-- `gets` (08 R184); on the armature the selectors of a warp take cause 0x06 (07 R173, 24 R442). -/
def execGets (g : Guard) (d : Operand) (x : GetsSel) (s : State) : Host.Outcome State Fault Refusal :=
  perform { Form.wa g [(.dst .w32, d)] with region := true } (fun e p =>
    if e.arm && getsWarpOnly x then Res.fail p e.act 0x06
    else match e.warp p with
      | none => Res.ok p
      | some w => e.writeAll p d (e.lanes.map (fun l => (l, [e.special p w l x])))) s

/-- Write the word of a selector of `sets` (08 R185); reserved bits are ignored. -/
def Warp.setSpecial (w : Warp) (x : SetsSel) (v : Word) : Warp :=
  match x with
  | .wver => { w with wver := v }
  | .fpmode => { w with fprm := rmOf (v.toNat % 4) }
  | .fpclear => { w with fpflags := w.fpflags &&& ~~~(v.setWidth 5) }
  | .fptrap => { w with fptrap := v.setWidth 5 }
  | .fpflags => { w with fpflags := v.setWidth 5 }

/-- `sets` (08 R185): the value of the highest-numbered lane; on the armature `wver` only. -/
def execSets (g : Guard) (a : Operand) (x : SetsSel) (s : State) : Host.Outcome State Fault Refusal :=
  perform (Form.wa g [(.src .w32, a)]) (fun e p =>
    if e.arm && x != .wver then Res.fail p e.act 0x06
    else match e.warp p with
      | none => Res.ok p
      | some w => Res.ok (e.modWarp p (fun w' => w'.setSpecial x (e.rd32 w a e.last)))) s

end Sys2Proof.Machine
end

