-- ==== Sys2Proof/Machine/Control.lean ====
section
/-!
DEFINITION. Branches, calls, returns, exits, split control, sleep and no-op, and the end of an armature
(08_isa_integer_control.md R191-R196, R205; 11_isa_armature_matrix.md R270).
-/

namespace Sys2Proof.Machine

/-! ## Targets (07 R157) -/

/-- The target of a B-format word: the next word plus 4 × target. -/
def Env.target (e : Env) (t : BitVec 13) : DWord := e.npc + 4 * t.signExtend 64

/-- The reconvergence PC of a `bra`: the branch's own address plus 4 × reconv; 0 means none. -/
def Env.join (e : Env) (r : BitVec 9) : DWord := if r = 0 then 0 else e.npc - 4 + 4 * r.setWidth 64

/-- The executing entry diverges (02 R30): the acted lanes go to `target`, the others to `next`. The change
`f` acts on the entry that continues at the target. No room is cause 0x13 on the lanes of `exec`. -/
def Env.split (e : Env) (p : Pkg) (target next q : DWord) (f : Split → Split) : Res :=
  match e.warp p with
  | none => Res.ok p
  | some w =>
    match w.diverge e.is.sp e.act target (Mask.minus e.exec e.act) next q with
    | none => Res.fail p e.exec 0x13
    | some w' =>
      ⟨e.modWarp p (fun _ => w'.modSplit e.is.sp (fun s => f (s.advance target))), [], .own⟩

/-! ## Branches and calls -/

/-- `bra` (08 R191). -/
def execBra (g : Guard) (t : BitVec 13) (r : BitVec 9) (s : State) : Host.Outcome State Fault Refusal :=
  perform { Form.wa g [] with region := true } (fun e p =>
    if e.act = e.exec then ⟨p, [], .jump (e.target t)⟩
    else e.split p (e.target t) e.npc (e.join r) id) s

/-- A call stack takes a return PC; depth 8 is full (02 R35). -/
def Split.push (pc : DWord) (s : Split) : Split := { s with cstack := s.cstack ++ [pc] }

/-- The executing split. -/
def Env.mySplit (e : Env) (p : Pkg) : Split :=
  match e.warp p with | some w => w.split e.is.sp | none => Split.free

/-- Change the executing split. -/
def Env.modSplit (e : Env) (p : Pkg) (f : Split → Split) : Pkg :=
  e.modWarp p (fun w => w.modSplit e.is.sp f)

/-- `call` (08 R192). -/
def execCall (g : Guard) (t : BitVec 13) (s : State) : Host.Outcome State Fault Refusal :=
  perform (Form.wa g []) (fun e p =>
    if 8 ≤ (e.mySplit p).cstack.length then Res.fail p e.act 0x14
    else if e.act = e.exec then
      ⟨e.modSplit p (fun s => (s.push e.npc).advance (e.target t)), [], .own⟩
    else e.split p (e.target t) e.npc e.npc (Split.push e.npc)) s

/-- Lanes of the executing entry that execute the same instruction again: its run starts over. -/
def Split.rerun (s : Split) : Split := { s with pfx := Pfx.none, held := none, wait := none }

/-- `jmpr` and `callr` (08 R193): the lanes whose guard is false fall through, one pass peels off the lanes that share the lowest lane's target: the divergences, then
the depth, then the target, whose alignment is checked before its bits [63:56] (log 80, DESIGN CHOICE). -/
def indirect (link : Bool) (g : Guard) (a : Operand) (s : State) : Host.Outcome State Fault Refusal :=
  perform (Form.wa g [(.src .w64, a)]) (fun e p =>
    match e.warp p with
    | none => Res.ok p
    | some w =>
      let t0 := e.rd64 w a e.lead
      let grp := maskOfList (e.lanes.filter (fun l => e.rd64 w a l == t0))
      -- lanes whose guard is false fall through
      let first : Option Warp := if e.on = e.exec then some w
        else w.diverge e.is.sp e.act e.pc (Mask.minus e.exec e.on) e.npc 0
      match first with
      | none => Res.fail p e.exec 0x13
      | some w1 =>
        let stay (w : Warp) : Pkg := e.modWarp p (fun _ => w.modSplit e.is.sp (fun s => { s.rerun with pc := e.pc }))
        let second : Option Warp := if grp = e.act then some w1 else w1.diverge e.is.sp grp t0 (Mask.minus e.act grp) e.pc 0
        match second with
        | none => { Res.fail (stay w1) e.act 0x13 with next := .own }
        | some w2 =>
          if link && decide (8 ≤ (w2.split e.is.sp).cstack.length) then { Res.fail (stay w2) grp 0x14 with next := .own }
          else if t0.toNat % 4 ≠ 0 then { Res.fail (stay w2) grp 0x08 t0 with next := .own }
          else if 2 ^ 56 ≤ t0.toNat then { Res.fail (stay w2) grp 0x09 t0 with next := .own }
          else
            ⟨e.modWarp p (fun _ => w2.modSplit e.is.sp (fun s => (if link then s.push e.npc else s).advance t0)), [], .own⟩) s

/-- `jmpr` (08 R193). -/
def execJmpr (g : Guard) (a : Operand) (s : State) : Host.Outcome State Fault Refusal := indirect false g a s

/-- `callr` (08 R193). -/
def execCallr (g : Guard) (a : Operand) (s : State) : Host.Outcome State Fault Refusal := indirect true g a s

/-! ## Exits -/

/-- Restore the handler warp from the shadow (23 R426, R428): tables, stacks, predicates, index registers,
FPTRAP and v0-v31. -/
def Warp.restoreFrom (w old : Warp) : Warp :=
  let keep := List.filter (fun e => decide (32 * 32 ≤ e.1)) w.regs
  let back := List.filter (fun e => decide (e.1 < 32 * 32)) old.regs
  { w with
    splits := old.splits, dstack := old.dstack, preds := old.preds, xs := old.xs, fptrap := old.fptrap
    exited := old.exited, regs := back ++ keep, frec := old.frec
    rpoison := old.rpoison.filter (fun r => decide (r < 32 * 32)) ++ w.rpoison.filter (fun r => decide (32 * 32 ≤ r)) }

/-- What an exit changes around the warp (08 R194, R198-R200, 02 R37): barriers that no longer wait
for its lanes, feed entries it will not read, and return records of its lanes. -/
def Pkg.afterExit (p : Pkg) (c b w : Nat) : Pkg :=
  let p := p.modWarp c b w (fun wp =>
    { wp with rets := List.filter (fun e => wp.live.getLsbD (e.1 % 32)) wp.rets })
  let p := p.modBlock c b (fun bl => bl.retireFeed.completeBars)
  p.completeCbars c b

/-- A block resumes (23 R428); lanes that end with it count no more toward its barriers (08 R198-R200). -/
def Pkg.resumeOn (p : Pkg) (c b : Nat) (act : Nat → Resumed) : Pkg :=
  match p.block? c b with
  | none => p
  | some bl => bl.warps.keys.foldl (fun p w => p.afterExit c b w) (p.resumeBlock c b act)

/-- The handler ended (23 R428): ACT is v7[1:0] of the lowest present lane of the handler warp; the end is a
release at device scope, which the resuming splits acquire (R429). -/
def Pkg.handlerEnd (p : Pkg) (c b w : Nat) : Pkg :=
  match p.warp? c b w, (p.core c).shadow with
  | some wp, some (_, old) =>
    let act := actOf (bits (wp.rd 7 ((lanesOf wp.present).headD 0)).toNat 1 0)
    let p := (p.l1WriteBack c).l1Invalidate c
    let p := p.modCore c (fun k => { k with shadow := none })
    let p := p.modWarp c b w (fun wp => wp.restoreFrom old)
    p.resumeOn c b (fun _ => act)
  | _, _ => p

/-- The handler ends when no lane of the handler warp runs it any more. -/
def Pkg.handlerOver (p : Pkg) (c b w : Nat) : Pkg :=
  match p.warp? c b w with
  | some wp => if wp.splits.all (fun s => s.st == .free) ∧ wp.dstack = [] then p.handlerEnd c b w else p
  | none => p

/-- The faults of operations of classes 2, 4 and 6 that no wait has charged (12 R292, R296, R305), oldest first,
those of copies in the open batch last. -/
def Warp.uncharged (w : Warp) : List Charge :=
  (w.ops.filter (fun o => o.cls == 2 || o.cls == 4 || o.cls == 6)).flatMap (fun o => o.faults) ++ w.batchFaults

/-- Charge faults on the `exit` that ended a warp's last live lane and take the trap at once (12 R292). -/
def Pkg.chargeExit (p : Pkg) (c b w : Nat) (cs : List Charge) : Pkg :=
  match p.warp? c b w, cs with
  | some wp, f :: _ =>
    (match wp.exitAt with
     | some x =>
       let pd : Pend := ⟨f.cause, x.pc, x.skip, f.addr, x.lanes, f.aux, cs.any (fun y => y.cause != f.cause)⟩
       let p := p.modWarp c b w (fun wp =>
         { wp with ops := wp.ops.map (fun (o : ClassOp) => { o with faults := [] }), batchFaults := [] }.modSplit x.sp
           (fun _ => { Split.free with pc := x.pc, st := .ready, pend := some pd }))
       p.takeTrap c b w x.sp
     | none => p)
  | _, _ => p

/-- Lanes of the executing entry end (08 R194). When the last live lane of the warp ends with uncharged faults
of an engine, they fall on this exit. Lanes of a handler only leave the handler, once its accesses to other packages are
over: its loads write no register that is restored, and its stores are visible when it ends (23 R428-R429). -/
def Env.exitLanes (e : Env) (p : Pkg) : Res :=
  if e.inHandler p then
    if e.outstanding p true true then Res.wait e.orig .mem else
    let p := e.modWarp p (fun w =>
      { (w.modSplit e.is.sp (fun s => s.advance e.npc)).exitLanes e.is.sp e.act with exited := w.exited })
    ⟨p.handlerOver e.is.core e.is.slot e.is.w, [], .own⟩
  else
  let p := e.modWarp p (fun w =>
    let w := (w.modSplit e.is.sp (fun s => s.advance e.npc)).exitLanes e.is.sp e.act
    if w.live = 0 then { w with exitAt := some ⟨e.pc, e.npc, e.is.sp, e.exec⟩ } else w)
  let cs : List Charge := match e.warp p with
    | some w => if w.live = 0 then w.uncharged else []
    | none => []
  match cs with
  | _ :: _ =>
    ⟨(p.chargeExit e.is.core e.is.slot e.is.w cs).afterExit e.is.core e.is.slot e.is.w, [], .stall⟩
  | [] =>
    let p := if (e.mySplit p).mask = 0 ∧ (e.mySplit p).pend.isSome then
      p.takeTrap e.is.core e.is.slot e.is.w e.is.sp else p
    ⟨p.afterExit e.is.core e.is.slot e.is.w, [], .own⟩

/-- The core's matrix unit is free again: the context that waited longest takes it next (11 R259). -/
def Matrix.leave (_ : Matrix) (waiters : List Nat) : Matrix := { Matrix.reset with waiters := waiters }

/-- An armature ends (11 R270): once its matrix instructions have completed and classes 2, 4 and 6 are zero,
it gives the matrix unit back and its context is over. -/
def Env.endArm (e : Env) (p : Pkg) : Res :=
  match e.warp p with
  | none => Res.ok p
  | some w =>
    let k := p.core e.is.core
    if k.mx.ops.any (fun o => o.slot == e.is.slot) then Res.wait e.orig .engine
    else if w.count 2 ≠ 0 ∨ w.count 4 ≠ 0 ∨ w.count 6 ≠ 0 then Res.wait e.orig (.count 2)
    else
      let p := p.modCore e.is.core (fun k =>
        if k.mx.owner = some e.is.slot then { k with mx := k.mx.leave k.mx.waiters } else k)
      let p := p.modBlock e.is.core e.is.slot (fun b => { b with armEnded := true })
      e.exitLanes p

/-- `exit` (08 R194); on the armature it acts as `arm.end`. -/
def execExit (g : Guard) (s : State) : Host.Outcome State Fault Refusal :=
  perform { Form.wa g [] with ends := fun _ => true } (fun e p =>
    if e.arm then e.endArm p else e.exitLanes p) s

/-- `ret` (08 R194). -/
def execRet (g : Guard) (s : State) : Host.Outcome State Fault Refusal :=
  perform { Form.wa g [] with ends := fun d => d == 0 } (fun e p =>
    match (e.mySplit p).cstack.getLast? with
    | none => if e.arm then e.endArm p else e.exitLanes p
    | some t =>
      let pop (s : Split) : Split := { s.advance t with cstack := s.cstack.dropLast }
      if e.act = e.exec then ⟨e.modSplit p pop, [], .own⟩
      else e.split p t e.npc 0 pop) s

/-! ## Split control -/

/-- `yield` (08 R195): the YIELD hint of R161 on itself. -/
def execYield (g : Guard) (s : State) : Host.Outcome State Fault Refusal :=
  perform (Form.w g []) (fun e p => Res.ok (e.modSplit p Split.yield)) s

/-- `wsync` (08 R196): the split parks at this instruction; parked splits merge and go on when an issue
decision settles the warp. -/
def execWsync (g : Guard) (s : State) : Host.Outcome State Fault Refusal :=
  perform { Form.w g [] with ends := fun _ => true } (fun e p =>
    ⟨e.modSplit p (fun s => { s with pfx := Pfx.none }), [], .park ⟨.wsync, 0, false, [e.npc], none⟩⟩) s

/-- `split.id` (08 R195). -/
def execSplitId (g : Guard) (d : Operand) (s : State) : Host.Outcome State Fault Refusal :=
  laneForm (Form.w g [(.dst .w32, d)]) d (fun e _ _ => [BitVec.ofNat 32 e.is.sp]) s

/-- `split.mask` (08 R195). -/
def execSplitMask (g : Guard) (d : Operand) (s : State) : Host.Outcome State Fault Refusal :=
  laneForm (Form.w g [(.dst .w32, d)]) d (fun e _ _ => [e.exec]) s

/-! ## Sleep and no-op (08 R205) -/

/-- `sleep`: a is taken once, from the lowest lane (12 R275); the deadline is absolute. -/
def execSleep (g : Guard) (a : Operand) (s : State) : Host.Outcome State Fault Refusal :=
  perform { Form.wa g [(.src .w32, a)] with once := true } (fun e p =>
    match e.resume with
    | some ⟨.sleep t, m, r, ws, x⟩ =>
      if r || decide (t.toNat ≤ p.ptime.toNat) then Res.ok p else ⟨p, [], .block ⟨.sleep t, m, r, ws, x⟩⟩
    | _ =>
      match e.warp p with
      | none => Res.ok p
      | some w =>
        let n := min (e.rd32 w a e.lead).toNat 1000000
        if n = 0 then Res.ok (e.modSplit p Split.yield)
        else ⟨p, [], .block (Wait.of (.sleep (p.ptime + BitVec.ofNat 64 n)))⟩) s

/-- `nop` (08 R205). -/
def execNop (g : Guard) (s : State) : Host.Outcome State Fault Refusal :=
  perform { Form.wa g [] with region := true } (fun _ p => Res.ok p) s

/-- `arm.end` (11 R270). -/
def execArmEnd (g : Guard) (s : State) : Host.Outcome State Fault Refusal :=
  perform { Form.wa g [] with warp := false } (fun e p => e.endArm p) s

end Sys2Proof.Machine
end

