-- ==== Sys2Proof/Machine/Flags.lean ====
section
/-!
DEFINITION. Floating-point arithmetic (03_number_formats.md R59-R79, 09_isa_floating.md R209-R230): values of
the formats, exact results, the one rounding, and the flags that each operation raises.
-/

namespace Sys2Proof.Machine

/-! ## Flags (03 R70-R71) -/

/-- The five flags of R70: NV, DZ, OF, UF, NX in bits 4-0. -/
abbrev FFlags := BitVec 5

/-- Invalid operation. -/
def flagNV : FFlags := 16
/-- Division by zero. -/
def flagDZ : FFlags := 8
/-- Overflow. -/
def flagOF : FFlags := 4
/-- Underflow. -/
def flagUF : FFlags := 2
/-- Inexact. -/
def flagNX : FFlags := 1

/-- A flag when a condition holds. -/
def flagIf (b : Bool) (f : FFlags) : FFlags := if b then f else 0

/-! ## Formats (03 R59-R61) -/

/-- A floating format: exponent and fraction bits, bias, the largest finite magnitude, and what encodes an
infinity or a NaN. -/
structure Fmt where
  ebits : Nat
  fbits : Nat
  bias : Nat
  maxFin : Nat
  inf : Option Nat
  nan : Option Nat
  /-- NaNs with a clear fraction MSB are signalling (R59); narrow NaNs never are (R62) -/
  signals : Bool
  deriving DecidableEq, Repr

/-- FP64. -/
def f64 : Fmt := ⟨11, 52, 1023, 0x7FEFFFFFFFFFFFFF, some 0x7FF0000000000000, some 0x7FF8000000000000, true⟩
/-- FP32. -/
def f32 : Fmt := ⟨8, 23, 127, 0x7F7FFFFF, some 0x7F800000, some 0x7FC00000, true⟩
/-- FP16. -/
def f16 : Fmt := ⟨5, 10, 15, 0x7BFF, some 0x7C00, some 0x7E00, true⟩
/-- BF16. -/
def bf16 : Fmt := ⟨8, 7, 127, 0x7F7F, some 0x7F80, some 0x7FC0, true⟩
/-- E4M3. -/
def e4m3 : Fmt := ⟨4, 3, 7, 0x7E, none, some 0x7F, false⟩
/-- E5M2. -/
def e5m2 : Fmt := ⟨5, 2, 15, 0x7B, some 0x7C, some 0x7E, false⟩
/-- E3M2. -/
def e3m2 : Fmt := ⟨3, 2, 3, 0x1F, none, none, false⟩
/-- E2M1. -/
def e2m1 : Fmt := ⟨2, 1, 1, 0x7, none, none, false⟩

/-- Bits of a format, sign included. -/
def Fmt.width (f : Fmt) : Nat := f.ebits + f.fbits + 1

/-- The least exponent of a format: the weight of the last bit of a subnormal. -/
def Fmt.qmin (f : Fmt) : Int := 1 - (f.bias : Int) - f.fbits

/-- The sign bit as a number. -/
def Fmt.signBit (f : Fmt) (neg : Bool) : Nat := if neg then 2 ^ (f.ebits + f.fbits) else 0

/-- A value: a NaN, an infinity, or (-1)^neg × m × 2^e. -/
inductive Fp where
  | nan (signalling : Bool)
  | inf (neg : Bool)
  | fin (neg : Bool) (m : Nat) (e : Int)
  deriving DecidableEq, Repr

/-- The value of an encoding. -/
def Fmt.decode (f : Fmt) (v : Nat) : Fp :=
  let neg := v.testBit (f.ebits + f.fbits)
  let mag := v % 2 ^ (f.ebits + f.fbits)
  let e := mag / 2 ^ f.fbits
  let m := mag % 2 ^ f.fbits
  if mag ≤ f.maxFin then
    if e = 0 then .fin neg m f.qmin else .fin neg (m + 2 ^ f.fbits) (f.qmin + (e - 1 : Nat))
  else if f.inf = some mag then .inf neg
  else .nan (f.signals && !(m.testBit (f.fbits - 1)))

/-- The canonical NaN (R74); +0 where the format has none. -/
def Fmt.nanBits (f : Fmt) : Nat := f.nan.getD 0

/-- A zero. -/
def Fmt.zeroBits (f : Fmt) (neg : Bool) : Nat := f.signBit neg

/-- The largest finite value with a sign. -/
def Fmt.maxBits (f : Fmt) (neg : Bool) : Nat := f.signBit neg + f.maxFin

/-- An infinity, the largest finite value where the format has none. -/
def Fmt.infBits (f : Fmt) (neg : Bool) : Nat := f.signBit neg + f.inf.getD f.maxFin

namespace Fp

/-- The value is a NaN. -/
def isNan : Fp → Bool
  | .nan _ => true
  | _ => false

/-- The value is a signalling NaN. -/
def isSnan : Fp → Bool
  | .nan s => s
  | _ => false

/-- The value is a zero. -/
def isZero : Fp → Bool
  | .fin _ m _ => m == 0
  | _ => false

/-- The value is an infinity. -/
def isInf : Fp → Bool
  | .inf _ => true
  | _ => false

/-- The sign. -/
def neg : Fp → Bool
  | .nan _ => false
  | .inf s => s
  | .fin s _ _ => s

/-- The value with the sign inverted. -/
def flip : Fp → Fp
  | .nan s => .nan s
  | .inf s => .inf (!s)
  | .fin s m e => .fin (!s) m e

end Fp

/-! ## Rounding (03 R68-R69, R71) -/

/-- Round m × 2^e, with `sticky` when the exact magnitude lies between it and (m + 1) × 2^e, to a multiple of
2^q: the multiple and whether it is inexact. -/
def roundAt (rm : RM) (neg : Bool) (m : Nat) (e : Int) (sticky : Bool) (q : Int) : Nat × Bool :=
  if q ≤ e then
    let n := m * 2 ^ (e - q).toNat
    if sticky then
      (match rm with | .ru => if neg then n else n + 1 | .rd => if neg then n + 1 else n | _ => n, true)
    else (n, false)
  else
    let s := (q - e).toNat
    let n := m / 2 ^ s
    let r := m % 2 ^ s
    let h := 2 ^ (s - 1)
    let inexact := r != 0 || sticky
    let up : Bool := match rm with
      | .rne => decide (h < r) || (r == h && (sticky || n % 2 == 1))
      | .rz => false
      | .ru => inexact && !neg
      | .rd => inexact && neg
    (if up then n + 1 else n, inexact)

/-- a × 2^i < b × 2^j. -/
def ltScaled (a : Nat) (i : Int) (b : Nat) (j : Int) : Bool :=
  if i ≤ j then decide (a < b * 2 ^ (j - i).toNat) else decide (a * 2 ^ (i - j).toNat < b)

/-- What an overflow delivers (03 R77): the IEEE result of the mode, the largest finite value, or a NaN. -/
inductive Over where
  | ieee | sat | nan
  deriving DecidableEq, Repr

/-- An overflow's result. -/
def Fmt.overBits (f : Fmt) (o : Over) (rm : RM) (neg : Bool) : Nat :=
  match o with
  | .sat => f.maxBits neg
  | .nan => f.nanBits
  | .ieee =>
    (match rm with
     | .rne => f.infBits neg
     | .rz => f.maxBits neg
     | .ru => if neg then f.maxBits neg else f.infBits neg
     | .rd => if neg then f.infBits neg else f.maxBits neg)

/-- Round a nonzero exact magnitude to a format: the encoding and the flags OF, UF and NX of R71. With
`sticky`, m has at least two bits more than the format's significand. -/
def Fmt.round (f : Fmt) (o : Over) (rm : RM) (neg : Bool) (m : Nat) (e : Int) (sticky : Bool) : Nat × FFlags :=
  let qu : Int := Nat.log2 m + e - f.fbits
  let u := (roundAt rm neg m e sticky qu).1
  let big := f.maxFin % 2 ^ f.fbits + 2 ^ f.fbits
  let bigE : Int := f.qmin + (f.maxFin / 2 ^ f.fbits - 1 : Nat)
  if ltScaled big bigE u qu then (f.overBits o rm neg, flagOF ||| flagNX)
  else
    let q := max qu f.qmin
    let r := roundAt rm neg m e sticky q
    let tiny := ltScaled u qu (2 ^ f.fbits) f.qmin
    (f.signBit neg + ((q - f.qmin).toNat * 2 ^ f.fbits + r.1),
      flagIf (tiny && r.2) flagUF ||| flagIf r.2 flagNX)

/-- Round an exact value that may be zero; a zero keeps the sign given. -/
def Fmt.roundZ (f : Fmt) (o : Over) (rm : RM) (neg : Bool) (m : Nat) (e : Int) (sticky : Bool) :
    Nat × FFlags :=
  if m = 0 then (f.zeroBits neg, 0) else f.round o rm neg m e sticky

/-- An exact sum of signed terms, at the least of their exponents. -/
def exactSum (ts : List (Bool × Nat × Int)) : Int × Int :=
  let ts := ts.filter (fun t => t.2.1 != 0)
  let e := ts.foldl (fun a t => min a t.2.2) (match ts with | [] => 0 | t :: _ => t.2.2)
  (ts.foldl (fun s t =>
    let v : Int := (t.2.1 * 2 ^ (t.2.2 - e).toNat : Nat)
    if t.1 then s - v else s + v) 0, e)

/-- Round an exact sum: a sum that is zero is the zero of `zneg`, otherwise of R69. -/
def Fmt.roundSum (f : Fmt) (rm : RM) (allNegZero allPosZero : Bool) (ts : List (Bool × Nat × Int)) :
    Nat × FFlags :=
  let s := exactSum ts
  if s.1 = 0 then
    (f.zeroBits (if allNegZero then true else if allPosZero then false else rm == .rd), 0)
  else f.round .ieee rm (decide (s.1 < 0)) s.1.natAbs s.2 false

/-! ## Arithmetic (09 R209-R215) -/

/-- NV for a signalling operand. -/
def snanFlag (vs : List Fp) : FFlags := flagIf (vs.any Fp.isSnan) flagNV

/-- The fused multiply-add of exact values: a × b + c rounded once (09 R210). -/
def Fmt.fma (f : Fmt) (rm : RM) (a b c : Fp) : Nat × FFlags :=
  let nv := snanFlag [a, b, c]
  let zi := (a.isZero && b.isInf) || (a.isInf && b.isZero)
  if zi then (f.nanBits, nv ||| flagNV)
  else if a.isNan || b.isNan || c.isNan then (f.nanBits, nv)
  else
    let ps := a.neg != b.neg
    if a.isInf || b.isInf then
      if c.isInf && c.neg != ps then (f.nanBits, flagNV) else (f.infBits ps, 0)
    else
      match a, b, c with
      | _, _, .inf s => (f.infBits s, 0)
      | .fin _ ma ea, .fin _ mb eb, .fin sc mc ec =>
        let zeros := ma * mb == 0 && mc == 0
        f.roundSum rm (zeros && ps && sc) (zeros && !ps && !sc) [(ps, ma * mb, ea + eb), (sc, mc, ec)]
      | _, _, _ => (f.nanBits, 0)

/-- The value 1. -/
def Fp.one : Fp := .fin false 1 0

/-- Addition (09 R209). -/
def Fmt.add (f : Fmt) (rm : RM) (a b : Fp) : Nat × FFlags := f.fma rm a Fp.one b

/-- Multiplication (09 R209). -/
def Fmt.mul (f : Fmt) (rm : RM) (a b : Fp) : Nat × FFlags :=
  let nv := snanFlag [a, b]
  let s := a.neg != b.neg
  if (a.isZero && b.isInf) || (a.isInf && b.isZero) then (f.nanBits, nv ||| flagNV)
  else if a.isNan || b.isNan then (f.nanBits, nv)
  else
    match a, b with
    | .fin _ ma ea, .fin _ mb eb => f.roundZ .ieee rm s (ma * mb) (ea + eb) false
    | _, _ => (f.infBits s, 0)

/-- Division (09 R211). -/
def Fmt.div (f : Fmt) (rm : RM) (a b : Fp) : Nat × FFlags :=
  let nv := snanFlag [a, b]
  let s := a.neg != b.neg
  if a.isNan || b.isNan then (f.nanBits, nv)
  else
    match a, b with
    | .inf _, .inf _ => (f.nanBits, flagNV)
    | .inf _, _ => (f.infBits s, 0)
    | _, .inf _ => (f.zeroBits s, 0)
    | .fin _ ma ea, .fin _ mb eb =>
      if mb = 0 then (if ma = 0 then (f.nanBits, flagNV) else (f.infBits s, flagDZ))
      else if ma = 0 then (f.zeroBits s, 0)
      else
        let k := f.fbits + 4 + Nat.log2 mb
        let n := ma * 2 ^ k
        f.round .ieee rm s (n / mb) (ea - eb - k) (n % mb != 0)
    | _, _ => (f.nanBits, 0)

/-- The integer square root of n below 4^k, by bits from the top. -/
def isqrtFrom (n : Nat) : Nat → Nat → Nat
  | 0, r => r
  | k + 1, r =>
    let t := r + 2 ^ k
    isqrtFrom n k (if t * t ≤ n then t else r)

/-- The integer square root. -/
def isqrt (n : Nat) : Nat := isqrtFrom n (Nat.log2 n / 2 + 1) 0

/-- Square root (09 R216). -/
def Fmt.sqrt (f : Fmt) (rm : RM) (a : Fp) : Nat × FFlags :=
  match a with
  | .nan s => (f.nanBits, flagIf s flagNV)
  | .inf true => (f.nanBits, flagNV)
  | .inf false => (f.infBits false, 0)
  | .fin neg m e =>
    if m = 0 then (f.zeroBits neg, 0)
    else if neg then (f.nanBits, flagNV)
    else
      let odd := e % 2 != 0
      let m := if odd then 2 * m else m
      let e := if odd then e - 1 else e
      let k := f.fbits + 4
      let n := m * 2 ^ (2 * k)
      let r := isqrt n
      f.round .ieee rm false r (e / 2 - k) (r * r != n)

/-- a × 2^n (09 R212); the amount is bounded first, which changes no result. -/
def Fmt.scale (f : Fmt) (rm : RM) (a : Fp) (n : Int) : Nat × FFlags :=
  match a with
  | .nan s => (f.nanBits, flagIf s flagNV)
  | .inf s => (f.infBits s, 0)
  | .fin neg m e => f.roundZ .ieee rm neg m (e + max (-6000) (min 6000 n)) false

/-- Order of encodings of a format, negative zero equal to positive zero. -/
def Fmt.key (f : Fmt) (v : Nat) : Int :=
  let mag : Int := (v % 2 ^ (f.ebits + f.fbits) : Nat)
  if v.testBit (f.ebits + f.fbits) then -mag else mag

/-- minimumNumber and maximumNumber (03 R75). -/
def Fmt.minmax (f : Fmt) (isMax : Bool) (x y : Nat) : Nat × FFlags :=
  let a := f.decode x
  let b := f.decode y
  let nv := snanFlag [a, b]
  if a.isNan && b.isNan then (f.nanBits, nv)
  else if a.isNan then (y, nv)
  else if b.isNan then (x, nv)
  else
    let xLow := decide (f.key x < f.key y) || (f.key x == f.key y && a.neg)
    (if xLow then (if isMax then y else x) else (if isMax then x else y), 0)

/-- A floating compare (07 R169, 03 R71). -/
def Fmt.cmp (f : Fmt) (c : Cmp) (x y : Nat) : Bool × FFlags :=
  let a := f.decode x
  let b := f.decode y
  let un := a.isNan || b.isNan
  let kx := f.key x
  let ky := f.key y
  (match c with
   | .eq => !un && kx == ky
   | .ne => un || kx != ky
   | .lt => !un && decide (kx < ky)
   | .le => !un && decide (kx ≤ ky)
   | .gt => !un && decide (ky < kx)
   | .ge => !un && decide (ky ≤ kx)
   | .any => un
   | .none => !un, snanFlag [a, b])

/-- The sign operations of R76. -/
def Fmt.negate (f : Fmt) (x : Nat) : Nat :=
  if x.testBit (f.ebits + f.fbits) then x - 2 ^ (f.ebits + f.fbits) else x + 2 ^ (f.ebits + f.fbits)

/-- The sign bit cleared. -/
def Fmt.absolute (f : Fmt) (x : Nat) : Nat := x % 2 ^ (f.ebits + f.fbits)

/-- Round to an integer in a format (09 R217); NX only where `nx` asks for it. -/
def Fmt.toIntegral (f : Fmt) (rm : RM) (nx : Bool) (x : Nat) : Nat × FFlags :=
  match f.decode x with
  | .nan s => (f.nanBits, flagIf s flagNV)
  | .inf _ => (x, 0)
  | .fin neg m e =>
    if m = 0 then (x, 0)
    else
      let r := roundAt rm neg m e false 0
      ((f.roundZ .ieee rm neg r.1 0 false).1, flagIf (nx && r.2) flagNX)

/-- The class mask (09 R218). -/
def Fmt.classMask (f : Fmt) (x : Nat) : Nat :=
  match f.decode x with
  | .nan true => 1
  | .nan false => 2
  | .inf true => 4
  | .inf false => 512
  | .fin neg m _ =>
    if m = 0 then (if neg then 32 else 64)
    else if m < 2 ^ f.fbits then (if neg then 16 else 128)
    else (if neg then 8 else 256)

/-- getexp (09 R219). -/
def Fmt.getexp (f : Fmt) (x : Nat) : Nat × FFlags :=
  match f.decode x with
  | .nan s => (f.nanBits, flagIf s flagNV)
  | .inf _ => (f.infBits false, 0)
  | .fin _ m e =>
    if m = 0 then (f.infBits true, flagDZ)
    else
      let l : Int := Nat.log2 m + e
      ((f.roundZ .ieee .rne (decide (l < 0)) l.natAbs 0 false).1, 0)

/-- getmant (09 R219). -/
def Fmt.getmant (f : Fmt) (x : Nat) : Nat × FFlags :=
  match f.decode x with
  | .nan s => (f.nanBits, flagIf s flagNV)
  | .inf _ => (f.nanBits, flagNV)
  | .fin neg m _ =>
    if m = 0 then (x, 0) else ((f.roundZ .ieee .rne neg m (-(Nat.log2 m : Int)) false).1, 0)

/-! ## Conversions (03 R77-R79) -/

/-- A value to a floating format (R77, R78): the saturation control chooses what an overflow delivers. -/
def Fmt.convert (f : Fmt) (o : Over) (rm : RM) (a : Fp) : Nat × FFlags :=
  match a with
  | .nan s => (f.nanBits, flagIf (s || f.nan.isNone) flagNV)
  | .inf s =>
    if f.inf.isSome then (f.infBits s, 0)
    else if o == .nan then (f.nanBits, flagNV)
    else (f.maxBits s, flagOF ||| flagNX)
  | .fin neg m e => f.roundZ o rm neg m e false

/-- What the saturation control of `pfx.mod` makes of a target's overflow (R77). -/
def Fmt.over (f : Fmt) (sat : Bool) : Over :=
  if f.nan.isNone then .sat
  else if f.inf.isNone then (if sat then .nan else .sat)
  else if sat then .sat else .ieee

/-- A value to an integer of a range (R79). -/
def toInteger (rm : RM) (lo hi : Int) (a : Fp) : Int × FFlags :=
  match a with
  | .nan _ => (0, flagNV)
  | .inf s => (if s then lo else hi, flagNV)
  | .fin neg m e =>
    -- magnitudes from 2^70 up are outside every range
    if m != 0 && decide (70 ≤ Nat.log2 m + e) then (if neg then lo else hi, flagNV)
    else
      let r := roundAt rm neg m e false 0
      let v : Int := if neg then -(r.1 : Int) else r.1
      if v < lo then (lo, flagNV) else if hi < v then (hi, flagNV) else (v, flagIf r.2 flagNX)

/-- An integer to a format. -/
def Fmt.ofInt (f : Fmt) (rm : RM) (i : Int) : Nat × FFlags :=
  f.roundZ .ieee rm (decide (i < 0)) i.natAbs 0 false

/-- The value of a k8 scale byte (R65). -/
def k8Value (b : Nat) : Fp :=
  if b = 0 then .fin false 0 0
  else if b = 255 then .nan false
  else .fin false (4 + b % 4) ((b / 4 : Nat) - 33)

/-! ## Dot products (09 R225-R226) -/

/-- The sum of products and an accumulator, rounded once to a format. A zero sum is −0 only where every term
is a negative zero, or in RD (R226). -/
def Fmt.dot (f : Fmt) (rm : RM) (c : Fp) (ps : List (Fp × Fp)) : Nat × FFlags :=
  let nv := snanFlag (c :: ps.flatMap (fun p => [p.1, p.2]))
  let zi := ps.any (fun p => (p.1.isZero && p.2.isInf) || (p.1.isInf && p.2.isZero))
  let infs := (if c.isInf then [c.neg] else []) ++
    (ps.filter (fun p => (p.1.isInf || p.2.isInf) && !(p.1.isNan || p.2.isNan))).map (fun p => p.1.neg != p.2.neg)
  if zi || (infs.contains true && infs.contains false) then (f.nanBits, nv ||| flagNV)
  else if c.isNan || ps.any (fun p => p.1.isNan || p.2.isNan) then (f.nanBits, nv)
  else
    match infs with
    | s :: _ => (f.infBits s, 0)
    | [] =>
        let term : Fp → Bool × Nat × Int := fun v => match v with | .fin s m e => (s, m, e) | _ => (false, 0, 0)
        let ts := term c :: ps.map (fun p =>
          let a := term p.1
          let b := term p.2
          (a.1 != b.1, a.2.1 * b.2.1, a.2.2 + b.2.2))
        let zeros := ts.all (fun t => t.2.1 == 0)
        f.roundSum rm (zeros && ts.all (fun t => t.1)) false ts

/-! ## Approximate functions (09 R221-R223)

The result is a free value inside the bound that R221 states (log 7): `Config.estimate` where it lies between
the bounds, else a value between them. The bounds are computed in fixed point with 480 fraction bits and drawn in by
`fixErr`, which is above the error of the computation: no representable value lies that near to a bound. -/

/-- Fraction bits of the fixed-point numbers. -/
def fixS : Nat := 480

/-- 2^-440 in fixed point: above the error of a function computed here, below the distance of a value of FP32 from a bound. -/
def fixErr : Int := 2 ^ 40

/-- The natural logarithm of 2 in fixed point. -/
def fixLn2 : Int :=
  0xb17217f7d1cf79abc9e3b39803f2f6af40f343267298b62d8a0d175b8baafa2be7b876206debac98559552fb4afa1b10ed2eae35c138214427573b29

/-- 2π in fixed point. -/
def fix2Pi : Int :=
  0x6487ed5110b4611a62633145c06e0e68948127044533e63a0105df531d89cd9128a5043cc71a026ef7ca8cd9e69d218d98158536f92f8a1ba7f09ab6b

/-- x × 2^i ≤ y × 2^j for integers. -/
def leScaled (x : Int) (i : Int) (y : Int) (j : Int) : Bool :=
  if i ≤ j then decide (x ≤ y * 2 ^ (j - i).toNat) else decide (x * 2 ^ (i - j).toNat ≤ y)

/-- A free value of format f between lo × 2^e and hi × 2^e. -/
def Fmt.within (f : Fmt) (fn : Nat) (x : Nat) (lo hi e : Int) : Nat :=
  let c := (Config.estimate fn (BitVec.ofNat 64 x)).toNat % 2 ^ f.width
  let ok : Bool := match f.decode c with
    | .fin s m ce =>
      let v : Int := if s then -(m : Int) else m
      leScaled lo e v ce && leScaled v ce hi e
    | _ => false
  if ok then c
  else
    let mid := lo + hi
    (f.roundZ .sat .rne (decide (mid < 0)) mid.natAbs (e - 1) false).1

/-- Terms t, t y / k, ... of a series in fixed point: Σ from k of y^k / k! times the first term, n terms. -/
def fixSeries (y : Int) (step : Int → Int) : Nat → Int → Int → Int → Int
  | 0, _, _, acc => acc
  | n + 1, k, t, acc => fixSeries y step n (step k) (t * y / 2 ^ fixS / k) (acc + t)

/-- e^y in fixed point, |y| at most 1. -/
def fixExp (y : Int) : Int := fixSeries y (fun k => k + 1) 100 1 (2 ^ fixS) 0

/-- 2^x in fixed point: an exponent and a mantissa in [1, 2). -/
def fixExp2 (x : Int) : Int × Int :=
  let n := x / 2 ^ fixS
  (n, fixExp ((x - n * 2 ^ fixS) * fixLn2 / 2 ^ fixS))

/-- The sum t - t z / (k (k + 1)) + ..., z the square of the argument. -/
def fixAlt (z : Int) : Nat → Int → Int → Int → Int
  | 0, _, _, acc => acc
  | n + 1, k, t, acc => fixAlt z n (k + 2) (-(t * z / 2 ^ fixS / (k * (k + 1)))) (acc + t)

/-- sin r in fixed point, |r| at most 4. -/
def fixSin (r : Int) : Int := fixAlt (r * r / 2 ^ fixS) 60 2 r 0

/-- cos r in fixed point. -/
def fixCos (r : Int) : Int := fixAlt (r * r / 2 ^ fixS) 60 1 (2 ^ fixS) 0

/-- The fraction bits of log2 t for t in [1, 2), by repeated squaring. -/
def fixLog : Nat → Int → Int → Int
  | 0, _, acc => acc
  | n + 1, t, acc =>
    let s := t * t / 2 ^ fixS
    if 2 ^ (fixS + 1) ≤ s then fixLog n (s / 2) (2 * acc + 1) else fixLog n s (2 * acc)

/-- m × 2^e in fixed point. -/
def fixOf (m : Nat) (e : Int) : Int :=
  if 0 ≤ e + fixS then (m : Int) * 2 ^ (e + fixS).toNat else (m : Int) / 2 ^ (-(e + fixS)).toNat

/-- The argument of sin and cos reduced to a period (R223 above 2^15). -/
def fixReduce (m : Nat) (e : Int) : Int :=
  if ltScaled (2 ^ 15) 0 m e then
    let c : Nat := 0x1921FB54442D18
    let a := m * 2 ^ (e + 50).toNat
    let q := a / c
    let r := a % c
    let k := if c < 2 * r ∨ (2 * r = c ∧ q % 2 = 1) then q + 1 else q
    ((a : Int) - k * c) * 2 ^ (fixS - 50)
  else
    let x := fixOf m e
    let k := (2 * x + fix2Pi) / (2 * fix2Pi)
    x - k * fix2Pi

/-- rsq.est: 1 ÷ √a within 2 ulp. The root is `r` or lies between `r` and `r + 1`, where no value of the format lies. Where the
root is a power of two the ulp is the gap above it, on both sides (log 99, DESIGN CHOICE). -/
def Fmt.rsqEst (f : Fmt) (fn x : Nat) : Nat × FFlags :=
  match f.decode x with
  | .nan s => (f.nanBits, flagIf s flagNV)
  | .inf true => (f.nanBits, flagNV)
  | .inf false => (0, 0)
  | .fin neg m e =>
    if m = 0 then (f.infBits neg, flagDZ)
    else if neg then (f.nanBits, flagNV)
    else
      let odd := e % 2 != 0
      let m := if odd then 2 * m else m
      let e := if odd then e - 1 else e
      let k : Nat := 150
      let r : Int := (isqrt (2 ^ (2 * k) / m) : Nat)
      let ulp2 : Int := 2 ^ (Nat.log2 r.natAbs - f.fbits + 1)
      let part : Int := if r * r * m = 2 ^ (2 * k) then 0 else 1
      (f.within fn x (r + part - ulp2) (r + ulp2) (-(k : Int) - e / 2), 0)

/-- exp2.est.f32: an integer argument gives an exact result from 2^-126 up, and exact bounds below. -/
def exp2Est (x : Nat) : Nat × FFlags :=
  match f32.decode x with
  | .nan s => (f32.nanBits, flagIf s flagNV)
  | .inf s => (if s then 0 else f32.infBits false, 0)
  | .fin neg m e =>
    if m = 0 then ((f32.ofInt .rne 1).1, 0)
    else if ltScaled 200 0 m e then
      (if neg then f32.within 2 x 0 1 (-149) else f32.infBits false, 0)
    else
      let a := if neg then -(fixOf m e) else fixOf m e
      if 128 * 2 ^ fixS ≤ a then (f32.infBits false, 0)
      else
        let whole := a % 2 ^ fixS == 0
        let y := fixExp2 a
        if whole && decide (-126 ≤ y.1) then ((f32.roundZ .ieee .rne false 1 y.1 false).1, 0)
        else
          let w : Int := if y.1 < -126 then 2 ^ (-149 - y.1 + fixS).toNat else 2 ^ (fixS - 22)
          let w := if whole then w else w - fixErr
          (f32.within 2 x (y.2 - w) (y.2 + w) (y.1 - fixS), 0)

/-- log2.est.f32: the logarithm lies between `v` and `v + 1`, where no candidate of FP32 lies. -/
def log2Est (x : Nat) : Nat × FFlags :=
  match f32.decode x with
  | .nan s => (f32.nanBits, flagIf s flagNV)
  | .inf s => if s then (f32.nanBits, flagNV) else (f32.infBits false, 0)
  | .fin neg m e =>
    if m = 0 then (f32.infBits true, flagDZ)
    else if neg then (f32.nanBits, flagNV)
    else
      let l := Nat.log2 m
      let n : Int := l + e
      if m = 2 ^ l then ((f32.ofInt .rne n).1, 0)
      else
        let frac := fixLog 64 ((m : Int) * 2 ^ (fixS - l)) 0
        let v : Int := n * 2 ^ 64 + frac
        let near := decide (n = 0 ∨ n = -1)
        let mag := if v < 0 then (v + 1).natAbs else v.natAbs
        let w : Int := if near then 2 ^ 42 else 2 ^ (Nat.log2 mag - 22)
        (f32.within 3 x (v + 1 - w) (v + w) (-64), 0)

/-- The estimate of the sine or cosine of `r`, in fixed point: a free value of function `fn` and key `key`, inside the bound and in
[-1, 1]. -/
def trigAt (cosine : Bool) (fn key : Nat) (r : Int) : Nat :=
  let v := if cosine then fixCos r else fixSin r
  let w : Int := 2 ^ (fixS - 21) - fixErr
  let one : Int := 2 ^ fixS
  f32.within fn key (max (-one) (v - w)) (min one (v + w)) (-fixS)

/-- sin.est.f32 and cos.est.f32. Beyond 2^15 the result is a function of the reduced argument (R223): that of its FP32 value
where it has one. -/
def trigEst (cosine : Bool) (x : Nat) : Nat × FFlags :=
  match f32.decode x with
  | .nan s => (f32.nanBits, flagIf s flagNV)
  | .inf _ => (f32.nanBits, flagNV)
  | .fin neg m e =>
    if m = 0 then (if cosine then (f32.ofInt .rne 1).1 else x, 0)
    else
      let r := fixReduce m e
      let r := if neg then -r else r
      let fn := if cosine then 5 else 4
      if ltScaled (2 ^ 15) 0 m e then
        let r50 := r / 2 ^ (fixS - 50)
        let y := f32.roundZ .sat .rne (decide (r < 0)) r50.natAbs (-50) false
        if y.2 = 0 then (trigAt cosine fn y.1 r, 0)
        else (trigAt cosine (fn + 3) (r50 % 2 ^ 64).toNat r, 0)
      else (trigAt cosine fn x r, 0)

/-- tanh.est.f32. -/
def tanhEst (x : Nat) : Nat × FFlags :=
  match f32.decode x with
  | .nan s => (f32.nanBits, flagIf s flagNV)
  | .inf s => (f32.signBit s + (f32.ofInt .rne 1).1, 0)
  | .fin neg m e =>
    if m = 0 then (x, 0)
    else if !ltScaled m e 9 0 then (f32.signBit neg + (f32.ofInt .rne 1).1, 0)
    else
      let y := fixExp2 (2 * fixOf m e * 2 ^ fixS / fixLn2)
      let big := y.2 * 2 ^ y.1.toNat
      let v := (big - 2 ^ fixS) * 2 ^ fixS / (big + 2 ^ fixS)
      let w := v / 2 ^ 21 - fixErr
      let lo := if neg then -(v + w) else v - w
      let hi := if neg then -(v - w) else v + w
      (f32.within 6 x lo hi (-fixS), 0)

end Sys2Proof.Machine
end

