-- ==== Sys2Proof/Machine/Lane.lean ====
section
/-!
DEFINITION. Lane exchange, votes and reductions, integer compares and predicates
(08_isa_integer_control.md R186-R190).
-/

namespace Sys2Proof.Machine

/-! ## Lane exchange (08 R186) -/

/-- Each lane reads a of the lane that `src` gives, where that lane is in `exec`, else its own a. -/
def laneRead (src : Nat → Word → Option Nat) (g : Guard) (d a b : Operand) (s : State) :
    Host.Outcome State Fault Refusal :=
  laneForm (Form.w g [(.dst .w32, d), (.src .w32, a), (.src .w32, b)]) d (fun e w l =>
    match src l (e.rd32 w b l) with
    | some k => if e.act.getLsbD k then [e.rd32 w a k] else [e.rd32 w a l]
    | none => [e.rd32 w a l]) s

/-- A lane number from a sum, when it is one. -/
def laneOfInt (i : Int) : Option Nat := if 0 ≤ i ∧ i ≤ 31 then some i.toNat else none

/-- `lx.from` (08 R186). -/
def execLxFrom (g : Guard) (d a b : Operand) (s : State) : Host.Outcome State Fault Refusal :=
  laneRead (fun _ b => some (b.toNat % 32)) g d a b s

/-- `lx.mix` (08 R186). -/
def execLxMix (g : Guard) (d a b : Operand) (s : State) : Host.Outcome State Fault Refusal :=
  laneRead (fun l b => some (l ^^^ (b.toNat % 32))) g d a b s

/-- `lx.back` (08 R186): the distance is signed. -/
def execLxBack (g : Guard) (d a b : Operand) (s : State) : Host.Outcome State Fault Refusal :=
  laneRead (fun l b => laneOfInt (l - b.toInt)) g d a b s

/-- `lx.fwd` (08 R186): the distance is unsigned. -/
def execLxFwd (g : Guard) (d a b : Operand) (s : State) : Host.Outcome State Fault Refusal :=
  laneRead (fun l b => laneOfInt (l + b.toNat)) g d a b s

/-! ## Votes and reductions (08 R187) -/

/-- A result of every lane from the a of all lanes in `exec`. -/
def laneVote (f : List (Nat × Word) → Nat → Word) (g : Guard) (d a : Operand) (s : State) :
    Host.Outcome State Fault Refusal :=
  laneForm (Form.w g [(.dst .w32, d), (.src .w32, a)]) d (fun e w l =>
    [f (e.lanes.map (fun k => (k, e.rd32 w a k))) l]) s

/-- Combine the values of the lanes with an operation. -/
def reduce (op : Word → Word → Word) (vs : List (Nat × Word)) : Word :=
  match vs with
  | [] => 0
  | v :: t => t.foldl (fun x y => op x y.2) v.2

/-- The mask of the lanes whose value satisfies a test. -/
def voteMask (t : Word → Bool) (vs : List (Nat × Word)) : Word :=
  maskOfList ((vs.filter (fun v => t v.2)).map Prod.fst)

/-- `xl.all` (08 R187). -/
def execXlAll (g : Guard) (d a : Operand) (s : State) : Host.Outcome State Fault Refusal :=
  laneVote (fun vs _ => boolWord (vs.all (fun v => v.2 != 0))) g d a s

/-- `xl.any` (08 R187). -/
def execXlAny (g : Guard) (d a : Operand) (s : State) : Host.Outcome State Fault Refusal :=
  laneVote (fun vs _ => boolWord (vs.any (fun v => v.2 != 0))) g d a s

/-- `xl.bits` (08 R187). -/
def execXlBits (g : Guard) (d a : Operand) (s : State) : Host.Outcome State Fault Refusal :=
  laneVote (fun vs _ => voteMask (fun x => x != 0) vs) g d a s

/-- `xl.same` (08 R187). -/
def execXlSame (g : Guard) (d a : Operand) (s : State) : Host.Outcome State Fault Refusal :=
  laneVote (fun vs _ => boolWord (vs.all (fun v => v.2 == (vs.map Prod.snd).headD 0))) g d a s

/-- `xl.peers` (08 R187). -/
def execXlPeers (g : Guard) (d a : Operand) (s : State) : Host.Outcome State Fault Refusal :=
  laneVote (fun vs l =>
    match vs.find? (fun v => v.1 == l) with
    | some own => voteMask (fun x => x == own.2) vs
    | none => 0) g d a s

/-- `xl.add.i32` (08 R187). -/
def execXlAddI32 (g : Guard) (d a : Operand) (s : State) : Host.Outcome State Fault Refusal :=
  laneVote (fun vs _ => reduce (fun x y => x + y) vs) g d a s

/-- `xl.min.i32` (08 R187). -/
def execXlMinI32 (g : Guard) (d a : Operand) (s : State) : Host.Outcome State Fault Refusal :=
  laneVote (fun vs _ => reduce (fun x y => if y.slt x then y else x) vs) g d a s

/-- `xl.max.i32` (08 R187). -/
def execXlMaxI32 (g : Guard) (d a : Operand) (s : State) : Host.Outcome State Fault Refusal :=
  laneVote (fun vs _ => reduce (fun x y => if x.slt y then y else x) vs) g d a s

/-- `xl.and` (08 R187). -/
def execXlAnd (g : Guard) (d a : Operand) (s : State) : Host.Outcome State Fault Refusal :=
  laneVote (fun vs _ => reduce (fun x y => x &&& y) vs) g d a s

/-- `xl.or` (08 R187). -/
def execXlOr (g : Guard) (d a : Operand) (s : State) : Host.Outcome State Fault Refusal :=
  laneVote (fun vs _ => reduce (fun x y => x ||| y) vs) g d a s

/-- `xl.xor` (08 R187). -/
def execXlXor (g : Guard) (d a : Operand) (s : State) : Host.Outcome State Fault Refusal :=
  laneVote (fun vs _ => reduce (fun x y => x ^^^ y) vs) g d a s

/-- `xl.below` (08 R187). -/
def execXlBelow (g : Guard) (d : Operand) (s : State) : Host.Outcome State Fault Refusal :=
  laneForm (Form.w g [(.dst .w32, d)]) d (fun _ _ l => [BitVec.ofNat 32 (2 ^ l - 1)]) s

/-! ## Compares (08 R188, 07 R169) -/

/-- An integer compare of any width. -/
def cmpInt {n : Nat} (signed : Bool) (c : Cmp) (a b : BitVec n) : Bool :=
  let lt := if signed then a.slt b else a.ult b
  let gt := if signed then b.slt a else b.ult a
  match c with
  | .eq => a == b
  | .ne => a != b
  | .lt => lt
  | .le => !gt
  | .gt => gt
  | .ge => !lt
  | .any => a &&& b != 0
  | .none => a &&& b == 0

/-- Write a compare's answer to its destination for a lane (07 R157). -/
def Warp.setCmp (w : Warp) (p : CDst) (l : Nat) (r : Bool) : Warp :=
  match p with
  | .discard => w
  | .one k => w.setPred k l r
  | .two k => (w.setPred ⟨2 * k.val, by omega⟩ l r).setPred ⟨2 * k.val + 1, by omega⟩ l (!r)

/-- The constraint that a compare in a region records where exactly one operand carries a tag of the
compare's width (10 R251); otherwise what is tagged is concretized. -/
def regionCompare (e : Env) (w : Warp) (k : OpW) (kind : CmpKind) (c : Cmp) (a b : Operand) (l : Nat)
    (ans : Bool) (g : Region) : Except (Nat × Nat) Region :=
  let tagsOf (o : Operand) : List ArTag := match o with | .reg r => g.tagsOn r.val k.regs | _ => []
  let tagOf (o : Operand) : Option ArTag := match o with | .reg r => g.tagAt r.val k.regs | _ => none
  let val (o : Operand) : DWord := e.rdv w k o l
  match tagOf a, tagOf b with
  | some t, none =>
    if (tagsOf b).isEmpty then g.addCon ⟨t, c, kind, true, val b, ans⟩ else g.concretizeAll (tagsOf a ++ tagsOf b)
  | none, some t =>
    if (tagsOf a).isEmpty then g.addCon ⟨t, c, kind, false, val a, ans⟩ else g.concretizeAll (tagsOf a ++ tagsOf b)
  | _, _ => g.concretizeAll (tagsOf a ++ tagsOf b)

/-- Run the region side of a compare for every lane with a region: the lanes that abort, and the package
with the constraints of the others. -/
def Env.regionEach (e : Env) (p : Pkg) (f : Warp → Nat → Region → Except (Nat × Nat) Region) :
    List (Nat × Word) × Pkg :=
  match e.warp p with
  | none => ([], p)
  | some w =>
    let rs := e.lanes.filterMap (fun l => (w.regions.find? l).map (fun g => (l, f w l g)))
    (rs.filterMap (fun x => match x.2 with
        | .error (reason, ix) => some (x.1, arStatus 0 ix false false reason)
        | .ok _ => none),
     e.modWarp p (fun w => rs.foldl (fun w x => match x.2 with
        | .ok g => { w with regions := KMap.insert x.1 g w.regions }
        | .error _ => w) w))

/-- The flags that lanes raise, together. -/
def flagsOf (fl : List (Nat × BitVec 5)) : BitVec 5 := fl.foldl (fun m x => m ||| x.2) 0

/-- The lanes that raise an enabled flag take cause 0x28, with AUX the enabled flags that the instruction raised (03 R72). -/
def Warp.fpTraps (w : Warp) (fl : List (Nat × BitVec 5)) : List LFault :=
  (fl.filter (fun x => x.2 &&& w.fptrap != 0)).map (fun x =>
    LFault.of x.1 0x28 0 ((flagsOf fl &&& w.fptrap).setWidth 16))

/-- Set the floating flags that lanes raise (03 R70). -/
def Env.setFlags (e : Env) (p : Pkg) (fl : List (Nat × BitVec 5)) : Pkg :=
  e.modWarp p (fun w => { w with fpflags := w.fpflags ||| flagsOf fl })

/-- A compare in predicates: the answers of `ans`, the flags of `fl`, and the region constraints. -/
def compare (f : Form) (p : CDst) (k : OpW) (kind : CmpKind) (c : Cmp) (a b : Operand)
    (ans : Env → Warp → Nat → Bool) (fl : Env → Warp → Nat → BitVec 5) (s : State) :
    Host.Outcome State Fault Refusal :=
  perform f (fun e pk =>
    match e.warp pk with
    | none => Res.ok pk
    | some w =>
      let rg := e.regionEach pk (fun w l g => regionCompare e w k kind c a b l (ans e w l) g)
      if rg.1 ≠ [] then ⟨e.abortHere e.orig rg.1, [], .stall⟩
      else
        let p1 := e.modWarp rg.2 (fun w' => forLanes e.act (fun l w' => w'.setCmp p l (ans e w l)) w')
        let fs := e.lanes.map (fun l => (l, fl e w l))
        ⟨e.setFlags p1 fs, w.fpTraps fs, .seq⟩) s

/-- No flag is raised. -/
def noFlags (_ : Env) (_ : Warp) (_ : Nat) : BitVec 5 := 0

/-- The form of an integer compare. -/
def cmpForm (g : Guard) (k : OpW) (a b : Operand) : Form :=
  { Form.wa g [(.src k, a), (.src k, b)] with region := true, tag := .own }

/-- `setp.i32` (08 R188). -/
def execSetpI32 (g : Guard) (p : CDst) (c : Cmp) (a b : Operand) (s : State) :
    Host.Outcome State Fault Refusal :=
  compare (cmpForm g .w32 a b) p .w32 .int c a b
    (fun e w l => cmpInt true c (e.rd32 w a l) (e.rd32 w b l)) noFlags s

/-- `setp.n32` (08 R188). -/
def execSetpN32 (g : Guard) (p : CDst) (c : Cmp) (a b : Operand) (s : State) :
    Host.Outcome State Fault Refusal :=
  compare (cmpForm g .w32 a b) p .w32 .nat c a b
    (fun e w l => cmpInt false c (e.rd32 w a l) (e.rd32 w b l)) noFlags s

/-- `setp.i64` (08 R188). -/
def execSetpI64 (g : Guard) (p : CDst) (c : Cmp) (a b : Operand) (s : State) :
    Host.Outcome State Fault Refusal :=
  compare (cmpForm g .w64 a b) p .w64 .int c a b
    (fun e w l => cmpInt true c (e.rd64 w a l) (e.rd64 w b l)) noFlags s

/-- `setp.n64` (08 R188). -/
def execSetpN64 (g : Guard) (p : CDst) (c : Cmp) (a b : Operand) (s : State) :
    Host.Outcome State Fault Refusal :=
  compare (cmpForm g .w64 a b) p .w64 .nat c a b
    (fun e w l => cmpInt false c (e.rd64 w a l) (e.rd64 w b l)) noFlags s

/-! ## Predicate logic (08 R189-R190) -/

/-- A predicate field of a lane: code 7 reads as true. -/
def Warp.psel (w : Warp) (x : PSel) (l : Nat) : Bool :=
  match x with
  | .p n => w.pred n l
  | .pt => true

/-- Write a predicate field of a lane: code 7 discards. -/
def Warp.setPsel (w : Warp) (x : PSel) (l : Nat) (b : Bool) : Warp :=
  match x with
  | .p n => w.setPred n l b
  | .pt => w

/-- pd := f of a lane, for every lane in `exec`. -/
def predForm (g : Guard) (d : PSel) (f : Warp → Nat → Bool) (s : State) : Host.Outcome State Fault Refusal :=
  perform { Form.wa g [] with region := true } (fun e p =>
    Res.ok (e.modWarp p (fun w => forLanes e.act (fun l w' => w'.setPsel d l (f w l)) w))) s

/-- `pand` (08 R189). -/
def execPand (g : Guard) (p x y : PSel) (s : State) : Host.Outcome State Fault Refusal :=
  predForm g p (fun w l => w.psel x l && w.psel y l) s

/-- `por` (08 R189). -/
def execPor (g : Guard) (p x y : PSel) (s : State) : Host.Outcome State Fault Refusal :=
  predForm g p (fun w l => w.psel x l || w.psel y l) s

/-- `pxor` (08 R189). -/
def execPxor (g : Guard) (p x y : PSel) (s : State) : Host.Outcome State Fault Refusal :=
  predForm g p (fun w l => w.psel x l != w.psel y l) s

/-- `pandn` (08 R189). -/
def execPandn (g : Guard) (p x y : PSel) (s : State) : Host.Outcome State Fault Refusal :=
  predForm g p (fun w l => w.psel x l && !w.psel y l) s

/-- `porn` (08 R189). -/
def execPorn (g : Guard) (p x y : PSel) (s : State) : Host.Outcome State Fault Refusal :=
  predForm g p (fun w l => w.psel x l || !w.psel y l) s

/-- `pnot` (08 R189). -/
def execPnot (g : Guard) (p x : PSel) (s : State) : Host.Outcome State Fault Refusal :=
  predForm g p (fun w l => !w.psel x l) s

/-- `pmov` (08 R189). -/
def execPmov (g : Guard) (p x : PSel) (s : State) : Host.Outcome State Fault Refusal :=
  predForm g p (fun w l => w.psel x l) s

/-- `pset` (08 R189). -/
def execPset (g : Guard) (p : PSel) (s : State) : Host.Outcome State Fault Refusal :=
  predForm g p (fun _ _ => true) s

/-- `pclr` (08 R189). -/
def execPclr (g : Guard) (p : PSel) (s : State) : Host.Outcome State Fault Refusal :=
  predForm g p (fun _ _ => false) s

/-- `p2v` (08 R190). -/
def execP2v (g : Guard) (d : Operand) (s : State) : Host.Outcome State Fault Refusal :=
  laneForm { Form.wa g [(.dst .w32, d)] with region := true } d
    (fun _ w l => [(w.predBits l).setWidth 32]) s

/-- `v2p` (08 R190). -/
def execV2p (g : Guard) (a : Operand) (s : State) : Host.Outcome State Fault Refusal :=
  perform { Form.wa g [(.src .w32, a)] with region := true } (fun e p =>
    Res.ok (e.modWarp p (fun w => forLanes e.act (fun l w' =>
      w'.setPredBits l ((e.rd32 w a l).setWidth 7)) w))) s

/-- `pmask` (08 R190): the mask of the lanes of `exec` whose predicate is true; on the armature 1 or 0. -/
def execPmask (g : Guard) (d : Operand) (k : PReg) (s : State) : Host.Outcome State Fault Refusal :=
  laneForm (Form.wa g [(.dst .w32, d)]) d (fun e w _ => [e.act &&& w.preds.get k]) s

end Sys2Proof.Machine
end

