-- ==== Sys2Proof/Machine/Access.lean ====
section
/-!
DEFINITION. What the memory forms share: widths, address checks of step 9 (24_instruction_exceptions.md R433),
loads and stores of one lane, watchpoints, class counters, pod-remote requests and the logs of atomic regions
(10_isa_memory.md R231-R234, R250-R251).
-/

namespace Sys2Proof.Machine

/-! ## Widths (10 R233) -/

/-- Bytes of a width. -/
def widthBytes : Width → Nat
  | .u8 | .s8 => 1
  | .u16 | .s16 => 2
  | .w32 => 4
  | .w64 => 8
  | .w128 => 16

/-- The operand width that a width takes. -/
def widthOp : Width → OpW
  | .w64 => .w64
  | .w128 => .w128
  | _ => .w32

/-- Bytes as the words a load delivers. -/
def loadWords (wd : Width) (bs : List Byte) : List Word :=
  let v := ofBytes bs
  match wd with
  | .s8 => [(BitVec.ofNat 8 v).signExtend 32]
  | .s16 => [(BitVec.ofNat 16 v).signExtend 32]
  | .w64 => [BitVec.ofNat 32 v, BitVec.ofNat 32 (v / 2 ^ 32)]
  | .w128 => (List.range 4).map (fun i => BitVec.ofNat 32 (v / 2 ^ (32 * i)))
  | _ => [BitVec.ofNat 32 v]

/-- Words as one number, first word lowest. -/
def wordsNat : List Word → Nat
  | [] => 0
  | v :: t => v.toNat + 2 ^ 32 * wordsNat t

/-- The bytes that a store of a width takes from its words. -/
def storeBytes (wd : Width) (ws : List Word) : List Byte := bytesOf (widthBytes wd) (wordsNat ws)

/-! ## Addresses (10 R231) -/

/-- The global address of a lane. -/
def Env.gaddr (e : Env) (w : Warp) (a : Operand) (l : Nat) : DWord := e.rd64 w a l + e.off

/-- The scratchpad address of a lane. -/
def Env.saddr (e : Env) (w : Warp) (a : Operand) (l : Nat) : Word := e.rd32 w a l + e.off.setWidth 32

/-- Step 9 for a global address up to its translation: bits [63:56], alignment, walk, permission. -/
def Env.reach (e : Env) (p : Pkg) (va : DWord) (n : Nat) (acc : Acc) : Except Nat (Pkg × Xl) :=
  if 2 ^ 56 ≤ va.toNat then .error 0x09
  else if va.toNat % n ≠ 0 then .error 0x08
  else p.xlate e.is.core (e.ctx p) va acc

/-- AUX of a version cause: the region number (23 R414). -/
def verAux (c : Nat) (x : Xl) : BitVec 16 :=
  if 0x0C ≤ c ∧ c ≤ 0x0F then (match x.ver with | some (k, _, _) => BitVec.ofNat 16 (k % 16) | none => 0) else 0

/-- The behaviour of a policy on a page (10 R234). -/
def Xl.policy (x : Xl) (pol : Policy) : Policy := if x.nc || x.ver.isSome then .l2 else pol

/-! ## Watchpoints (17 R390-R391) -/

/-- A watchpoint of the core matches an access of n bytes. -/
def Pkg.watched (p : Pkg) (c asid : Nat) (va : DWord) (n : Nat) (wr : Bool) : Bool :=
  (p.core c).wps.any (fun e =>
    let ctl := (e.2.getD 2 0).toNat
    let lg := if bits ctl 29 24 ≤ 12 then bits ctl 29 24 else 12
    let base := (pair (e.2.getD 0 0) (e.2.getD 1 0)).toNat / 2 ^ lg * 2 ^ lg
    (if wr then bit ctl 30 else bit ctl 31) && decide (ctl % 65536 = asid) &&
      decide (base < va.toNat + n ∧ va.toNat < base + 2 ^ lg))

/-- The watchpoint fault of a lane, after its access (17 R391). -/
def Env.watch (e : Env) (p : Pkg) (l : Nat) (va : DWord) (n : Nat) (rd wr : Bool) : List LFault :=
  let asid := (e.ctx p).asid
  if (rd && p.watched e.is.core asid va n false) || (wr && p.watched e.is.core asid va n true) then
    [LFault.of l 0x21 va]
  else []

/-! ## Class counters (06 R141, 10 R232) -/

/-- An operation of a class begins; `done` when it has been performed. -/
def Warp.beginOp (w : Warp) (cls id : Nat) (done : Bool) : Warp :=
  { w.modCount cls (· + 1) with ops := w.ops ++ [⟨cls, id, done, []⟩] }

/-- The armature counts only classes 2, 4 and 6. -/
def Env.counts? (e : Env) (cls : Nat) : Bool := !e.arm || cls == 2 || cls == 4 || cls == 6

/-- The counter of a class is full: the operation waits to issue (06 R141). -/
def Env.classFull (e : Env) (w : Warp) (cls : Nat) : Bool := e.counts? cls && decide (63 ≤ w.count cls)

/-- Count an operation, when a lane of it was performed. -/
def Env.countOp (e : Env) (p : Pkg) (cls id : Nat) (any done : Bool) : Pkg :=
  if any && e.counts? cls then e.modWarp p (fun w => w.beginOp cls id done) else p

/-! ## Pod-remote requests (04 R99, 16 R370) -/

/-- The destination of a lane's load as a register and a count. -/
def Warp.destOf (w : Warp) (o : Operand) (n l : Nat) : Option (Nat × Nat) := (w.regOf o l).map (fun r => (r, n))

/-- The port on which requests to a line leave (16 R370): bits [11:8] of the address, else the next one up. None
while no port is up or the link is not enabled. -/
def Pkg.route (p : Pkg) (pa : Nat) : Option Nat :=
  if !p.link.linken then none
  else ((List.range 16).map (fun i => (pa / 256 + i) % 16)).find? (fun k => p.link.portUp.getLsbD k)

/-- The queue that an operand names. -/
def queueOf : Operand → Option Nat
  | .q n => some n.val
  | _ => none

/-- What a request will write: registers, and a predicate (07 R155). -/
def Pod.awaited (x : Pod) : List Nat :=
  (match x.dst with | some (d, n) => (List.range n).map (fun i => 32 * (d + i) + x.lane) | none => []) ++
    (if x.chk.isSome then [predBusy x.lane] else [])

/-- Send a pod-remote request; what it will write is busy until it ends (07 R155). -/
def Env.sendPod (e : Env) (p : Pkg) (op l kind : Nat) (va : DWord) (pa : Nat) (wd : Width)
    (dst : Option (Nat × Nat)) (data : List Word) (aop : Option AtomOp) (qd : Option Nat := none) (chk : Option PReg := none) :
    Pkg :=
  let r : Pod := ⟨e.is.core, e.is.slot, e.is.w, l, op, kind, e.pc, e.npc, va, pa, wd, dst, data, aop, qd, chk, p.route pa, p.ptime, (e.ctx p).asid⟩
  let p := { p with nextId := p.nextId + 1, pods := KMap.insert p.nextId r p.pods }
  if r.awaited = [] then p else e.modWarp p (fun w => { w with busy := w.busy ++ r.awaited })

/-- A pod-remote line is held after a time-out (25 R459). -/
def Pkg.held (p : Pkg) (pa : Nat) : Bool := (p.heldLines.find? (pa / 256)).isSome

/-! ## Back-off on contended lines (04 R97) -/

/-- A waiting split has its turn: it leaves the batch, or is granted the line, and up to 31 others that wait then are the
batch. -/
def Pkg.grant (p : Pkg) (d line : Nat) (who : Nat × Nat × Nat × Nat) : Pkg :=
  let b := p.backAt d line
  if b.batch.contains who then p.setBack d line { b with batch := b.batch.filter (fun x => x != who) }
  else p.startBatch d line who

/-- The executing split as a back-off knows it. -/
def Env.who (e : Env) : Nat × Nat × Nat × Nat := (e.is.core, e.is.slot, e.is.w, e.is.sp)

/-- A request for some lines in M on behalf of the executing split: none where it has them all, or the first line that is
contended, with the deadline and the lines that it had its turn on. `kept` is the line it waits for, with the same. -/
def Env.turn (e : Env) (p : Pkg) (kept : Option (Nat × List DWord)) (lines : List Nat) : Pkg × Option (Nat × List DWord) :=
  let d := dieOfCore e.is.core
  let go (p : Pkg) (had : List DWord) : Pkg × Option (Nat × List DWord) :=
    let left := lines.filter (fun l => !had.contains (BitVec.ofNat 64 l))
    match left.find? (fun l => p.batchElse d l || (p.contended d l).isSome) with
    | some l => (match p.contended d l with
        | some t => (p.double d l, some (l, t :: had))
        | none => (p, some (l, p.ptime :: had)))
    | none => (left.foldl (fun p l => (p.noWait d l).startBatch d l e.who) p, none)
  match kept with
  | some (l, t :: had) =>
    if (p.backAt d l).batch.contains e.who || (decide (t.toNat ≤ p.ptime.toNat) && !p.batchElse d l) then
      go (p.grant d l e.who) (BitVec.ofNat 64 l :: had)
    else (p, some (l, t :: had))
  | _ => go p []

/-- The back-off of an atomic's lines: none, or the wait for the first line that is contended. -/
def Env.backOff (e : Env) (p : Pkg) (lines : List Nat) : Pkg × Option Wait :=
  let kept := match e.resume with
    | some ⟨.back l, _, _, ws, _⟩ => some (l, ws)
    | _ => none
  let r := e.turn p kept lines
  (r.1, r.2.map (fun x => ⟨.back x.1, 0, false, x.2, none⟩))

/-- No line is held or contended and every die serves its directory. -/
def Pkg.calm (p : Pkg) : Bool :=
  p.heldLines.isEmpty && p.dies.all (fun d => !d.2.inReset && !d.2.rebuild && d.2.backoff.isEmpty)

/-- A lane's address leads to a die that does not serve its directory, or to a line that another die does not yield yet: the
instruction waits (25 R458, 04 R97). -/
def Env.lineHeld (e : Env) (p : Pkg) (w : Warp) (a : Operand) : Bool :=
  !p.calm && e.lanes.any (fun l =>
    match p.xlate e.is.core (e.ctx p) (e.gaddr w a l) .load with
    | .ok (p', x) => (match p'.plainPa x with
      | some a => p'.barred (dieOfCore e.is.core) a
      | none => false)
    | .error c => c == 0)

/-- A lane's address leads to a pod-remote line that is held: its access waits, and no other lane's (25 R459). -/
def Env.podHeld (e : Env) (p : Pkg) (w : Warp) (a : Operand) (l : Nat) : Bool :=
  !p.heldLines.isEmpty &&
    (match p.xlate e.is.core (e.ctx p) (e.gaddr w a l) .load with
     | .ok (p', x) => x.loc.isNone && p'.held x.pa
     | .error _ => false)

/-- A pod-remote access ended by a time-out is counted (16 R371). -/
def Pkg.countTimeout (p : Pkg) : Pkg := { p with link := { p.link with timeouts := p.link.timeouts + 1 } }

/-- Poison reported for a pod-remote access (25 R453): UE_SRC 0x08 in the die's block, with the address of the sector (R448). -/
def Pkg.podPoison (p : Pkg) (d : Nat) (pa : Nat) : Pkg :=
  p.modDie d (fun k => { k with merr := { k.merr with
    uePa := BitVec.ofNat 64 (pa / 64 * 64), ueSrc := 0x08, uePtime := p.ptime } })

/-- What a pod-remote access of an engine meets (16 R371, 25 R459). -/
inductive Remote where
  | value (p : Pkg) (bs : List Byte)
  | fail (p : Pkg) (cause : Nat)
  | wait (p : Pkg)

/-- The time-out of an access without a response: its line is then held for its port (25 R459). -/
def Pkg.silence (p : Pkg) (pa : Nat) (port : Option Nat) : Pkg :=
  match port with
  | some k => { p.countTimeout with heldLines := KMap.insert (pa / 256) (p.heldLines.getD (pa / 256) [] ++ [(k, false)]) p.heldLines }
  | none => p.countTimeout

/-- What a master that waits keeps of a try: the access that it sent. -/
def Pkg.waiting (p q : Pkg) : Pkg := { p with sent := q.sent }

/-- The number of a master at a die (4 for an X-die): an operation of an engine, a packet, or a split. -/
def masterOf (die : Nat) : Nat × Nat → Nat
  | (kind, id) => die + 8 * (4 * id + kind)

/-- A master of an operation with a number of its own. -/
def opMaster (die id : Nat) : Nat := masterOf die (1, id)

/-- A packet of a queue as a master. -/
def packetMaster (q n : Nat) : Nat := masterOf 4 (2, 2 ^ 32 * q + n)

/-- A split as a master. -/
def splitMaster (c b w sp : Nat) : Nat := masterOf (dieOfCore c) (3, ((64 * c + b) * 64 + w) * 64 + sp)

/-- A pod-remote access of n bytes by a master that is not a lane (16 R371), of number d: what the other package holds and whether it
answers is open (log 32). It may answer, stay silent until it times out, be refused by its switch plane, be denied (27 R485),
or report poison. -/
def Pkg.remote (p : Pkg) (d pa n : Nat) : Remote :=
  match p.sent.find? (2 ^ 60 * d + pa) with
  | some (t, k) =>
    if p.ptime.toNat < t.toNat + 20000 then .wait p
    else .fail ({ p with sent := KMap.erase (2 ^ 60 * d + pa) p.sent }.silence pa k) 0x27
  | none =>
    if p.held pa then .wait p
    else
      match p.route pa, Config.choice p.tick (pa / 4) % 5 with
      | none, _ => .wait { p with sent := KMap.insert (2 ^ 60 * d + pa) (p.ptime, none) p.sent }
      | _, 0 => .value p ((List.range n).map (fun i => Config.freeByte p.tick (pa + i)))
      | some k, 1 => .wait { p with sent := KMap.insert (2 ^ 60 * d + pa) (p.ptime, some k) p.sent }
      | _, 2 => .fail p.countTimeout 0x27
      | _, 3 => .fail p 0x0A
      | _, _ => .fail (p.podPoison (d % 4) pa) 0x1C

/-! ## Per-lane folds -/

/-- Lanes of an instruction performed one after another: the package, the lanes that fault, whether a lane
was performed, the lanes performed with the watchpoint faults that they leave behind and the words that they write to a
queue, the copies that lanes need first, and the lanes that wait for a held line. -/
structure Acts where
  pkg : Pkg
  faults : List LFault
  any : Bool
  done : Mask
  seen : List LFault
  words : List (Nat × List Word)
  cows : List Cow
  late : Mask

/-- Nothing performed yet. -/
def Acts.start (p : Pkg) : Acts := ⟨p, [], false, 0, [], [], [], 0⟩

/-- A lane faults. -/
def Acts.fault (a : Acts) (f : LFault) : Acts := { a with faults := a.faults ++ [f] }

/-- A lane was performed, with the faults it leaves behind. -/
def Acts.did (a : Acts) (p : Pkg) (fs : List LFault) : Acts := { a with pkg := p, any := true, seen := a.seen ++ fs }

/-- A lane was sent to another package; a watchpoint looks at its access once that is performed (17 R391). -/
def Acts.sent (a : Acts) (p : Pkg) : Acts := { a with pkg := p, any := true }

/-- A lane needs a copy of its page first (05 R118). -/
def Acts.needs (a : Acts) (q : Cow) : Acts := { a with cows := a.cows ++ [q] }

/-- A lane of an instruction, noted when it was performed. -/
def Acts.lane (a : Acts) (l : Nat) (f : Acts → Acts) : Acts :=
  let b := f { a with any := false }
  { b with any := a.any || b.any, done := if b.any then b.done ||| laneBit l else b.done }

/-- The lanes of an instruction that are not performed yet; one whose line is held waits. -/
def Acts.each (x : Acts) (e : Env) (w : Warp) (a : Operand) (f : Acts → Nat → Acts) : Acts :=
  (e.lanes.filter (fun l => !x.done.getLsbD l)).foldl (fun (x : Acts) l =>
    if e.podHeld x.pkg w a l then { x with late := x.late ||| laneBit l } else x.lane l (fun x => f x l)) x

/-! An instruction of which some lanes wait keeps its number and what its other lanes left: how many watchpoint faults, each
by its lane and address, and the words that they write to a queue. -/

/-- What a wait keeps of the lanes performed. -/
def Acts.data (x : Acts) (op : Nat) : List DWord :=
  [BitVec.ofNat 64 op, BitVec.ofNat 64 x.seen.length] ++ x.seen.flatMap (fun f => [BitVec.ofNat 64 f.lane, f.addr]) ++
    packWords (x.words.map (fun v => (v.1, v.2.headD 0)))

/-- Pairs of a lane and a value. -/
def unpackPairs : List DWord → List (Nat × DWord)
  | l :: v :: t => (l.toNat, v) :: unpackPairs t
  | _ => []

/-- The number and the lanes performed, from what a wait kept. -/
def Wait.acts (x : Wait) (p : Pkg) : Option (Nat × Acts) :=
  match x.kind, x.data with
  | .cow _, op :: n :: t | .mem, op :: n :: t =>
    some (op.toNat, { Acts.start p with
      done := x.done, any := x.done != 0
      seen := (unpackPairs (t.take (2 * n.toNat))).map (fun y => LFault.of y.1 0x21 y.2)
      words := (unpackWords (t.drop (2 * n.toNat))).map (fun y => (y.1, [y.2])) })
  | _, _ => none

/-- The instruction goes on with the lanes that waited. -/
def Env.begun (e : Env) (p : Pkg) : Option (Nat × Acts) := e.resume.bind (fun x => x.acts p)

/-! ## Region logs (10 R250-R251) -/

/-- The value of a tag from the loads' values. -/
def ArTag.eval (t : ArTag) (vals : List DWord) : DWord :=
  let v := (vals.getD t.sym 0 <<< t.s) + t.c
  if t.wide then v else (v.setWidth 32).setWidth 64

/-- The address of a logged store. -/
def ArStore.addr (s : ArStore) (vals : List DWord) : DWord :=
  match s.vtag with | some t => t.eval vals | none => s.va

/-- The data bytes of a logged store. -/
def ArStore.bytesAt (s : ArStore) (vals : List DWord) : List Byte :=
  bytesOf s.bytes (match s.dtag with | some t => (t.eval vals).toNat | none => s.data.toNat)

/-- Lay a store over bytes that begin at an address. -/
def overlay (va : Nat) (bs : List Byte) (sa : Nat) (data : List Byte) : List Byte :=
  bs.zipIdx.map (fun x => if sa ≤ va + x.2 ∧ va + x.2 < sa + data.length then data.getD (va + x.2 - sa) 0 else x.1)

/-- Bytes as a region load sees them: memory with the first n logged stores laid over it. -/
def Region.seen (g : Region) (vals : List DWord) (n : Nat) (va : Nat) (bs : List Byte) : List Byte :=
  (g.stores.take n).foldl (fun bs s => overlay va bs (s.addr vals).toNat (s.bytesAt vals)) bs

/-- The symbols of the symbolic store addresses that a load overlaps. -/
def Region.overlapped (g : Region) (va n : Nat) : List Nat :=
  g.stores.filterMap (fun s => match s.vtag with
    | some t => if s.va.toNat < va + n ∧ va < s.va.toNat + s.bytes then some t.sym else none
    | none => none)

/-- Concretize symbols in order. -/
def Region.concretizeSyms (g : Region) : List Nat → Except (Nat × Nat) Region
  | [] => .ok g
  | s :: ss =>
    match g.concretize s with
    | .ok g => g.concretizeSyms ss
    | .error x => .error x

/-- What a lane of a region access answers: the package and region after, an abort, or a fault. -/
inductive ArRes where
  | ok (p : Pkg) (g : Region) (ws : List Word)
  | abort (reason ix : Nat)
  | fault (cause : Nat)

/-- The tags that a register operand meets. -/
def tagsIn (g : Region) (o : Operand) (n : Nat) : List ArTag :=
  match o with | .reg r => g.tagsOn r.val n | _ => []

/-- The tag of exactly a register operand. -/
def tagOn (g : Region) (o : Operand) (n : Nat) : Option ArTag :=
  match o with | .reg r => g.tagAt r.val n | _ => none

/-- Step 9 of a region access: the page must be plain package memory without poison. -/
def Env.regionPage (e : Env) (p : Pkg) (va : DWord) (n : Nat) (acc : Acc) : Except (Option Nat) (Pkg × Nat) :=
  match e.reach p va n acc with
  | .error c => .error (some c)
  | .ok (p, x) =>
    match x.loc with
    | none => .error none
    | some a =>
      if x.nc || x.ver.isSome then .error none
      else if p.poisoned a then .error (some 0x1C)
      else .ok (p, a)

/-- A region load of a lane (10 R250). -/
def Env.regionLoad (e : Env) (p : Pkg) (w : Warp) (l : Nat) (g : Region) (wd : Width) (a : Operand) : ArRes :=
  match g.concretizeAll (tagsIn g a 2) with
  | .error (r, i) => .abort r i
  | .ok g =>
    let va := e.gaddr w a l
    let n := widthBytes wd
    match e.regionPage p va n .load with
    | .error none => .abort 0x08 0
    | .error (some c) => .fault c
    | .ok (p, pa) =>
      if 8 ≤ g.loads.length then .abort 0x02 8
      else
        let p := p.toL2 e.is.core pa false
        let vals := g.loads.map (fun x => x.value)
        let bs := g.seen vals g.stores.length va.toNat (p.readMem pa n)
        let v := BitVec.ofNat 64 (ofBytes bs)
        let j := g.loads.length
        let tagged := wd == .w32 || wd == .w64
        let hit := g.overlapped va.toNat n
        let ld : ArLoad := ⟨va, pa, n, v, v, false, g.stores.length⟩
        let g : Region := { g with loads := g.loads ++ [ld] }
        match g.concretizeSyms (hit ++ (if tagged then [] else [j])) with
        | .error (r, i) => .abort r i
        | .ok g => .ok p g (loadWords wd bs)

/-- A region store of a lane (10 R251): held in the log until commit. -/
def Env.regionStore (e : Env) (p : Pkg) (w : Warp) (l : Nat) (g : Region) (wd : Width) (d a : Operand) : ArRes :=
  let va := e.gaddr w a l
  let n := widthBytes wd
  let at_ := tagOn g a 2
  let dt := if wd == .w32 || wd == .w64 then tagOn g d (widthOp wd).regs else none
  let conc := (if at_.isSome then [] else tagsIn g a 2) ++
    (if dt.isSome then [] else tagsIn g d (widthOp wd).regs)
  match e.regionPage p va n .store with
  | .error none => .abort 0x08 0
  | .error (some c) => .fault c
  | .ok (p, _) =>
    if 8 ≤ g.stores.length then .abort 0x03 8
    else
      match g.concretizeAll conc with
      | .error (r, i) => .abort r i
      | .ok g =>
        let data := BitVec.ofNat 64 (wordsNat (e.rdWords w (widthOp wd).regs d l) % 2 ^ (8 * n))
        let st : ArStore := ⟨at_.map (fun t => { t with c := t.c + e.off }), va, n, dt, data⟩
        .ok p { g with stores := g.stores ++ [st] } []

/-- Fold a region access of a lane into what the instruction has done. -/
def Acts.region (a : Acts) (e : Env) (l : Nat) (r : ArRes) (f : Warp → List Word → Region → Warp) (va : DWord)
    (n : Nat) (wr : Bool) : Acts :=
  match r with
  | .abort reason ix => a.fault (LFault.abortOf l (arStatus 0 ix false false reason))
  | .fault c => a.fault (LFault.of l c va)
  | .ok p g ws =>
    let p := e.modWarp p (fun w => f w ws g)
    a.did p (e.watch p l va n (!wr) wr)

end Sys2Proof.Machine
end

