-- ==== Sys2Proof/Machine/Memory.lean ====
section
/-!
DEFINITION. Loads, stores, versioned loads, ordered accesses, atomics and fences
(10_isa_memory.md R233-R244).
-/

namespace Sys2Proof.Machine

/-! ## Global loads and stores (10 R233-R234) -/

/-- Write the words of a load to its destination register; any other d discards them. -/
def Warp.land (w0 w : Warp) (d : Operand) (l : Nat) (ws : List Word) : Warp :=
  match w0.regOf d l with
  | some r => w.wrList r l ws
  | none => w

/-- The tag of a fresh region load (10 R250). -/
def Warp.tagLoad (w0 w : Warp) (d : Operand) (l : Nat) (wd : Width) (ws : List Word) (g : Region) : Warp :=
  let w := w0.land w d l ws
  let g := match w0.regOf d l with
    | some r =>
      if wd == .w32 || wd == .w64 then
        { g with tags := KMap.insert r ⟨g.loads.length - 1, 0, 0, wd == .w64⟩ g.tags }
      else g
    | none => g
  { w with regions := KMap.insert l g w.regions }

/-- A plain load of one lane outside a region, at L1 or L2 by its policy. -/
def Acts.load (a : Acts) (e : Env) (w : Warp) (op : Nat) (pol : Policy) (wd : Width) (d ad : Operand) (l : Nat) :
    Acts :=
  let va := e.gaddr w ad l
  let n := widthBytes wd
  match e.reach a.pkg va n .load with
  | .error c => a.fault (LFault.of l c va)
  | .ok (p, x) =>
    match x.loc with
    | none => a.sent (e.sendPod p op l 0 va x.pa wd (w.destOf d (widthOp wd).regs l) [] none)
    | some _ =>
      match p.plainPa x with
      | none => a.fault (LFault.of l 0x09 va)
      | some pa =>
        if p.poisoned pa then a.fault (LFault.of l 0x1C va)
        else
          let r := p.load e.is.core (x.policy pol) pa n
          a.did (e.modWarp r.1 (fun w' => w.land w' d l (loadWords wd r.2))) (e.watch r.1 l va n true false)

/-- The load of every lane of an instruction, in its region or outside one. -/
def loadAll (e : Env) (w : Warp) (op : Nat) (pol : Policy) (wd : Width) (d a : Operand) (x : Acts) : Acts :=
  x.each e w a (fun x l =>
    match w.regions.find? l with
    | some g => x.region e l (e.regionLoad x.pkg w l g wd a)
        (fun w' ws g => w.tagLoad w' d l wd ws g) (e.gaddr w a l) (widthBytes wd) false
    | none => x.load e w op pol wd d a l)

/-- The executing split at a page lock. -/
def Env.cowOwner (e : Env) : CowOwner := .split e.is.core e.is.slot e.is.w e.is.sp

/-- Wait for a line, in the wait of the instruction where some lanes of it were performed. -/
def Env.waitLine (e : Env) (p : Pkg) : Res :=
  match e.resume, e.begun p with
  | some x, some _ => ⟨p, [], .block x⟩
  | _, _ => Res.wait e.orig .mem

/-- What an access answers: where a lane needs a copy of a versioned page, the copies are requested and the
instruction waits with the other lanes performed (05 R118-R119), and so it does for a held line (25 R459); faults are taken
when no lane waits any more. -/
def Acts.finish (x : Acts) (e : Env) (cls op : Nat) : Res :=
  let p := (x.cows.foldl Pkg.requestCow x.pkg).leaveCows e.cowOwner x.cows
  match x.cows with
  | q :: _ => ⟨p, [], .block ⟨.cow q.region, x.done, false, x.data op, none⟩⟩
  | [] =>
    if x.late != 0 then ⟨p, [], .block ⟨.mem, x.done, false, x.data op, none⟩⟩
    else ⟨e.countOp p cls op (x.done != 0) (!p.pods.any (fun y => y.2.op == op)), x.faults ++ x.seen, .seq⟩

/-- Where an access begins, or goes on after a wait of some of its lanes: its number and what it has done. -/
def Env.startActs (e : Env) (p : Pkg) : Nat × Acts :=
  (e.begun p).getD (p.nextId, Acts.start { p with nextId := p.nextId + 1 })

/-- `ld` (10 R233-R234): class 0. -/
def execLd (g : Guard) (d a : Operand) (wd : Width) (pol : Policy) (s : State) :
    Host.Outcome State Fault Refusal :=
  perform { Form.wa g [(.ldst (widthOp wd), d), (.addr, a)] with
            off := true, region := wd != .w128, tag := .own } (fun e p =>
    match e.warp p with
    | none => Res.ok p
    | some w =>
      if (e.begun p).isNone && e.classFull w 0 then Res.wait e.orig (.count 0)
      else if e.lineHeld p w a then e.waitLine p
      else
        let st := e.startActs p
        (loadAll e w st.1 pol wd d a st.2).finish e 0 st.1) s

/-- The data words of a store. -/
def Env.storeData (e : Env) (w : Warp) (wd : Width) (d : Operand) (l : Nat) : List Word :=
  e.rdWords w (widthOp wd).regs d l

/-- A higher lane of a pod-remote store names the same bytes, so that this one's write is not performed (06 R129). -/
def Env.overwritten (e : Env) (p : Pkg) (w : Warp) (ad : Operand) (n l pa : Nat) : Bool :=
  e.lanes.any (fun k => decide (l < k) && (match e.reach p (e.gaddr w ad k) n .store with
    | .ok (_, y) => y.loc.isNone && y.pa == pa
    | .error _ => false))

/-- A plain store of one lane outside a region; a versioned page that needs a copy asks for it first. -/
def Acts.store (a : Acts) (e : Env) (w : Warp) (op : Nat) (pol : Policy) (wd : Width) (d ad : Operand) (l : Nat) :
    Acts :=
  let va := e.gaddr w ad l
  let n := widthBytes wd
  match e.reach a.pkg va n .store with
  | .error c => a.fault (LFault.of l c va)
  | .ok (p, x) =>
    match x.loc with
    | none =>
      if e.overwritten p w ad n l x.pa then a.did p (e.watch p l va n false true)
      else a.sent (e.sendPod p op l 1 va x.pa wd none (e.storeData w wd d l) none)
    | some _ =>
      match p.verStore w.wver x e.cowOwner with
      | .fault c => a.fault (LFault.of l c va (verAux c x))
      | .copy q => a.needs q
      | .at pa =>
        if p.poisoned pa then a.fault (LFault.of l 0x1C va)
        else
          a.did (p.store e.is.core (x.policy pol) pa (storeBytes wd (e.storeData w wd d l)))
            (e.watch p l va n false true)

/-- The store of every lane, ascending: where two name one byte the higher lane's value stays (06 R129). -/
def storeAll (e : Env) (w : Warp) (op : Nat) (pol : Policy) (wd : Width) (d a : Operand) (x : Acts) : Acts :=
  x.each e w a (fun x l =>
    match w.regions.find? l with
    | some g => x.region e l (e.regionStore x.pkg w l g wd d a)
        (fun w' _ g => { w' with regions := KMap.insert l g w'.regions }) (e.gaddr w a l) (widthBytes wd) true
    | none => x.store e w op pol wd d a l)

/-- `st` (10 R233-R234): class 1. -/
def execSt (g : Guard) (d a : Operand) (wd : Width) (pol : Policy) (s : State) :
    Host.Outcome State Fault Refusal :=
  perform { Form.wa g [(.src (widthOp wd), d), (.addr, a)] with
            off := true, region := wd != .w128, tag := .own } (fun e p =>
    match e.warp p with
    | none => Res.ok p
    | some w =>
      if (e.begun p).isNone && e.classFull w 1 then Res.wait e.orig (.count 1)
      else if e.lineHeld p w a then e.waitLine p
      else
        let st := e.startActs p
        (storeAll e w st.1 pol wd d a st.2).finish e 1 st.1) s

/-! ## Scratchpad (10 R233, R235) -/

/-- `ld.sp` (10 R233): uncounted. -/
def execLdSp (g : Guard) (d a : Operand) (wd : Width) (s : State) : Host.Outcome State Fault Refusal :=
  perform { Form.wa g [(.ldst (widthOp wd), d), (.src .w32, a)] with off := true } (fun e p =>
    match e.warp p with
    | none => Res.ok p
    | some w =>
      if e.lanes.any (fun l => e.spBusy p (e.saddr w a l) (widthBytes wd) false) then Res.wait e.orig .mem
      else
      let x := e.lanes.foldl (fun (x : Acts) l =>
        match x.pkg.spAddr e.is.core e.is.slot (e.saddr w a l) (widthBytes wd) with
        | .error c => x.fault (LFault.of l c ((e.saddr w a l).setWidth 64))
        | .ok (c', b', o) =>
          match x.pkg.spRead c' b' o (widthBytes wd) (e.is.w == armNo) with
          | .error c => x.fault (LFault.of l c ((e.saddr w a l).setWidth 64))
          | .ok (p, bs) => x.did (e.modWarp p (fun w' => w.land w' d l (loadWords wd bs))) []) (Acts.start p)
      ⟨x.pkg, x.faults, .seq⟩) s

/-- `st.sp` (10 R233): uncounted. -/
def execStSp (g : Guard) (d a : Operand) (wd : Width) (s : State) : Host.Outcome State Fault Refusal :=
  perform { Form.wa g [(.src (widthOp wd), d), (.src .w32, a)] with off := true } (fun e p =>
    match e.warp p with
    | none => Res.ok p
    | some w =>
      if e.lanes.any (fun l => e.spBusy p (e.saddr w a l) (widthBytes wd) true) then Res.wait e.orig .mem
      else
      let x := e.lanes.foldl (fun (x : Acts) l =>
        match x.pkg.spAddr e.is.core e.is.slot (e.saddr w a l) (widthBytes wd) with
        | .error c => x.fault (LFault.of l c ((e.saddr w a l).setWidth 64))
        | .ok (c', b', o) =>
          match x.pkg.spWrite c' b' o (storeBytes wd (e.storeData w wd d l)) with
          | .error c => x.fault (LFault.of l c ((e.saddr w a l).setWidth 64))
          | .ok p => x.did p []) (Acts.start p)
      ⟨x.pkg, x.faults, .seq⟩) s

/-! ## Versioned loads (10 R236-R237, 05 R120-R121) -/

/-- Where a versioned load of version v reads: the local address, or the cause of the failed check. -/
def Pkg.versionPa (p : Pkg) (x : Xl) (v : Word) : Except Nat Nat :=
  match x.ver, x.loc with
  | none, some a => .ok a
  | some (k, page, home), some a =>
    (match p.regions.find? k with
     | none => .error 0x09
     | some r =>
       if !r.pvalid || decide (r.pub < v) then .error 0x0C
       else if v < r.floor then .error 0x0D
       else
         match frameAt v (r.frames page) with
         | some f => .ok (r.frameBase home f + a % 65536)
         | none => .error 0x0D)
  | _, none => .error 0x09

/-- A versioned load of one lane; `chk` names the predicate of the checked form, which one of another package writes when it is
answered (10 R237). -/
def Acts.ldv (x : Acts) (e : Env) (w : Warp) (op : Nat) (wd : Width) (chk : Option PReg) (d a b : Operand)
    (l : Nat) : Acts :=
  let va := e.gaddr w a l
  let n := widthBytes wd
  let answer (ok : Bool) (p : Pkg) : Pkg := match chk with
    | some k => e.modWarp p (fun w' => w'.setPred k l ok)
    | none => p
  match e.reach x.pkg va n .load with
  | .error c => x.fault (LFault.of l c va)
  | .ok (p, t) =>
    match t.loc with
    | none => x.sent (e.sendPod p op l 0 va t.pa wd (w.destOf d (widthOp wd).regs l) [] none (queueOf d) chk)
    | some _ =>
      match p.versionPa t (e.rd32 w b l) with
      | .error c =>
        if chk.isSome && (c == 0x0C || c == 0x0D) then x.did (answer false p) []
        else x.fault (LFault.of l c va (verAux c t))
      | .ok pa =>
        if p.poisoned pa then x.fault (LFault.of l 0x1C va)
        else
          let r := p.load e.is.core (t.policy .default) pa n
          let p := answer true r.1
          let p := e.modWarp p (fun w' => w.land w' d l (loadWords wd r.2))
          { x.did p (e.watch p l va n true false) with words := x.words ++ [(l, loadWords wd r.2)] }

/-- A versioned load. The checked form runs on every lane of `exec`. -/
def ldvForm (wd : Width) (chk : Option PReg) (g : Guard) (d a b : Operand) (s : State) :
    Host.Outcome State Fault Refusal :=
  perform { Form.w g [(.dst (widthOp wd), d), (.addr, a), (.src .w32, b)] with off := true } (fun e p =>
    match e.warp p with
    | none => Res.ok p
    | some w =>
      if (e.begun p).isNone && e.classFull w 0 then Res.wait e.orig (.count 0)
      else if e.lineHeld p w a then e.waitLine p
      else
        let st := e.startActs p
        let x := st.2.each e w a (fun x l => x.ldv e w st.1 wd chk d a b l)
        let r := x.finish e 0 st.1
        match d, r.next with
        | .q q, .seq => (e.writeAll r.pkg (.q q) x.words).andFaults r.faults
        | _, _ => r) s

/-- `ldv.32` (10 R236). -/
def execLdv32 (g : Guard) (d a b : Operand) (s : State) : Host.Outcome State Fault Refusal :=
  ldvForm .w32 none g d a b s

/-- `ldv.64` (10 R236). -/
def execLdv64 (g : Guard) (d a b : Operand) (s : State) : Host.Outcome State Fault Refusal :=
  ldvForm .w64 none g d a b s

/-- `ldv.32.chk` (05 R120, 10 R237). -/
def execLdv32Chk (k : PReg) (d a b : Operand) (s : State) : Host.Outcome State Fault Refusal :=
  ldvForm .w32 (some k) .always d a b s

/-- `ldv.64.chk` (05 R120, 10 R237). -/
def execLdv64Chk (k : PReg) (d a b : Operand) (s : State) : Host.Outcome State Fault Refusal :=
  ldvForm .w64 (some k) .always d a b s

/-! ## Atomics (10 R238-R240, 04 R96-R97) -/

/-- Bytes of an atomic's location. -/
def atomBytes : AtomOp → Nat
  | .addI64 | .addF64 | .exch64 | .cas64 | .minF64 | .maxF64 => 8
  | _ => 4

/-- The width of d: cas holds two values. -/
def atomOpW : AtomOp → OpW
  | .cas64 => .w128
  | .addI64 | .addF64 | .exch64 | .minF64 | .maxF64 | .cas32 => .w64
  | _ => .w32

/-- The new value of an atomic: from the old value, the operand x and, for cas, the new value y (10 R239). -/
def atomNew (o : AtomOp) (old x y : Nat) : Nat :=
  let a := BitVec.ofNat 32 old
  let b := BitVec.ofNat 32 x
  let halves (t : Fmt) : Nat :=
    (t.add .rne (t.decode (old % 65536)) (t.decode (x % 65536))).1 +
      65536 * (t.add .rne (t.decode (old / 65536)) (t.decode (x / 65536 % 65536))).1
  match o with
  | .addI32 => (old + x) % 2 ^ 32
  | .addI64 => (old + x) % 2 ^ 64
  | .addF32 => (f32.add .rne (f32.decode old) (f32.decode x)).1
  | .addF64 => (f64.add .rne (f64.decode old) (f64.decode x)).1
  | .minI32 => if b.slt a then x else old
  | .maxI32 => if a.slt b then x else old
  | .minN32 => min old x
  | .maxN32 => max old x
  | .and32 => (a &&& b).toNat
  | .or32 => (a ||| b).toNat
  | .xor32 => (a ^^^ b).toNat
  | .exch32 | .exch64 => x
  | .cas32 | .cas64 => if old = x then y else old
  | .incN32 => if x ≤ old then 0 else old + 1
  | .decN32 => if old = 0 ∨ x < old then x else old - 1
  | .minF64 => (f64.minmax false old x).1
  | .maxF64 => (f64.minmax true old x).1
  | .addBf16x2 => halves bf16
  | .addF16x2 => halves f16

/-- The operand and, for cas, the new value that d supplies. -/
def atomArgs (o : AtomOp) (ws : List Word) : Nat × Nat :=
  let n := atomBytes o / 4
  (wordsNat (ws.take n), wordsNat ((ws.drop n).take n))

/-- d receives the old value (10 R238). -/
def atomReturns : Operand → Bool
  | .reg _ | .ix _ => true
  | _ => false

/-- The words of an old value. -/
def oldWords (o : AtomOp) (old : Nat) : List Word :=
  if atomBytes o = 8 then [BitVec.ofNat 32 old, BitVec.ofNat 32 (old / 2 ^ 32)] else [BitVec.ofNat 32 old]

/-- The lines that the lanes of an atomic name, where they translate to package memory. -/
def Env.atomLines (e : Env) (p : Pkg) (w : Warp) (a : Operand) (n : Nat) : List Nat :=
  (e.lanes.filterMap (fun l =>
    match e.reach p (e.gaddr w a l) n .store with
    | .ok (p', x) => (p'.plainPa x).map (fun pa => pa / 256)
    | .error _ => none)).dedup

/-- One lane's atomic on global memory. -/
def Acts.atom (x : Acts) (e : Env) (w : Warp) (op : Nat) (o : AtomOp) (d a : Operand) (l : Nat) : Acts :=
  let va := e.gaddr w a l
  let n := atomBytes o
  let ws := e.rdWords w (atomOpW o).regs d l
  match e.reach x.pkg va n .store with
  | .error c => x.fault (LFault.of l c va)
  | .ok (p, t) =>
    match t.loc with
    | none => x.sent (e.sendPod p op l 2 va t.pa (if n = 8 then .w64 else .w32)
        (if atomReturns d then w.destOf d (n / 4) l else none) ws (some o))
    | some _ =>
      match p.verStore w.wver t e.cowOwner with
      | .fault c => x.fault (LFault.of l c va (verAux c t))
      | .copy q => x.needs q
      | .at pa =>
        if p.poisoned pa then x.fault (LFault.of l 0x1C va)
        else
          let p := p.toL2 e.is.core pa true
          let old := p.readNat pa n
          let v := atomNew o old (atomArgs o ws).1 (atomArgs o ws).2
          let p := p.writeMem pa (bytesOf n v)
          let p := if atomReturns d then e.modWarp p (fun w' => w.land w' d l (oldWords o old)) else p
          x.did p (e.watch p l va n true true)

/-- The release side of an ordered operation that must wait for accesses of its thread in flight. -/
def Env.mustDrain (e : Env) (p : Pkg) (sc : Scope) : Bool := sc != .thread && e.outstanding p true true

/-- A scope of cluster or wider (04 R91). -/
def wideScope : Scope → Bool
  | .thread | .warp | .block => false
  | _ => true

/-- The tail of an acquire that waited for other packages: it invalidates L1 once nothing is outstanding. -/
def Env.acquireTail (e : Env) (p : Pkg) (x : Wait) (wide : Bool) : Res :=
  if e.outstanding p true true then ⟨p, [], .block x⟩ else Res.ok (e.acquireL1 p wide)

/-- The wait of an acquire for pod-remote accesses of its thread. -/
def Wait.tail : Wait := ⟨.mem, 0, false, [1], none⟩

/-- The instruction waits in the tail of its acquire. -/
def Env.inTail (e : Env) : Bool :=
  match e.resume with
  | some ⟨.mem, _, _, [1], _⟩ => true
  | _ => false

/-- The lanes of an atomic, those performed before a wait left out. -/
def atomAll (e : Env) (w : Warp) (op : Nat) (o : AtomOp) (d a : Operand) (x : Acts) : Acts :=
  x.each e w a (fun x l => x.atom e w op o d a l)

/-- An access of a scope acquires once it is performed and the other packages have answered. -/
def Env.acquires (e : Env) (r : Res) (op : Nat) (sc : Scope) (wide : Bool) : Res :=
  match r.next with
  | .seq =>
    if sc != .thread && r.pkg.pods.any (fun y => y.2.op == op) then { r with next := .block Wait.tail }
    else { r with pkg := e.acquireL1 r.pkg wide }
  | _ => r

/-- An atomic is performed for its lanes, then acquires at its scope. -/
def Env.atomGo (e : Env) (w : Warp) (cls : Nat) (o : AtomOp) (d a : Operand) (sc : Scope) (st : Nat × Acts) : Res :=
  e.acquires ((atomAll e w st.1 o d a st.2).finish e cls st.1) st.1 sc (wideScope sc)

/-- `atom` (10 R238-R240): class 0 where it returns a value, else class 1; acquire and release at its scope. -/
def execAtom (g : Guard) (d a : Operand) (sc : Scope) (o : AtomOp) (s : State) :
    Host.Outcome State Fault Refusal :=
  perform { Form.wa g [(.atom (atomOpW o), d), (.addr, a)] with off := true } (fun e p =>
    match e.warp p with
    | none => Res.ok p
    | some w =>
      let cls := if atomReturns d then 0 else 1
      if e.inTail then e.acquireTail p Wait.tail (wideScope sc)
      else if (e.begun p).isNone && e.classFull w cls then Res.wait e.orig (.count cls)
      else if e.lineHeld p w a then e.waitLine p
      else if (e.begun p).isSome then e.atomGo w cls o d a sc (e.startActs p)
      else if e.mustDrain p sc then Res.wait e.orig .mem
      else
        match e.backOff p (e.atomLines p w a (atomBytes o)) with
        | (p, some x) => ⟨p, [], .block x⟩
        | (p, none) => e.atomGo w cls o d a sc (e.startActs (e.releaseL1 p (wideScope sc)))) s

/-- `atom.sp` (10 R238-R240, 04 R98): uncounted. -/
def execAtomSp (g : Guard) (d a : Operand) (sc : Scope) (o : AtomOp) (s : State) :
    Host.Outcome State Fault Refusal :=
  perform { Form.wa g [(.atom (atomOpW o), d), (.src .w32, a)] with off := true } (fun e p =>
    match e.warp p with
    | none => Res.ok p
    | some w =>
      if e.mustDrain p sc || e.lanes.any (fun l => e.spBusy p (e.saddr w a l) (atomBytes o) true) then Res.wait e.orig .mem
      else
        let n := atomBytes o
        let p := e.releaseL1 p (wideScope sc)
        let x := e.lanes.foldl (fun (x : Acts) l =>
          let ad := (e.saddr w a l).setWidth 64
          match x.pkg.spAddr e.is.core e.is.slot (e.saddr w a l) n with
          | .error c => x.fault (LFault.of l c ad)
          | .ok (c', b', of_) =>
            match x.pkg.spRead c' b' of_ n true with
            | .error c => x.fault (LFault.of l c ad)
            | .ok (p, bs) =>
              let ws := e.rdWords w (atomOpW o).regs d l
              let v := atomNew o (ofBytes bs) (atomArgs o ws).1 (atomArgs o ws).2
              match p.spWrite c' b' of_ (bytesOf n v) with
              | .error c => x.fault (LFault.of l c ad)
              | .ok p =>
                x.did (if atomReturns d then
                  e.modWarp p (fun w' => w.land w' d l (oldWords o (ofBytes bs))) else p) []) (Acts.start p)
        ⟨e.acquireL1 x.pkg (wideScope sc), x.faults, .seq⟩) s

/-! ## Ordered loads and stores (10 R241-R242) -/

/-- `ld.acq` (10 R242): at cluster scope or wider at L2, and L1 is invalidated after it returns. -/
def execLdAcq (g : Guard) (d a : Operand) (sc : Scope) (wd : Width) (s : State) :
    Host.Outcome State Fault Refusal :=
  perform { Form.wa g [(.ldst (widthOp wd), d), (.addr, a)] with off := true } (fun e p =>
    match e.warp p with
    | none => Res.ok p
    | some w =>
      if e.inTail then e.acquireTail p Wait.tail (wideScope sc)
      else if (e.begun p).isNone && e.classFull w 0 then Res.wait e.orig (.count 0)
      else if e.lineHeld p w a then e.waitLine p
      else
        let p := if wideScope sc then
          (e.atomLines p w a (widthBytes wd)).foldl (fun p line => p.l1WriteBackLine e.is.core line) p else p
        let st := e.startActs p
        let x := loadAll e w st.1 (if wideScope sc then .l2 else .default) wd d a st.2
        e.acquires (x.finish e 0 st.1) st.1 sc (wideScope sc && x.any)) s

/-- `st.rel` (10 R242): classes 0 and 1 drain, dirty L1 bytes are written back at cluster scope or wider, and the
store itself then goes to L2. -/
def execStRel (g : Guard) (d a : Operand) (sc : Scope) (wd : Width) (s : State) :
    Host.Outcome State Fault Refusal :=
  perform { Form.wa g [(.src (widthOp wd), d), (.addr, a)] with off := true } (fun e p =>
    match e.warp p with
    | none => Res.ok p
    | some w =>
      let go (p : Pkg) : Res :=
        let st := e.startActs p
        (storeAll e w st.1 (if wideScope sc then .l2 else .default) wd d a st.2).finish e 1 st.1
      if (e.begun p).isNone && e.classFull w 1 then Res.wait e.orig (.count 1)
      else if e.lineHeld p w a then e.waitLine p
      else if (e.begun p).isSome then go p
      else if sc != .thread && (w.count 0 != 0 || w.count 1 != 0 || e.outstanding p true true) then
        Res.wait e.orig (.count 1)
      else go (e.releaseL1 p (wideScope sc))) s

/-! ## Fences (10 R243-R244, 06 R143, R148-R149) -/

/-- Write back every dirty sector of a block's stash windows (06 R148). -/
def Pkg.stashFlush (p : Pkg) (c b : Nat) : Pkg :=
  match p.block? c b with
  | none => p
  | some bl => bl.stash.foldl (fun p x => x.2.dirty.foldl (fun p sec =>
      (p.stashWriteBack c b x.1 sec).dirWrite (dieOfCore c) (x.2.paOf (x.2.off + 64 * sec))) p) p

/-- `fence` (10 R243-R244): kind bits 0-4 are acquire, release, cross-path, stash and versions;
bit 4 also takes the faults of completed version operations (12 R305). -/
def execFence (g : Guard) (sc : Scope) (k : BitVec 5) (s : State) : Host.Outcome State Fault Refusal :=
  perform (Form.wa g []) (fun e p =>
    match e.warp p with
    | none => Res.ok p
    | some w =>
      let xp := k.getLsbD 2
      let rel := k.getLsbD 1 && sc != .thread
      let acq := k.getLsbD 0 && sc != .thread
      if k.getLsbD 4 && w.count 6 != 0 then Res.wait e.orig (.count 6)
      else if xp && !e.arm && w.count 1 != 0 then Res.wait e.orig (.count 1)
      else if (rel || xp) && e.outstanding p true true then Res.wait e.orig .mem
      else if acq && e.outstanding p true false then Res.wait e.orig .mem
      else
        let p := if xp then (p.l1WriteBack e.is.core).l1Invalidate e.is.core else p
        let p := if k.getLsbD 3 && !e.arm then p.stashFlush e.is.core e.is.slot else p
        let p := e.releaseL1 p (rel && wideScope sc)
        let p := e.acquireL1 p (acq && wideScope sc)
        if k.getLsbD 4 then
          let x := w.takeCharges 6
          ⟨e.modWarp p (fun w => (w.takeCharges 6).2), e.charged x.1, .seq⟩
        else Res.ok p) s

/-! ## Cache lines (10 R247, 04 R92) -/

/-- The fill of a prefetch by core `c` of a translated address: into L2, and into L1 unless the policy is 2 or 4; a
poisoned sector is dropped (25 R451). A sector that is valid in L1 is filled anew, which R89 forbids of a load alone (log
80, DESIGN CHOICE). None while it waits for the home die (25 R458) or for a die that does not yield the line yet (04 R97). -/
def Pkg.prefetch (p : Pkg) (c : Nat) (pol : Policy) (x : Xl) : Option Pkg :=
  match p.plainPa x with
  | none => some p
  | some pa =>
    if p.barred (dieOfCore c) pa then none
    else if p.poisoned pa then some p
    else
      match x.policy pol with
      | .l2 | .noalloc => some ((p.recallStash (pa / 256) false).dirRead (dieOfCore c) pa)
      | k => some (p.l1Fill c k pa)

/-- A translation for the address is cached in the core's or the die's TLB. -/
def Pkg.cached (p : Pkg) (c asid va : Nat) : Bool :=
  (p.core c).tlb.any (fun t => t.serves asid va) || (p.die (dieOfCore c)).tlb.any (fun t => t.serves asid va)

/-- A prefetch waits at its die: for a page walk (25 R445), or to fill its sector. -/
def Pkg.waitWalk (p : Pkg) (x : Walk) : Pkg := p.modDie (dieOfCore x.core) (fun k => { k with walks := k.walks ++ [x] })

/-- The prefetch of an address that is translated at once, or waits; one that does not translate is dropped. -/
def Pkg.tryPrefetch (p : Pkg) (x : Walk) : Pkg :=
  match p.xlate x.core x.ctx x.va .load with
  | .error 0 => p.waitWalk x
  | .error _ => p
  | .ok (p', t) => (p'.prefetch x.core x.pol t).getD (p'.waitWalk x)

/-- `prf`: fills the touched sector. One that misses the TLBs waits for a page walk of its die (25 R445); a
prefetch that does not translate is dropped. -/
def execPrf (g : Guard) (a : Operand) (pol : Policy) (s : State) : Host.Outcome State Fault Refusal :=
  perform { Form.wa g [(.addr, a)] with off := true } (fun e p =>
    match e.warp p with
    | none => Res.ok p
    | some w => Res.ok (e.lanes.foldl (fun p l =>
        let va := e.gaddr w a l
        if 2 ^ 56 ≤ va.toNat then p
        else
          let x : Walk := ⟨e.is.core, e.ctx p, va, pol⟩
          if p.cached e.is.core (e.ctx p).asid va.toNat then p.tryPrefetch x else p.waitWalk x) p)) s

/-- `wbl` and `invl`: each lane acts on the line of its address, with the faults of an 8-bit load; class 1. -/
def lineForm (inv : Bool) (g : Guard) (a : Operand) (s : State) : Host.Outcome State Fault Refusal :=
  perform { Form.wa g [(.addr, a)] with off := true } (fun e p =>
    match e.warp p with
    | none => Res.ok p
    | some w =>
      if e.classFull w 1 then Res.wait e.orig (.count 1)
      else if e.lineHeld p w a then Res.wait e.orig .mem
      else
        let op := p.nextId
        let x := e.lanes.foldl (fun (x : Acts) l =>
          let va := e.gaddr w a l
          match e.reach x.pkg va 1 .load with
          | .error c => x.fault (LFault.of l c va)
          | .ok (p, t) =>
            match t.loc with
            | some pa =>
              if t.nc || t.ver.isSome then x.did p []
              else
                let p := p.l1WriteBackLine e.is.core (pa / 256)
                x.did (if inv then p.l1InvalidateLine e.is.core (pa / 256) else p) []
            | none => x.did p []) (Acts.start { p with nextId := op + 1 })
        ⟨e.countOp x.pkg 1 op x.any true, x.faults, .seq⟩) s

/-- `wbl` (04 R92). -/
def execWbl (g : Guard) (a : Operand) (s : State) : Host.Outcome State Fault Refusal := lineForm false g a s

/-- `invl` (04 R92). -/
def execInvl (g : Guard) (a : Operand) (s : State) : Host.Outcome State Fault Refusal := lineForm true g a s

end Sys2Proof.Machine
end

