-- ==== Sys2Proof/Machine/Records.lean ====
section
/-!
DEFINITION. What a LAUNCH record says: grid, clusters, blocks, sub-groups, carve, and the checks of
13_front_end.md R319-R320 and 02_execution_model.md R25-R26, R41.
-/

namespace Sys2Proof.Machine

/-! ## Carves (01 R15) -/

/-- Registers of a carve. -/
def carveRegs (c : Nat) : Nat := [131072, 196608, 262144, 98304, 65536, 163840].getD c 131072

/-- Scratchpad bytes of a carve. -/
def carveScratch (c : Nat) : Nat := 1024 * [768, 512, 256, 1024, 1152, 640].getD c 768

/-- Registers that a core's pool holds (02 R43). -/
def Core.poolFree (k : Core) : Nat := carveRegs k.carve - k.poolUsed

/-! ## Fields (13 R319) -/

/-- Grid extent. -/
def recGrid (r : List Byte) : Nat × Nat × Nat := (recNat r 0x28 4, recNat r 0x2C 2, recNat r 0x2E 2)

/-- Block shape. -/
def recBlock (r : List Byte) : Nat × Nat × Nat := (recNat r 0x30 2, recNat r 0x32 2, recNat r 0x36 2)

/-- Cluster shape. -/
def recCluster (r : List Byte) : Nat × Nat × Nat :=
  let w := recNat r 0x34 2
  (bits w 3 0, bits w 7 4, bits w 11 8)

/-- Threads of a block. -/
def recThreads (r : List Byte) : Nat := let b := recBlock r; b.1 * b.2.1 * b.2.2

/-- Warps of a block (02 R26). -/
def recWarps (r : List Byte) : Nat := (recThreads r + 31) / 32

/-- Blocks of a cluster. -/
def recClusterSize (r : List Byte) : Nat := let c := recCluster r; c.1 * c.2.1 * c.2.2

/-- Blocks of the grid. -/
def recBlocks (r : List Byte) : Nat := let g := recGrid r; g.1 * g.2.1 * g.2.2

/-- Clusters of the grid. -/
def recClusters (r : List Byte) : Nat :=
  let g := recGrid r
  let c := recCluster r
  (g.1 / max c.1 1) * (g.2.1 / max c.2.1 1) * (g.2.2 / max c.2.2 1)

/-- Warps and registers per thread of the four SG entries; an entry of 0 warps is unused. -/
def recEntries (r : List Byte) : List (Nat × Nat) :=
  (List.range 4).map (fun j =>
    let e := recNat r (0x40 + 2 * j) 2
    (bits e 5 0, 4 * bits e 12 6))

/-- Every SG entry is unused. -/
def recPlain (r : List Byte) : Bool := (recEntries r).all (fun e => e.1 == 0)

/-- Warps and registers per thread of each sub-group (02 R41): without entries, one of every warp. -/
def recGroups (r : List Byte) : List (Nat × Nat) :=
  if recPlain r then [(recWarps r, 4 * recNat r 0x48 1)] else recEntries r

/-- The sub-group of a warp, with its registers per thread: warps are assigned in order (02 R41). -/
def groupOf : List (Nat × Nat) → Nat → Nat → Nat × Nat
  | [], _, i => (i, 0)
  | (n, regs) :: t, w, i => if w < n then (i, regs) else groupOf t (w - n) (i + 1)

/-- Sub-group of a warp. -/
def recGroupOf (r : List Byte) (w : Nat) : Nat := (groupOf (recGroups r) w 0).1

/-- Initial registers per thread of a warp. -/
def recAlloc (r : List Byte) (w : Nat) : Nat := (groupOf (recGroups r) w 0).2

/-- PRODUCER, PRIO and TRACE. -/
def recProducer (r : List Byte) : Nat := bits (recNat r 0x49 1) 2 0

/-- Dispatch priority of the record. -/
def recPrio (r : List Byte) : Nat := bits (recNat r 0x49 1) 6 4

/-- Scratchpad of a block, rounded up to 256 bytes (04 R86). -/
def recScratch (r : List Byte) : Nat := (bits (recNat r 0x3C 4) 20 0 + 255) / 256 * 256

/-- Carve. -/
def recCarve (r : List Byte) : Nat := bits (recNat r 0x4C 1) 2 0

/-- Argument words. -/
def recNarg (r : List Byte) : Nat := recNat r 0x4D 1

/-- Event wait i: name and target, when it is valid. -/
def recWait (r : List Byte) (i : Nat) : Option (Nat × Nat) :=
  let v := recNat r (0x50 + 8 * i) 8
  if bit v 63 then some (bits v 47 32, bits v 31 0) else none

/-- CEV, when a completion event is named. -/
def recCev (r : List Byte) : Option Nat :=
  let v := recNat r 4 4
  if bit v 31 then some (bits v 15 0) else none

/-- COMPREC. -/
def recComp (r : List Byte) : DWord := BitVec.ofNat 64 (recNat r 8 8)

/-- Presence of a work feed. -/
def recFeed (r : List Byte) : Bool := recNat r 0x70 8 != 0

/-- Records of the work-feed ring. -/
def recFeedSize (r : List Byte) : Nat := 2 ^ bits (recNat r 0x78 1) 4 0

/-! ## Checks (13 R307, R320) -/

/-- The first field of a header that is faulty: a reserved type, SPLICE outside a LAUNCH, or a nonzero reserved
field. -/
def headerFaultAt (r : List Byte) (launch : Bool) : Option Nat :=
  if 0x08 < bits (recNat r 0 1) 6 0 then some 0x00
  else if bits (recNat r 1 1) 7 2 ≠ 0 ∨ (!launch && bit (recNat r 1 1) 1) then some 0x01
  else if recNat r 2 2 ≠ 0 then some 0x02
  else if bits (recNat r 4 4) 30 16 ≠ 0 then some 0x04
  else none

/-- Shape limits of R25. -/
def shapeFault (r : List Byte) : Option Nat :=
  let g := recGrid r
  let b := recBlock r
  let c := recCluster r
  if g.1 = 0 ∨ 2 ^ 31 - 1 < g.1 ∨ g.1 % max c.1 1 ≠ 0 then some 0x28
  else if g.2.1 = 0 ∨ g.2.2 = 0 ∨ g.2.1 % max c.2.1 1 ≠ 0 ∨ g.2.2 % max c.2.2 1 ≠ 0 then some 0x2C
  else if b.1 = 0 ∨ b.2.1 = 0 ∨ 1024 < recThreads r then some 0x30
  else if b.2.2 = 0 ∨ bits (recNat r 0x34 2) 15 12 ≠ 0 ∨ recClusterSize r = 0 ∨ 8 < recClusterSize r then some 0x34
  else none

/-- The checks from SCRATCH on. -/
def recordTail (r : List Byte) : Option Nat :=
  let used := (recEntries r).filter (fun e => e.1 != 0)
  let carve := recCarve r
  let prod := recProducer r
  let badProd : Bool := prod == 5 || prod == 6 || (decide (prod ≤ 3) &&
    (if recPlain r then prod != 0 else ((recEntries r).getD prod (0, 0)).1 == 0))
  let low := ((recGroups r).filter (fun e => e.1 != 0)).foldl (fun m e => min m e.2) 256
  if bits (recNat r 0x3C 4) 31 21 ≠ 0 ∨ (carve ≤ 5 ∧ carveScratch carve < bits (recNat r 0x3C 4) 20 0) then some 0x3C
  else if (List.range 4).any (fun j => bits (recNat r (0x40 + 2 * j) 2) 15 13 != 0) ||
      used.any (fun e => decide (e.2 < 4 ∨ 256 < e.2)) ||
      (!recPlain r && (used.foldl (fun n e => n + e.1) 0) != recWarps r) then some 0x40
  else if bit (recNat r 0x48 4) 15 || bit (recNat r 0x48 4) 11 || decide (bits (recNat r 0x4A 1) 7 5 ≠ 0) || badProd ||
      (recPlain r && decide (recNat r 0x48 1 < 1 ∨ 64 < recNat r 0x48 1)) then some 0x48
  else if bits (recNat r 0x4C 1) 7 3 ≠ 0 ∨ 5 < carve ∨ low < recNarg r ∨ 64 < recNarg r then some 0x4C
  else
    match (List.range 4).find? (fun i => bits (recNat r (0x50 + 8 * i) 8) 62 48 != 0) with
    | some i => some (0x50 + 8 * i)
    | none =>
      if recNat r 0x70 8 % 64 ≠ 0 then some 0x70
      else if bits (recNat r 0x78 4) 31 5 ≠ 0 ∨
          (recFeed r ∧ (bits (recNat r 0x78 4) 4 0 < 4 ∨ 16 < bits (recNat r 0x78 4) 4 0)) then some 0x78
      else if recNat r 0x7C 4 ≠ 0 then some 0x7C
      else none

/-- The offset of the first faulty field of a LAUNCH record (13 R320, 26 R461); none when it is accepted. -/
def recordFault (r : List Byte) : Option Nat :=
  if bits (recNat r 0 1) 6 0 ≠ 1 then some 0x00
  else
    match headerFaultAt r true with
    | some o => some o
    | none =>
      if recNat r 0x10 8 % 4 ≠ 0 then some 0x10
      else if recNat r 0x20 8 % 4 ≠ 0 then some 0x20
      else
        match shapeFault r with
        | some o => some o
        | none => recordTail r

end Sys2Proof.Machine
end

