-- ==== Sys2Proof/Machine/Copies.lean ====
section
/-!
DEFINITION. The copy engine: the `cp.*` forms, `wait.cnt`, and the delivery and completion of copies
(12_isa_engines_system.md R287-R293, 08_isa_integer_control.md R203-R204).
-/

namespace Sys2Proof.Machine

/-! ## Producer rights (02 R42) -/

/-- The launch record of a block. -/
def Pkg.recordOf (p : Pkg) (b : Block) : List Byte :=
  match p.launch? b.launch with | some l => l.record | none => []

/-- A warp or the armature is the producer of its block. -/
def Pkg.isProducer (p : Pkg) (b : Block) (w : Nat) : Bool :=
  if w = armNo then b.prod == 4 else decide (b.prod ≤ 3) && recGroupOf (p.recordOf b) w == b.prod

/-- A form of major 0x64 (12 R287): once per warp, by the producer only. -/
def copyForm (ops : List (Pos × Operand)) (g : Guard) (body : Env → Pkg → Warp → Block → Res) (s : State) :
    Host.Outcome State Fault Refusal :=
  perform { Form.wa g ops with once := true, handler := false } (fun e p =>
    match e.warp p, e.block p with
    | some w, some b => if p.isProducer b e.is.w then body e p w b else Res.fail p e.act 0x07
    | _, _ => Res.ok p) s

/-! ## Issue (12 R287-R290) -/

/-- The octet of a copy as a copy, before it is checked. -/
def Copy.ofWords (form : Nat) (i : Issuer) (ctx : Ctx) (handle : Nat) (wver : Word) (reserved : Bool)
    (ws : List Word) : Copy :=
  let v (k : Nat) : Nat := (ws.getD k 0).toNat
  { ocore := i.core, slot := i.slot, w := i.w, home := none, ctx := ctx, handle := handle, form := form
    src := pair (ws.getD 0 0) (ws.getD 1 0), dst := pair (ws.getD 2 0) (ws.getD 3 0)
    len := bits (v 4) 23 0, rows := if form = 5 then bits (v 6) 15 0 else 1, sstride := bits (v 6) 31 16
    gstride := v 7, mask := bits (v 6) 7 0, aben := bit (v 5) 28, srcj := bits (v 5) 27 25
    abar := bits (v 5) 20 0, wver := wver, batch := none, reserved := reserved, written := 0, fault := none
    marked := [] }

/-- The source is global memory. -/
def Copy.gsrc (y : Copy) : Bool := y.form == 0 || y.form == 2 || y.form == 4 || y.form == 5

/-- The destination is global memory. -/
def Copy.gdst (y : Copy) : Bool := y.form == 1 || y.form == 2

/-- Bytes of the destination. -/
def Copy.total (y : Copy) : Nat := y.len * y.rows

/-- A scratchpad range of n bytes under R87. -/
def Pkg.spRange (p : Pkg) (c b : Nat) (a : Word) (n : Nat) : Option (Nat × Nat × Nat) :=
  let v := a.toNat
  if bits v 31 25 ≠ 0 ∨ (!bit v 24 ∧ bits v 23 21 ≠ 0) then none
  else
    match (if bit v 24 then p.peerBlock c b (bits v 23 21) else (p.block? c b).map (fun bl => (c, b, bl))) with
    | none => none
    | some (c', b', bl) => if bl.spSize < bits v 20 0 + n then none else some (c', b', bits v 20 0)

/-- Scratchpad bytes that a destination spans. -/
def Copy.span (y : Copy) : Nat := if y.form = 5 then (y.rows - 1) * y.sstride + y.len else y.len

/-- The destinations in scratchpad: core, slot and offset of each (12 R288); none when a check of R289 fails. -/
def Pkg.copyDests (p : Pkg) (y : Copy) : Option (List (Nat × Nat × Nat)) :=
  let d := half y.dst 0
  if y.gdst then some []
  else if y.form = 4 then
    if bits d.toNat 31 25 ≠ 0 then none
    else
      (List.range 8).foldl (fun acc pos =>
        match acc with
        | none => none
        | some ds =>
          if !bit y.mask pos then some ds
          else
            match p.peerBlock y.ocore y.slot pos with
            | none => none
            | some (c, b, bl) => if bl.spSize < bits d.toNat 20 0 + y.len then none else some (ds ++ [(c, b, bits d.toNat 20 0)]))
        (some [])
  else (p.spRange y.ocore y.slot d y.span).map (fun x => [x])

/-- The source in scratchpad. -/
def Pkg.copySource (p : Pkg) (y : Copy) : Option (Nat × Nat × Nat) := p.spRange y.ocore y.slot (half y.src 0) y.len

/-- The first failing check of R288-R289. -/
def Pkg.copyFault (p : Pkg) (y : Copy) : Option Nat :=
  let src := if y.gsrc then y.src.toNat else (half y.src 0).toNat
  let dst := if y.gdst then y.dst.toNat else (half y.dst 0).toNat
  if src % 4 ≠ 0 ∨ dst % 4 ≠ 0 ∨ y.len % 4 ≠ 0 ∨ (y.form = 5 ∧ (y.sstride % 4 ≠ 0 ∨ y.gstride % 4 ≠ 0)) then some 0x08
  else if y.form = 5 ∧ (y.rows = 0 ∨ (2 ≤ y.rows ∧ y.sstride < y.len)) then some 0x0B
  else if !y.gsrc && (p.copySource y).isNone then some 0x0B
  else
    match p.copyDests y with
    | none => some 0x0B
    | some ds =>
      let clash : Bool := match y.form, p.copySource y, ds with
        | 3, some s, d :: _ => s.1 == d.1 && s.2.1 == d.2.1 && decide (s.2.2 < d.2.2 + y.len ∧ d.2.2 < s.2.2 + y.len)
        | _, _, _ => false
      if clash then some 0x0B
      else if y.aben && y.gdst then some 0x12
      else if y.aben && ds.any (fun d => match p.block? d.1 d.2.1 with
          | some bl => decide (bl.spSize < y.abar + 32)
          | none => true) then some 0x0B
      else none

/-- Handle of the n-th copy of a warp: it rises from 1 and skips 0 when it wraps (12 R291). -/
def handleOf (n : Nat) : Nat := (n - 1) % (2 ^ 32 - 1) + 1

/-- Warps and armatures of a core that hold reserved copy entries (12 R290). -/
def Pkg.producers (p : Pkg) (c : Nat) : Nat :=
  (p.core c).blocks.foldl (fun n b => n + (List.filter (fun e => p.isProducer b.2 e.1) b.2.warps).length) 0

/-- Which entry an issue takes (12 R290): a reserved one, a shared one, or none is free. -/
def Pkg.copyEntry (p : Pkg) (i : Issuer) : Option Bool :=
  let cs := (p.core i.core).copies.vals
  let mine := cs.filter (fun y => y.home.isNone && y.ocore == i.core && y.slot == i.slot && y.w == i.w && y.reserved)
  if mine.length < 2 then some true
  else if (cs.filter (fun y => !y.reserved)).length < 64 - 2 * p.producers i.core then some false
  else none

/-- Note the bytes a copy wrote, for the 256 newest handles. -/
def Warp.noteCopy (w : Warp) (h n : Nat) : Warp :=
  let keep := List.filter (fun e => (List.range 256).any (fun i => decide (i < w.copySeq) && handleOf (w.copySeq - i) == e.1)) w.copyDone
  { w with copyDone := KMap.insert h n keep }

/-- A copy form: a failing check faults the lanes whose guard is true (12 R289, 07 R154, log 81). -/
def copyIssue (form : Nat) (g : Guard) (d a : Operand) (s : State) : Host.Outcome State Fault Refusal :=
  copyForm [(.dst .w32, d), (.block 8, a)] g (fun e p w b =>
    match p.copyEntry e.is with
    | none => Res.wait e.orig .engine
    | some rsv =>
      let h := handleOf (w.copySeq + 1)
      let y := Copy.ofWords form e.is b.ctx h w.wver rsv (e.rdWords w 8 a e.lead)
      match p.copyFault y with
      | some c => Res.fail p e.act c
      | none =>
        let p := e.modWarp p (fun w => { w with copySeq := w.copySeq + 1 })
        let p := if y.total = 0 then e.modWarp p (fun w => w.noteCopy h 0)
          else { p with nextId := p.nextId + 1 }.modCore e.is.core (fun k =>
            { k with copies := KMap.insert p.nextId y k.copies })
        e.writeAll p d (e.lanes.map (fun l => (l, [BitVec.ofNat 32 h])))) s

/-- `cp.g2s` (12 R288). -/
def execCpG2s (g : Guard) (d a : Operand) (s : State) : Host.Outcome State Fault Refusal := copyIssue 0 g d a s

/-- `cp.s2g` (12 R288). -/
def execCpS2g (g : Guard) (d a : Operand) (s : State) : Host.Outcome State Fault Refusal := copyIssue 1 g d a s

/-- `cp.g2g` (12 R288). -/
def execCpG2g (g : Guard) (d a : Operand) (s : State) : Host.Outcome State Fault Refusal := copyIssue 2 g d a s

/-- `cp.s2s` (12 R288). -/
def execCpS2s (g : Guard) (d a : Operand) (s : State) : Host.Outcome State Fault Refusal := copyIssue 3 g d a s

/-- `cp.mcast` (12 R288). -/
def execCpMcast (g : Guard) (d a : Operand) (s : State) : Host.Outcome State Fault Refusal := copyIssue 4 g d a s

/-- `cp.tile2d` (12 R288). -/
def execCpTile2d (g : Guard) (d a : Operand) (s : State) : Host.Outcome State Fault Refusal := copyIssue 5 g d a s

/-- The copy belongs to a warp where it now stands. -/
def Copy.owned (y : Copy) (c b w : Nat) : Bool := y.home.isNone && y.ocore == c && y.slot == b && y.w == w

/-- Some copy of the package still belongs to batch n. -/
def Pkg.batchOpen (p : Pkg) (n : Nat) : Bool :=
  p.cores.any (fun e => e.2.copies.any (fun y => y.2.batch == some n))

/-- `cp.seal` (12 R291): an empty batch completes in its turn. -/
def execCpSeal (g : Guard) (s : State) : Host.Outcome State Fault Refusal :=
  copyForm [] g (fun e p w _ =>
    if e.classFull w 2 then Res.wait e.orig (.count 2)
    else
      let n := p.nextId
      let p : Pkg := { p with
        nextId := n + 1
        cores := p.cores.map (fun k => (k.1, { k.2 with copies := k.2.copies.map (fun y =>
          (y.1, if y.2.owned e.is.core e.is.slot e.is.w && y.2.batch.isNone then { y.2 with batch := some n } else y.2)) })) }
      let p := e.modWarp p (fun w =>
        { w.modCount 2 (· + 1) with ops := w.ops ++ [⟨2, n, false, w.batchFaults⟩], batchFaults := [] })
      Res.ok (if p.batchOpen n then p else e.modWarp p (fun w => w.doneOp 2 n []))) s

/-- What `cp.wptr` reads for a handle (12 R291). -/
def Pkg.copyPtr (p : Pkg) (i : Issuer) (w : Warp) (h : Nat) : Nat :=
  let newest := (List.range 256).any (fun k => decide (k < w.copySeq) && handleOf (w.copySeq - k) == h)
  if newest then
    match w.copyDone.find? h with
    | some n => n
    | none =>
      match (p.cores.vals.flatMap (fun k => k.copies.vals)).find? (fun y => y.owned i.core i.slot i.w && y.handle == h) with
      | some y => y.written
      | none => 0
  else if h = 0 ∨ w.copySeq < h then (if w.copySeq < 2 ^ 32 then 0 else 0xFFFFFFFF)
  else 0xFFFFFFFF

/-- `cp.wptr` (12 R291). -/
def execCpWptr (g : Guard) (d a : Operand) (s : State) : Host.Outcome State Fault Refusal :=
  copyForm [(.dst .w32, d), (.src .w32, a)] g (fun e p w _ =>
    let n := p.copyPtr e.is w (e.rd32 w a e.lead).toNat
    e.writeAll p d (e.lanes.map (fun l => (l, [BitVec.ofNat 32 n])))) s

/-! ## `wait.cnt` (06 R142, 12 R285, R292-R293, R296, R305) -/

/-- `wait.cnt` (12 R293): where it goes on it takes the faults of the completed operations that it covers. -/
def execWaitCnt (g : Guard) (c : BitVec 3) (t : BitVec 5) (s : State) : Host.Outcome State Fault Refusal :=
  perform (Form.wa g []) (fun e p =>
    match e.warp p with
    | none => Res.ok p
    | some w =>
      let cls := c.toNat
      if e.counts? cls && decide (t.toNat < w.count cls) then Res.wait e.orig (.count cls)
      else if cls = 3 then
        let x := w.takeCalls w.callCovered
        e.chargeCalls (e.modWarp p (fun _ => x.2)) x.1
      else if cls = 2 ∨ cls = 4 ∨ cls = 6 then
        let x := w.takeCharges cls
        ⟨e.modWarp p (fun _ => x.2), e.charged x.1, .seq⟩
      else Res.ok p) s

/-! ## Delivery (12 R290, R292, 08 R203) -/

/-- What one aligned 4 bytes of an engine's access meets. -/
inductive Piece where
  | ok (p : Pkg) (bs : List Byte)
  | fail (p : Pkg) (c : Charge)
  | wait (p : Pkg)

/-- The AUX of a fault of an engine (23 R414): the region, or the silent package. -/
def engineAux (cause : Nat) (x : Xl) : BitVec 16 :=
  if cause = 0x27 then BitVec.ofNat 16 (x.pa / 2 ^ 46) else verAux cause x

/-- The die number that stands for an engine of the X-dies, which has no L2. -/
def xdie : Nat := 4

/-- A failed access of a master: cause 0 stands for a wait (25 R458). -/
def Piece.failed (p : Pkg) (x : Charge) : Piece := if x.cause = 0 then .wait p else .fail p x

/-- The translation of a master's access: on a C-die it takes the result of a walk in progress there (25 R445). -/
def Pkg.xlateMaster (p : Pkg) (d : Nat) (ctx : Ctx) (va : DWord) (acc : Acc) : Pkg × Except Nat Xl :=
  let p := if d % 8 < 4 then p.shareWalk (d % 8) ctx va.toNat else p
  (p, p.xlateEngine ctx va acc)

/-- Master d reads n bytes of global memory at L2. The copy, collective and coprocessor engines see stash sectors as they
stand there (04 R102); any other reader, `seeStash`, has them written back first (04 R101). -/
def Pkg.engineRead (p : Pkg) (d : Nat) (ctx : Ctx) (va : DWord) (n : Nat) (seeStash : Bool := false) : Piece :=
  match p.xlateMaster d ctx va .load with
  | (p, .error c) => .failed p ⟨c, va, 0⟩
  | (p, .ok x) =>
    match x.loc with
    | none =>
      (match p.remote d x.pa n with
       | .value p bs => .ok p bs
       | .fail p c => .fail p ⟨c, va, engineAux c x⟩
       | .wait p => .wait p)
    | some _ =>
      match p.plainPa x with
      | none => .fail p ⟨0x09, va, 0⟩
      | some a =>
        if p.homeDown a || (decide (d % 8 < 4) && p.batchElse (d % 8) (a / 256)) then .wait p
        else if p.poisoned a then .fail p ⟨0x1C, va, 0⟩
        else
          let p := if seeStash then p.recallStash (a / 256) false else p
          .ok (if d % 8 < 4 then p.dirRead (d % 8) a else p) (p.readMem a n)

/-- The frame that an engine's store writes; a copy-on-write that it needs is made once no request is before it at the
page lock (05 R118-R119), none while one is. -/
def Pkg.engineFrame (p : Pkg) (wver : Word) (x : Xl) : Option (Pkg × VerStore) :=
  match p.verStore wver x with
  | .copy q =>
    let r := p.engineCow q
    if r.2 then some (r.1, r.1.verStore wver x) else none
  | v => some (p, v)

/-- The ascending writes of one copy cover the sector with this write of n bytes: its destination begins at `from_` (25 R452). -/
def fillsSector (from_ va : DWord) (n : Nat) : Bool :=
  decide ((va.toNat + n) % 64 = 0 ∧ from_.toNat + 64 ≤ va.toNat + n)

/-- Master d writes bytes at L2 under a write version, after the copy-on-write that it needs. Poison of the sector stays until
one copy, COPY packet or collective has written all of it: `whole` (25 R452). -/
def Pkg.engineWrite (p : Pkg) (d : Nat) (ctx : Ctx) (wver : Word) (whole : Bool) (va : DWord) (bs : List Byte) : Piece :=
  match p.xlateMaster d ctx va .store with
  | (p, .error c) => .failed p ⟨c, va, 0⟩
  | (p, .ok x) =>
    match x.loc with
    | none =>
      (match p.remote d x.pa bs.length with
       | .value p _ => .ok p []
       | .fail p c => .fail p ⟨c, va, engineAux c x⟩
       | .wait p => .wait p)
    | some _ =>
      match p.engineFrame wver x with
      | none => .wait p
      | some (p, .fault c) => .fail p ⟨c, va, verAux c x⟩
      | some (p, .copy _) => .fail p ⟨0x0F, va, verAux 0x0F x⟩
      | some (p, .at a) =>
        if p.barred (d % 8) a then .wait p
        else
        let p := p.recallStash (a / 256) true
        let p := (if d % 8 < 4 then p.dirWrite (d % 8) a else { p with dir := KMap.erase (a / 256) p.dir }).writeMem a bs
        .ok (if whole then { p with poison := p.poison.filter (· != a / 64) } else p) []

/-- The charge of a scratchpad access of an engine. -/
def spCharge (c off : Nat) : Charge := ⟨c, BitVec.ofNat 64 off, 0⟩

/-- Copy the next aligned 4 bytes: row-major, each destination in ascending order (06 R145). -/
def Pkg.copyPiece (p : Pkg) (c id : Nat) (y : Copy) (ds : List (Nat × Nat × Nat)) : Piece :=
  let d := opMaster (dieOfCore c) id
  let row := if y.len = 0 then 0 else y.written / y.len
  let col := if y.len = 0 then 0 else y.written % y.len
  let got : Piece :=
    if y.gsrc then
      p.engineRead d y.ctx (y.src + BitVec.ofNat 64 (row * (if y.form = 5 then y.gstride else 0) + col)) 4
    else
      match p.copySource y with
      | none => .fail p (spCharge 0x0B (half y.src 0).toNat)
      | some s =>
        match p.spRead s.1 s.2.1 (s.2.2 + col) 4 with
        | .error x => .failed p (spCharge x (s.2.2 + col))
        | .ok (p, bs) => .ok p bs
  match got with
  | .fail p x => .fail p x
  | .wait p => .wait p
  | .ok p bs =>
    if y.gdst then p.engineWrite d y.ctx y.wver (fillsSector y.dst (y.dst + BitVec.ofNat 64 col) 4) (y.dst + BitVec.ofNat 64 col) bs
    else
      ds.foldl (fun (r : Piece) t =>
        match r with
        | .ok p z =>
          (match p.spWrite t.1 t.2.1 (t.2.2 + row * y.sstride * (if y.form = 5 then 1 else 0) + col) bs with
           | .error x => .failed p (spCharge x (t.2.2 + col))
           | .ok p => .ok p z)
        | r => r) (.ok p [])

/-- Copy up to k pieces: the package, the bytes written and what stopped the copy. -/
def Pkg.copyRun (c id : Nat) (ds : List (Nat × Nat × Nat)) : Nat → Pkg → Copy → Pkg × Copy
  | 0, p, y => (p, y)
  | k + 1, p, y =>
    if y.total ≤ y.written then (p, y)
    else
      match p.copyPiece c id y ds with
      | .ok p _ => Pkg.copyRun c id ds k p { y with written := y.written + 4 }
      | .fail p x => (p, { y with fault := some x })
      | .wait p => (p, y)

/-- Change a warp, resident in a slot or in a saved block. -/
def Pkg.modHome (p : Pkg) (home : Option (Nat × Nat)) (c b w : Nat) (f : Warp → Warp) : Pkg :=
  match home with
  | none => p.modWarp c b w f
  | some (l, ix) => p.modLaunch l (fun x => { x with saved := x.saved.modify ix (fun v =>
      { v with block := { v.block with warps := v.block.warps.modify w f } }) })

/-- Change the warp that owns a copy. -/
def Pkg.modOwner (p : Pkg) (y : Copy) (f : Warp → Warp) : Pkg := p.modHome y.home y.ocore y.slot y.w f

/-- Keep a copy's fault with its batch (12 R292). A warp that has exited is charged at once, or with its block's restore. -/
def Pkg.copyFaulted (p : Pkg) (y : Copy) (x : Charge) : Pkg :=
  let p := p.modOwner y (fun w =>
    match y.batch with
    | some n => { w with ops := w.ops.map (fun (o : ClassOp) =>
        if o.cls = 2 ∧ o.id = n then { o with faults := o.faults ++ [x] } else o) }
    | none => { w with batchFaults := w.batchFaults ++ [x] })
  match y.home, p.warp? y.ocore y.slot y.w with
  | none, some w => if w.live = 0 then p.chargeExit y.ocore y.slot y.w w.uncharged else p
  | _, _ => p

/-- Deliver n bytes of a copy to the barrier of each destination block (08 R203); an endpoint error is cause
0x16. -/
def Pkg.deliverAll (p : Pkg) (y : Copy) (ds : List (Nat × Nat × Nat)) (n : Nat) : Pkg × Bool :=
  ds.foldl (fun (r : Pkg × Bool) d =>
    let pos := match r.1.block? d.1 d.2.1 with | some b => b.cpos | none => 0
    let x := r.1.deliver d.1 d.2.1 y.abar y.srcj n (y.marked.contains pos)
    (x.1, r.2 || x.2)) (p, false)

/-- The channel that runs a copy of a core (12 R290): which one is open; it does not change. -/
def copyChannel (core id : Nat) : Nat := 8 * core + Config.choice id 8 % 8

/-- The channel of a copy does nothing: it is frozen (27 R485), or its die is in reset (27 R497). -/
def Pkg.copyHeld (p : Pkg) (core id : Nat) : Bool := p.isFrozen 1 (copyChannel core id) || (p.die (dieOfCore core)).inReset

/-- A barrier that a copy names stands in a stash sector that has to wait (25 R458): the delivery waits, with its bytes. -/
def Pkg.deliveryWaits (p : Pkg) (y : Copy) (ds : List (Nat × Nat × Nat)) : Bool :=
  y.aben && ds.any (fun d => match p.spTouch d.1 d.2.1 y.abar true with | .error c => c == 0 | .ok _ => false)

/-- COPY_DELIVERY: a copy writes up to n further bytes and delivers what it wrote in one delivery. Disabled where
no such copy runs. -/
def execCopyDelivery (core id n : Nat) (s : State) : Host.Outcome State Fault Refusal :=
  match (s.pkg.core core).copies.find? id with
  | none => .next s
  | some y =>
    if s.pkg.copyHeld core id || y.fault.isSome || decide (y.total ≤ y.written) then .next s
    else
      match s.pkg.copyDests y with
      | none =>
        let x := spCharge 0x0B (half y.dst 0).toNat
        let p := s.pkg.modCore core (fun k => { k with copies := KMap.insert id { y with fault := some x } k.copies })
        .next { s with pkg := p.copyFaulted y x }
      | some ds =>
        if s.pkg.deliveryWaits y ds then .next s else
        let r := Pkg.copyRun core id ds (max 1 (n / 4)) s.pkg y
        let z := r.2
        let got := z.written - y.written
        let del := if y.aben && got ≠ 0 then r.1.deliverAll z ds got else (r.1, false)
        let z := if z.fault.isNone && del.2 then { z with fault := some ⟨0x16, BitVec.ofNat 64 y.abar, 0⟩ } else z
        let p := del.1.modCore core (fun k => { k with copies := KMap.insert id z k.copies })
        .next { s with pkg := match z.fault with | some x => p.copyFaulted z x | none => p }

/-- A finished copy leaves its engine: its bytes are noted and its batch is done with its last copy. Blocks whose arrival
barrier it named have not waited for nothing (02 R44). -/
def Pkg.copyDone (p : Pkg) (core id : Nat) (y : Copy) : Pkg :=
  let named : List (Nat × Nat × Nat) := if y.aben then (p.copyDests y).getD [] else []
  let p := p.modCore core (fun k => { k with copies := KMap.erase id k.copies })
  let p := named.foldl (fun p d => p.modBlock d.1 d.2.1 (fun b => { b with stuck := none })) p
  let p := p.modOwner y (fun w => w.noteCopy y.handle y.written)
  match y.batch with
  | some n => if p.batchOpen n then p else p.modOwner y (fun w => w.doneOp 2 n [])
  | none => p

/-- COPY_COMPLETE (06 R141): a copy that wrote its destination or stopped at a fault. -/
def execCopyComplete (core id : Nat) (s : State) : Host.Outcome State Fault Refusal :=
  match (s.pkg.core core).copies.find? id with
  | none => .next s
  | some y =>
    if !s.pkg.copyHeld core id && (y.fault.isSome || decide (y.total ≤ y.written)) then
      .next { s with pkg := s.pkg.copyDone core id y }
    else .next s

end Sys2Proof.Machine
end

