-- ==== Sys2Proof/Machine/Units.lean ====
section
/-!
DEFINITION. Calls inside the borrowed units: how a unit answers, how a call returns to its lane, and how a class 8
record reaches its peer (12_isa_engines_system.md R279, R284-R286, 15_render_coprocessors.md R346-R349).
-/

namespace Sys2Proof.Machine

/-- DONE, RAY_INVALID, RESIDENCY_MISS, REJECTED and FAULT of a return record (12 R279). -/
def stDone : BitVec 8 := 1
/-- A ray that R367 calls invalid. -/
def stRay : BitVec 8 := 2
/-- A texel that is not resident. -/
def stMiss : BitVec 8 := 4
/-- A malformed record. -/
def stRejected : BitVec 8 := 8
/-- A memory fault of the unit. -/
def stFault : BitVec 8 := 128

/-- Change a call. -/
def Pkg.modCall (p : Pkg) (core id : Nat) (f : Call → Call) : Pkg :=
  p.modCore core (fun k => { k with calls := k.calls.modify id f })

/-- A call leaves the unit's input queue or hold store. -/
def Pkg.takeFromUnit (p : Pkg) (core id : Nat) : Pkg :=
  p.modCore core (fun k => { k with
    unitIn := (k.unitIn.map (fun e => (e.1, e.2.filter (· != id))))
    unitHold := (k.unitHold.map (fun e => (e.1, e.2.filter (· != id)))) })

/-- Calls of an ordered unit that a restore sends again and that its input queue has not taken yet (02 R53, 15 R351), in the
order of their sending. -/
def Core.resends (k : Core) (cls : Nat) : List Nat :=
  (List.filter (fun e => e.2.cls == cls && !e.2.done && !(k.unitQueue cls).contains e.1 &&
    !(k.unitHold.getD cls []).contains e.1) k.calls).map (fun e => e.1)

/-- The input queues of the ordered units take calls that are sent again, as far as there is room (12 R280). -/
def Core.takeIn (k : Core) : Core :=
  let put (k : Core) (cls : Nat) : Core :=
    match (k.resends cls).take (64 - (k.unitQueue cls).length) with
    | [] => k
    | ids => { k with unitIn := KMap.insert cls (k.unitQueue cls ++ ids) k.unitIn }
  put (put k 1) 2

/-- The unit is done with a call: its status, and the payload words of its return record. -/
def Pkg.answer (p : Pkg) (core id : Nat) (status : BitVec 8) (ret : List Word) (fault : Option Charge) : Pkg :=
  ((p.takeFromUnit core id).modCall core id (fun c =>
    { c with done := true, status := status, ret := ret, fault := fault })).modCore core Core.takeIn

/-- A call ends in a memory fault (15 R349): LEN 4, the cause and the address in words 2 and 3. -/
def Pkg.answerFault (p : Pkg) (core id : Nat) (x : Charge) : Pkg :=
  let a := x.addr.toNat
  p.answer core id (stFault ||| stDone)
    [BitVec.ofNat 32 (x.cause * 2 ^ 24 + bits a 55 32), BitVec.ofNat 32 (a % 2 ^ 32)] (some x)

/-- Field of a word of a call. -/
def Call.word (c : Call) (k : Nat) : Nat := (c.words.getD k 0).toNat

/-- TYPE of a call. -/
def Call.type (c : Call) : Nat := bits (c.word 0) 7 0

/-- LEN of a call. -/
def Call.len (c : Call) : Nat := bits (c.word 0) 15 8

/-- TOKEN of a call. -/
def Call.token (c : Call) : Nat := bits (c.word 0) 31 16

/-- A 64-bit field in two words. -/
def Call.pair (c : Call) (k : Nat) : DWord := Sys2Proof.pair (c.words.getD k 0) (c.words.getD (k + 1) 0)

/-- The return record of a call (12 R279): its header and payload, sixteen words. -/
def Call.record (c : Call) : List Word :=
  let w0 := BitVec.ofNat 32 (c.token * 65536 + (2 + c.ret.length) * 256 + c.type)
  let w1 := BitVec.ofNat 32 (bits (c.word 1) 31 16 * 65536 + c.status.toNat)
  (w0 :: w1 :: c.ret ++ List.replicate 14 0).take 16

/-- A call is over for its warp: the reference goes, a fault is kept for the lane with the unit's cause in AUX, and
class 3 falls when the last call of its operation is over (12 R284-R285). -/
def Warp.callOver (w : Warp) (id : Nat) (fault : Option Charge) : Warp :=
  match w.calls.find? (fun r => r.call == id) with
  | none => w
  | some r =>
    let w := { w with
      calls := w.calls.filter (fun r => r.call != id)
      callFaults := w.callFaults ++ (match fault with
        | some x => [⟨id, r.op, r.lane, r.q, ⟨0x16, x.addr, BitVec.ofNat 16 x.cause⟩⟩]
        | none => []) }
    if w.calls.any (fun x => x.op == r.op) then w else w.doneOp 3 r.op []

/-- Append a return record for a lane; one for a lane that has exited is discarded. -/
def Warp.pushRet (w : Warp) (q lane : Nat) (r : RetRec) : Warp :=
  if w.live.getLsbD lane then { w with rets := KMap.insert (32 * q + lane) (w.retsOf q lane ++ [r]) w.rets } else w

/-- A completed call returns. -/
def Pkg.returnCall (p : Pkg) (core id : Nat) (c : Call) : Pkg :=
  let p := p.modCore core (fun k => { k with calls := KMap.erase id k.calls })
  p.modWarp core c.slot c.w (fun w =>
    let w := match w.calls.find? (fun r => r.call == id) with
      | some ⟨_, _, lane, _, some q⟩ => w.pushRet q lane ⟨c.record, 0, id⟩
      | _ => w
    w.callOver id c.fault)

/-- PEER_RECORD (12 R286): the oldest record that a queue sent and that is not delivered reaches the same lane of
the peer's queue. -/
def execPeerRecord (core slot i : Nat) (s : State) : Host.Outcome State Fault Refusal :=
  let p := s.pkg
  match (p.core core).calls.find? i with
  | none => .next s
  | some c =>
    match (p.warp? core slot c.w).bind (fun w => w.bind? c.q) with
    | none => .next s
    | some b =>
      let older := ((p.core core).unitQueue 8).find? (fun k => match (p.core core).calls.find? k with
        | some x => x.slot == c.slot && x.w == c.w && x.q == c.q
        | none => false)
      let room := match p.warp? core slot b.peer with
        | some pw => decide (pw.retCount b.peerq < 64)
        | none => false
      if c.cls ≠ 8 ∨ c.slot ≠ slot ∨ older ≠ some i ∨ !room then .next s
      else
        let p := (p.takeFromUnit core i).modCore core (fun k => { k with calls := KMap.erase i k.calls })
        let p := p.modWarp core slot b.peer (fun w => w.pushRet b.peerq c.lane
          ⟨(c.words ++ List.replicate 16 0).take 16, 0, i⟩)
        .next { s with pkg := p.modWarp core slot c.w (fun w => w.callOver i none) }

end Sys2Proof.Machine
end

