-- ==== Sys2Proof/Machine/Collect.lean ====
section
/-!
DEFINITION. Collectives: the `coll.*` forms, class 7 calls, the messages of peers, completion, lost members and the
group table (12_isa_engines_system.md R294-R296, 16_links_and_host.md R372-R376,
26_scheduling_engine_failures.md R481-R483).
-/

namespace Sys2Proof.Machine

/-! ## Descriptors (12 R294, 16 R375) -/

/-- Word k of a descriptor as a number. -/
def dw (ds : List Word) (k : Nat) : Nat := (ds.getD k 0).toNat

/-- An address in words k and k + 1. -/
def dva (ds : List Word) (k : Nat) : DWord := pair (ds.getD k 0) (ds.getD (k + 1) 0)

/-- Elements are 32-bit integers. -/
def collInt (ds : List Word) : Bool := bit (dw ds 0) 4

/-- Bytes of an element (12 R295). -/
def collE (ds : List Word) : Nat := if collInt ds then 4 else [8, 4, 4, 2].getD (bits (dw ds 0) 3 0) 4

/-- COUNT. -/
def collCount (ds : List Word) : Nat := dw ds 1

/-- OP. -/
def collOp (ds : List Word) : Nat := bits (dw ds 0) 11 8

/-- GROUP. -/
def collGroup (ds : List Word) : Nat := bits (dw ds 0) 23 16

/-- The entry of a group. -/
def Pkg.group (p : Pkg) (g : Nat) : Group := p.groups.getD g Group.zero

/-- Set a group's entry. -/
def Pkg.setGroup (p : Pkg) (g : Nat) (x : Group) : Pkg := { p with groups := KMap.insert g x p.groups }

/-- The descriptor is malformed for a form: 0 halo, 1 allred, 2 a2a, 3 rs, 4 ag. OP is checked for every form (12 R294); NBOX,
the strides, and that FP reductions have no logical OP (12 R295), where the form has them. -/
def collBad (form : Nat) (ds : List Word) : Bool :=
  let strides := [dw ds 6, dw ds 7, dw ds 8, dw ds 9]
  bits (dw ds 0) 31 24 != 0 || bits (dw ds 0) 15 12 != 0 || bits (dw ds 0) 7 5 != 0 ||
  decide (dw ds 12 / 32 ≠ 0) || dw ds 13 != 0 || dw ds 14 != 0 || dw ds 15 != 0 ||
  (!collInt ds && !([0, 1, 3].contains (bits (dw ds 0) 3 0))) ||
  decide (5 < collOp ds) || ((form == 1 || form == 3) && decide (3 ≤ collOp ds) && !collInt ds) ||
  (form == 0 && decide (dw ds 12 < 1 ∨ 26 < dw ds 12)) ||
  (form == 2 && strides.any (fun x => x % collE ds != 0 || (x == 0 && collCount ds != 1)))

/-! ## Acceptance (12 R294, R296) -/

/-- A collective about to be accepted; the neighbour table is still to be read. -/
def Coll.ofDesc (form : Nat) (c b w : Nat) (ctx : Ctx) (handle : Nat) (wver : Word) (call : Bool) (op : Nat)
    (ds : List Word) : Coll :=
  { group := collGroup ds, ocore := c, slot := b, w := w, home := none, ctx := ctx, handle := handle, form := form
    desc := ds, table := [], wver := wver, call := call, op := op, got := [], cause := none }

/-- Read n entries of the neighbour table; the error is the package of a read that waits. -/
def Pkg.readTable (m : Nat) (ctx : Ctx) (va : DWord) :
    Nat → Pkg → List (List Word) → Except Pkg (Pkg × Except Charge (List (List Word)))
  | 0, p, acc => .ok (p, .ok acc.reverse)
  | n + 1, p, acc =>
    match p.engineRead m ctx va 64 with
    | .wait p => .error p
    | .fail p x => .ok (p, .error x)
    | .ok p bs => Pkg.readTable m ctx (va + 64) n p
        ((List.range 16).map (fun i => BitVec.ofNat 32 (recNat bs (4 * i) 4)) :: acc)

/-- A rank sends each other rank its message for a collective (log 36): the transactions that may still end without a response.
One that ran for 20 µs without a time-out was answered (26 R481). -/
def Pkg.sendMessages (p : Pkg) (g : Nat) : Pkg :=
  let gr := p.group g
  let live := gr.out.filter (fun o => decide (p.ptime.toNat < o.at_.toNat + 20000))
  p.setGroup g { gr with
    out := live ++ (gr.members.filter (· != p.link.pkgid)).map (fun m => ⟨m, p.ptime, false, none⟩) }

/-- Accept a collective, read by master m: the table of a halo exchange is read now (16 R375), and a fault of that read completes it. The
error is the package of a read that waits. -/
def Pkg.acceptColl (p : Pkg) (m id : Nat) (y : Coll) : Except Pkg Pkg :=
  let put (p : Pkg) (y : Coll) : Pkg := { p.sendMessages y.group with colls := KMap.insert id y p.colls }
  if y.form ≠ 0 then .ok (put p y)
  else
    let nbr := dva y.desc 10
    if nbr.toNat % 64 ≠ 0 then .ok (put p { y with cause := some ⟨0x16, nbr, 0⟩ })
    else
      match Pkg.readTable m y.ctx nbr (dw y.desc 12) p [] with
      | .error q => .error q
      | .ok (p, .ok t) => .ok (put p { y with table := t })
      | .ok (p, .error x) => .ok (put p { y with cause := some x })

/-- A `coll` form. -/
def collIssue (form : Nat) (g : Guard) (d a : Operand) (s : State) : Host.Outcome State Fault Refusal :=
  perform { Form.wa g [(.dst .w32, d), (.src .w32, a)] with once := true } (fun e p =>
    match e.warp p, e.block p with
    | some w, some b =>
      if e.classFull w 4 then Res.wait e.orig (.count 4)
      else
        match p.spAddr e.is.core e.is.slot (e.rd32 w a e.lead) 64 with
        | .error _ => Res.fail p e.act 0x16
        | .ok x =>
          if x.1 ≠ e.is.core ∨ x.2.1 ≠ e.is.slot then Res.fail p e.act 0x16
          else
            if e.tileBusy p x.1 x.2.1 x.2.2 64 false then Res.wait e.orig .mem
            else
            match p.spRead e.is.core e.is.slot x.2.2 64 (e.is.w == armNo) with
            | .error 0 => Res.wait e.orig .mem
            | .error c => Res.fail p e.act c (BitVec.ofNat 64 x.2.2)
            | .ok (p, bs) =>
              let ds := (List.range 16).map (fun i => BitVec.ofNat 32 (recNat bs (4 * i) 4))
              if collBad form ds || !(p.group (collGroup ds)).valid then Res.fail p e.act 0x16
              else if p.isFrozen 3 (collGroup ds % 2) then Res.wait e.orig .engine
              else
                let id := p.nextId
                let h := handleOf (w.collSeq + 1)
                let y := Coll.ofDesc form e.is.core e.is.slot e.is.w b.ctx h w.wver false id ds
                match ({ p with nextId := id + 1 } : Pkg).acceptColl
                    (masterOf xdie (3, splitMaster e.is.core e.is.slot e.is.w e.is.sp)) id y with
                | .error q => Res.wait (e.orig.waiting q) .mem
                | .ok p =>
                  let p := e.modWarp p (fun w => { w with collSeq := w.collSeq + 1 }.beginOp 4 id false)
                  e.writeAll p d (e.lanes.map (fun l => (l, [BitVec.ofNat 32 h])))
    | _, _ => Res.ok p) s

/-- `coll.halo`. -/
def execCollHalo (g : Guard) (d a : Operand) (s : State) : Host.Outcome State Fault Refusal := collIssue 0 g d a s

/-- `coll.allred`. -/
def execCollAllred (g : Guard) (d a : Operand) (s : State) : Host.Outcome State Fault Refusal := collIssue 1 g d a s

/-- `coll.a2a`. -/
def execCollA2a (g : Guard) (d a : Operand) (s : State) : Host.Outcome State Fault Refusal := collIssue 2 g d a s

/-- `coll.rs`. -/
def execCollRs (g : Guard) (d a : Operand) (s : State) : Host.Outcome State Fault Refusal := collIssue 3 g d a s

/-- `coll.ag`. -/
def execCollAg (g : Guard) (d a : Operand) (s : State) : Host.Outcome State Fault Refusal := collIssue 4 g d a s

/-- A collective handle of a warp is complete (12 R296): it was given and no collective holds it, or it is older than
the 64 newest. -/
def Pkg.collTested (p : Pkg) (i : Issuer) (w : Warp) (h : Nat) : Bool :=
  let newest := (List.range 64).any (fun k => decide (k < w.collSeq) && handleOf (w.collSeq - k) == h)
  if newest then
    !p.colls.any (fun y => y.2.home.isNone && y.2.ocore == i.core && y.2.slot == i.slot && y.2.w == i.w && y.2.handle == h)
  else decide (h ≠ 0) && (decide (h ≤ w.collSeq) || decide (2 ^ 32 ≤ w.collSeq))

/-- `coll.test`. -/
def execCollTest (g : Guard) (d a : Operand) (s : State) : Host.Outcome State Fault Refusal :=
  perform { Form.wa g [(.dst .w32, d), (.src .w32, a)] with once := true } (fun e p =>
    match e.warp p with
    | none => Res.ok p
    | some w => e.writeAll p d (e.lanes.map (fun l =>
        (l, [boolWord (p.collTested e.is w (e.rd32 w a e.lead).toNat)])))) s

/-! ## Class 7 calls (12 R286) -/

/-- The collective engine takes a class 7 call: a malformed record is rejected, an invalid group is a fault of cause
0x16, else the call becomes a collective. -/
def Pkg.admitCall (p : Pkg) (core id : Nat) : Pkg :=
  match (p.core core).calls.find? id with
  | none => p
  | some c =>
    match p.block? core c.slot, p.warp? core c.slot c.w with
    | some b, some w =>
      let ds := c.words.drop 2
      if 4 < c.type then p.answer core id (stRejected ||| stDone) [] none
      else if c.len ≠ 16 ∨ collBad c.type ds then p.answer core id (stRejected ||| stDone) [0] none
      else if !(p.group (collGroup ds)).valid then p.answerFault core id ⟨0x16, 0, 0⟩
      else if p.isFrozen 3 (collGroup ds % 2) then p
      else
        let n := p.nextId
        let y := Coll.ofDesc c.type core c.slot c.w b.ctx (handleOf (w.collSeq + 1)) c.wver true id ds
        (match ({ p with nextId := n + 1 } : Pkg).acceptColl (opMaster xdie id) n y with
         | .error q => p.waiting q
         | .ok p => (p.takeFromUnit core id).modWarp core c.slot c.w (fun w => { w with collSeq := w.collSeq + 1 }))
    | _, _ => p

/-- The engines take the class 7 calls that wait. -/
def Pkg.admitColls (p : Pkg) : Pkg :=
  p.cores.foldl (fun p k => (k.2.unitQueue 7).foldl (fun p id => p.admitCall k.1 id) p) p

/-- CALL_RETURN (12 R284): a call that its unit finished is complete, and its return record reaches the lane. -/
def execCallReturn (core id : Nat) (s : State) : Host.Outcome State Fault Refusal :=
  let p := s.pkg.admitColls
  match (p.core core).calls.find? id with
  | some c => if c.done && c.cls != 8 then .next { s with pkg := p.returnCall core id c } else .next { s with pkg := p }
  | none => .next { s with pkg := p }

/-! ## Messages (16 R373)

The spec gives no message format. Each rank sends each other rank one message for a collective: the form, OP, element code
(0x10 for I32) and a zero byte, COUNT in 4 bytes, then what it contributes to that rank: its elements in order, or for a halo
exchange each of its boxes for that rank, if any, as STAG, RTAG, NX, NY, NZ (1, 1, 2, 2 and 2 bytes) and its elements
(log 36). -/

/-- The header of the collective as a peer would send it. -/
def Coll.header (y : Coll) : List Byte :=
  [BitVec.ofNat 8 y.form, BitVec.ofNat 8 (collOp y.desc),
   if collInt y.desc then 0x10 else BitVec.ofNat 8 (bits (dw y.desc 0) 3 0), 0] ++ bytesOf 4 (collCount y.desc)

/-- A box of a halo exchange: tags, extents and elements. -/
structure Box where
  stag : Nat
  rtag : Nat
  nx : Nat
  ny : Nat
  nz : Nat
  data : List Byte
  deriving DecidableEq, Repr

/-- Elements of a box. -/
def Box.count (b : Box) : Nat := b.nx * b.ny * b.nz

/-- The boxes of a message; none when they do not fill it. -/
def readBoxes (esz : Nat) : Nat → List Byte → Option (List Box)
  | _, [] => some []
  | 0, _ => none
  | n + 1, bs =>
    let f (k l : Nat) : Nat := recNat bs k l
    let b : Box := ⟨f 0 1, f 1 1, f 2 2, f 4 2, f 6 2, (bs.drop 8).take (f 2 2 * f 4 2 * f 6 2 * esz)⟩
    if bs.length < 8 + b.count * esz then none
    else (readBoxes esz n (bs.drop (8 + b.count * esz))).map (fun t => b :: t)

/-- The message has the length that its form gives. -/
def Coll.wellSized (y : Coll) (data : List Byte) : Bool :=
  if y.form = 0 then (readBoxes (collE y.desc) data.length (data.drop 8)).isSome
  else data.length == 8 + collCount y.desc * collE y.desc

/-- Ranks whose message a collective needs: every other rank of the group, of which a halo exchange learns that none has a box
without an entry here (16 R375). -/
def Coll.needs (_ : Coll) (g : Group) : List Nat := (List.range g.size).filter (· != g.rank)

/-- COLL_MESSAGE: the oldest collective of the group that lacks the rank's message takes it, one that failed before its end or
has ended among them; one that does not match the package's own ends it with cause 0x16 (12 R296). Messages that no
collective awaits are discarded (26 R482), and none comes while the ports carry no traffic (16 R369). -/
def execCollMessage (g rank : Nat) (data : List Byte) (s : State) : Host.Outcome State Fault Refusal :=
  let p := s.pkg.admitColls
  let gr := p.group g
  if p.isFrozen 3 (g % 2) ∨ !gr.valid ∨ rank = gr.rank ∨ !p.link.linken then .next { s with pkg := p }
  else if gr.size ≤ rank then .next ({ s with pkg := p }.freezeMaster ⟨3, 3, g % 2, 0, 0⟩)
  else if gr.skip.getD rank 0 ≠ 0 then
    .next { s with pkg := p.setGroup g { gr with skip := gr.skip.setD rank (gr.skip.getD rank 0 - 1) 0 } }
  else
    match List.find? (fun e => e.2.group == g && (e.2.got.find? rank).isNone) p.colls with
    | none => .next { s with pkg := p }
    | some (id, y) =>
      let fits := decide (data.take 8 = y.header) && y.wellSized data
      let y' : Coll := { y with
        got := KMap.insert rank (data.drop 8) y.got
        cause := if y.cause.isSome || fits then y.cause else some ⟨0x16, 0, 0⟩ }
      .next { s with pkg := { p with colls := KMap.insert id y' p.colls } }

/-! ## Completion (12 R295, 16 R373-R376) -/

/-- An element of OP over two elements of a format (12 R295). -/
def collCombine (ds : List Word) (x y : Nat) : Nat :=
  if collInt ds then
    let a : Word := BitVec.ofNat 32 x
    let b : Word := BitVec.ofNat 32 y
    (match collOp ds with
     | 0 => a + b
     | 1 => if b.slt a then b else a
     | 2 => if a.slt b then b else a
     | 3 => a &&& b
     | 4 => a ||| b
     | _ => a ^^^ b).toNat
  else
    let f : Fmt := match bits (dw ds 0) 3 0 with | 0 => f64 | 1 => f32 | _ => bf16
    (match collOp ds with
     | 0 => f.add .rne (f.decode x) (f.decode y)
     | 1 => f.minmax false x y
     | _ => f.minmax true x y).1

/-- Read elements of the send side, each aligned to its size; the error is the package of a read that waits. -/
def Pkg.readElems (m : Nat) (ctx : Ctx) (esz : Nat) : List DWord → Pkg → List Nat → Except Pkg (Pkg × Except Charge (List Nat))
  | [], p, acc => .ok (p, .ok acc.reverse)
  | va :: t, p, acc =>
    if va.toNat % esz ≠ 0 then .ok (p, .error ⟨0x08, va, 0⟩)
    else
      match p.engineRead m ctx va esz with
      | .wait p => .error p
      | .fail p x => .ok (p, .error x)
      | .ok p bs => Pkg.readElems m ctx esz t p (ofBytes bs :: acc)

/-- Elements written at some addresses cover the sector of an address. -/
def coversSector (esz : Nat) (done : List DWord) (va : DWord) : Bool :=
  (List.range 64).all (fun k =>
    let b := va.toNat / 64 * 64 + k
    done.any (fun a => decide (a.toNat ≤ b ∧ b < a.toNat + esz)))

/-- Write elements of the receive side, after those at the addresses `done` of the same collective; the error is the package of a
write that waits. -/
def Pkg.writeElems (m : Nat) (ctx : Ctx) (wver : Word) (esz : Nat) :
    List DWord → List (DWord × Nat) → Pkg → Except Pkg (Pkg × Option Charge)
  | _, [], p => .ok (p, none)
  | done, (va, v) :: t, p =>
    if va.toNat % esz ≠ 0 then .ok (p, some ⟨0x08, va, 0⟩)
    else
      match p.engineWrite m ctx wver (coversSector esz (va :: done) va) va (bytesOf esz v) with
      | .wait p => .error p
      | .fail p x => .ok (p, some x)
      | .ok p _ => Pkg.writeElems m ctx wver esz (va :: done) t p

/-- Element i of an array of elements. -/
def at_ (base : DWord) (esz i : Nat) : DWord := base + BitVec.ofNat 64 (i * esz)

/-- Element i of a list of bytes. -/
def elemOf (esz : Nat) (bs : List Byte) (i : Nat) : Nat := ofBytes ((bs.drop (i * esz)).take esz)

/-- The addresses of a box in row-major order. -/
def boxAddrs (base : DWord) (esz nx ny nz ystr zstr : Nat) : List DWord :=
  (List.range nz).flatMap (fun z => (List.range ny).flatMap (fun y => (List.range nx).map (fun x =>
    base + BitVec.ofNat 64 (x * esz + y * ystr + z * zstr))))

/-- Addresses of the box that a table entry sends, or receives. -/
def entryAddrs (esz : Nat) (t : List Word) (recv : Bool) : List DWord :=
  boxAddrs (dva t (if recv then 4 else 2)) esz (bits (dw t 6) 15 0) (bits (dw t 6) 31 16) (bits (dw t 7) 15 0)
    (dw t (if recv then 10 else 8)) (dw t (if recv then 11 else 9))

/-- A table entry is malformed: a reserved field, a peer outside the group, or an empty extent (16 R375). -/
def entryBad (size : Nat) (t : List Word) : Bool :=
  dw t 1 != 0 || decide (dw t 7 / 65536 ≠ 0) || (List.range 4).any (fun i => dw t (12 + i) != 0) ||
  decide (size ≤ bits (dw t 0) 15 0) || bits (dw t 6) 15 0 == 0 || bits (dw t 6) 31 16 == 0 || bits (dw t 7) 15 0 == 0

/-- The receive addresses of a collective, in the order in which `results` gives their elements. -/
def Coll.recvAddrs (y : Coll) (g : Group) : List DWord :=
  let esz := collE y.desc
  let n := collCount y.desc
  let recv := dva y.desc 4
  match y.form with
  | 0 => y.table.flatMap (fun t => entryAddrs esz t true)
  | 2 => (List.range g.size).flatMap (fun s => (List.range n).map (fun i =>
      recv + BitVec.ofNat 64 (s * dw y.desc 8 + i * dw y.desc 9)))
  | 4 => (List.range (g.size * n)).map (at_ recv esz)
  | _ => (List.range n).map (at_ recv esz)

/-- The addresses of SEND in order: what this package contributes to every rank (16 R373). -/
def Coll.sendAddrs (y : Coll) (g : Group) : List DWord :=
  let esz := collE y.desc
  let n := collCount y.desc
  let send := dva y.desc 2
  match y.form with
  | 0 => y.table.flatMap (fun t => entryAddrs esz t false)
  | 2 => (List.range g.size).flatMap (fun s => (List.range n).map (fun i =>
      send + BitVec.ofNat 64 (s * dw y.desc 6 + i * dw y.desc 7)))
  | 3 => (List.range (g.size * n)).map (at_ send esz)
  | _ => (List.range n).map (at_ send esz)

/-- Where this rank's contribution to itself begins in SEND. -/
def Coll.ownBase (y : Coll) (g : Group) : Nat := if y.form = 2 ∨ y.form = 3 then g.rank * collCount y.desc else 0

/-- The contribution of rank s to element i; `own` is SEND. -/
def Coll.from_ (y : Coll) (g : Group) (own : List Nat) (s i : Nat) : Nat :=
  if s = g.rank then own.getD (y.ownBase g + i) 0 else elemOf (collE y.desc) (y.got.getD s []) i

/-- The ring sum of element i from rank c on (16 R374). -/
def Coll.ring (y : Coll) (g : Group) (own : List Nat) (c i : Nat) : Nat :=
  (List.range (g.size - 1)).foldl (fun acc j =>
    collCombine y.desc acc (y.from_ g own ((c + j + 1) % g.size) i)) (y.from_ g own c i)

/-- The boxes of the peers of a halo exchange with the rank that sent each; this rank's own boxes among them. -/
def Coll.boxes (y : Coll) (g : Group) (own : List Nat) : List (Nat × Box) :=
  let esz := collE y.desc
  let r := y.table.foldl (fun (acc : List (Nat × Box) × List Nat) t =>
    let b : Box := ⟨bits (dw t 0) 23 16, bits (dw t 0) 31 24, bits (dw t 6) 15 0, bits (dw t 6) 31 16, bits (dw t 7) 15 0, []⟩
    let mine := { b with data := (acc.2.take b.count).flatMap (bytesOf esz) }
    (acc.1 ++ (if bits (dw t 0) 15 0 = g.rank then [(g.rank, mine)] else []), acc.2.drop b.count)) ([], own)
  r.1 ++ y.got.flatMap (fun m => ((readBoxes esz m.2.length m.2).getD []).map (fun b => (m.1, b)))

/-- A box fits a table entry: the extents agree. -/
def Box.fits (b : Box) (t : List Word) : Bool :=
  b.nx == bits (dw t 6) 15 0 && b.ny == bits (dw t 6) 31 16 && b.nz == bits (dw t 7) 15 0

/-- The halo exchange matches at this rank: each box has one entry and each entry one box, of equal extents, and each
box sent has one entry of the peer. -/
def Coll.haloOk (y : Coll) (g : Group) (bs : List (Nat × Box)) : Bool :=
  let to_ (t : List Word) : Nat := bits (dw t 0) 15 0
  let rtag (t : List Word) : Nat := bits (dw t 0) 31 24
  let stag (t : List Word) : Nat := bits (dw t 0) 23 16
  y.table.all (fun t => !entryBad g.size t) &&
  bs.all (fun b =>
    let es := y.table.filter (fun t => to_ t == b.1 && rtag t == b.2.stag)
    es.length == 1 && es.all b.2.fits) &&
  y.table.all (fun t =>
    let es := bs.filter (fun b => b.1 == to_ t && b.2.rtag == stag t)
    (bs.filter (fun b => b.1 == to_ t && b.2.stag == rtag t)).length == 1 &&
    es.length == 1 && es.all (fun b => b.2.fits t))

/-- The results of a collective in the order of `recvAddrs`; none when it does not match. -/
def Coll.results (y : Coll) (g : Group) (own : List Nat) : Option (List Nat) :=
  let n := collCount y.desc
  let esz := collE y.desc
  match y.form with
  | 0 =>
    let bs := y.boxes g own
    if y.haloOk g bs then
      some (y.table.flatMap (fun t =>
        match bs.find? (fun b => b.1 == bits (dw t 0) 15 0 && b.2.stag == bits (dw t 0) 31 24) with
        | some b => (List.range b.2.count).map (elemOf esz b.2.data)
        | none => []))
    else none
  | 1 => some ((List.range n).map (fun i => y.ring g own (i / ((n + g.size - 1) / g.size)) i))
  | 3 => some ((List.range n).map (fun i => y.ring g own g.rank i))
  | _ => some ((List.range g.size).flatMap (fun s => (List.range n).map (fun i => y.from_ g own s i)))

/-- Messages of a collective that ends without them are still to come, and belong to no other (12 R296). -/
def Pkg.skipMissing (p : Pkg) (y : Coll) : Pkg :=
  let gr := p.group y.group
  let missing := (y.needs gr).filter (fun r => (y.got.find? r).isNone)
  if missing = [] then p
  else p.setGroup y.group { gr with skip := missing.foldl (fun m r => KMap.setD m r (KMap.getD m r 0 + 1) 0) gr.skip }

/-- A collective is over: its class 4 operation is done with its fault, or its call is answered. -/
def Pkg.endColl (p : Pkg) (id : Nat) (y : Coll) (fault : Option Charge) : Pkg :=
  let p : Pkg := { p.skipMissing y with colls := KMap.erase id p.colls }
  if y.call then
    match fault with
    | some x => p.answerFault y.ocore y.op x
    | none => p.answer y.ocore y.op stDone [BitVec.ofNat 32 y.handle] none
  else
    let p := p.modHome y.home y.ocore y.slot y.w (fun w => w.doneOp 4 y.op fault.toList)
    match fault, y.home, p.warp? y.ocore y.slot y.w with
    | some _, none, some w => if w.live = 0 then p.chargeExit y.ocore y.slot y.w w.uncharged else p
    | _, _, _ => p

/-- The byte addresses of elements. -/
def byteAddrs (esz : Nat) (vas : List DWord) : List DWord :=
  vas.flatMap (fun a => (List.range esz).map (fun k => a + BitVec.ofNat 64 k))

/-- The own block of an all-to-all whose receive range lies over its send range: each 4-byte piece of the send range is read
with its old or its new value (16 R376), by a free choice. `old` are the bytes before any receive write, `now` those after
the writes from other ranks; the block's own writes are laid over `now` for as long as they can still change a piece. -/
def mixPieces (tick : Nat) (from_ to_ : List DWord) (old now : List Byte) : List Byte :=
  let pick (vs : List Byte) : List Byte := (from_.zip (old.zip now)).map (fun x =>
    if Config.choice tick (x.1.toNat / 4) % 2 = 0 then x.2.1
    else match (to_.zip vs).reverse.find? (fun w => w.1 == x.1) with
      | some w => w.2
      | none => x.2.2)
  (List.range from_.length).foldl (fun vs _ => pick vs) (pick old)

/-- The own block of an all-to-all, once what other ranks sent is written, at the addresses `done`. -/
def Pkg.ownBlock (p : Pkg) (y : Coll) (g : Group) (own : List Nat) (done : List DWord) : Except Pkg (Pkg × Option Charge) :=
  let esz := collE y.desc
  let n := collCount y.desc
  let part {α : Type} (xs : List α) : List α := (xs.drop (g.rank * n)).take n
  let from_ := part (y.sendAddrs g)
  let to_ := part (y.recvAddrs g)
  match Pkg.readElems (opMaster xdie y.op) y.ctx esz from_ p [] with
  | .error q => .error q
  | .ok (p, .error x) => .ok (p, some x)
  | .ok (p, .ok now) =>
    let bytes (xs : List Nat) : List Byte := xs.flatMap (bytesOf esz)
    let vs := mixPieces p.tick (byteAddrs esz from_) (byteAddrs esz to_) (bytes (part own)) (bytes now)
    Pkg.writeElems (opMaster xdie y.op) y.ctx y.wver esz done (to_.zipIdx.map (fun x => (x.1, elemOf esz vs x.2))) p

/-- Perform a collective whose contributions are there: all of SEND is read, then RECV written (16 R373). The error is the
package of an access that waits. -/
def Pkg.runColl (p : Pkg) (y : Coll) (g : Group) : Except Pkg (Pkg × Option Charge) :=
  let esz := collE y.desc
  if y.form = 0 ∧ y.table.any (entryBad g.size) then .ok (p, some ⟨0x16, 0, 0⟩)
  else
    match Pkg.readElems (opMaster xdie y.op) y.ctx esz (y.sendAddrs g) p [] with
    | .error q => .error q
    | .ok (p, .error x) => .ok (p, some x)
    | .ok (p, .ok own) =>
      match y.results g own with
      | none => .ok (p, some ⟨0x16, 0, 0⟩)
      | some vs =>
        let out := (y.recvAddrs g).zip vs
        if y.form ≠ 2 then Pkg.writeElems (opMaster xdie y.op) y.ctx y.wver esz [] out p
        else
          let n := collCount y.desc
          let others := out.take (g.rank * n) ++ out.drop ((g.rank + 1) * n)
          match Pkg.writeElems (opMaster xdie y.op) y.ctx y.wver esz [] others p with
          | .ok (p, none) => p.ownBlock y g own (others.map Prod.fst)
          | r => r

/-- COLL_COMPLETE: the oldest collective of a group completes once it has every message, or failed. -/
def execCollComplete (g : Nat) (s : State) : Host.Outcome State Fault Refusal :=
  let p := s.pkg.admitColls
  let gr := p.group g
  if p.isFrozen 3 (g % 2) then .next { s with pkg := p }
  else
  match List.find? (fun e => e.2.group == g) p.colls with
  | none => .next { s with pkg := p }
  | some (id, y) =>
    match y.cause with
    | some x => .next { s with pkg := p.endColl id y (some x) }
    | none =>
      if !(y.needs gr).all (fun r => (y.got.find? r).isSome) then .next { s with pkg := p }
      else
        match p.runColl y gr with
        | .error q => .next { s with pkg := p.waiting q }
        | .ok r => .next { s with pkg := r.1.endColl id y r.2 }

/-! ## Lost members (26 R481-R483) -/

/-- After cause 0x26 each aligned 4 bytes of the receive ranges keeps its value or takes any (26 R483). -/
def Pkg.spoil (p : Pkg) (y : Coll) (g : Group) : Pkg :=
  let esz := collE y.desc
  (y.recvAddrs g).zipIdx.foldl (fun p a =>
    (List.range esz).foldl (fun p k =>
      let va := a.1 + BitVec.ofNat 64 k
      if Config.choice p.tick (va.toNat / 4) % 2 = 0 then p
      else match p.engineWrite (opMaster xdie y.op) y.ctx y.wver false va [Config.freeByte p.tick va.toNat] with
        | .ok p _ => p
        | .fail p _ => p
        | .wait p => p) p) p

/-- Steps 1 and 2 of R482: every collective of the group fails with cause 0x26 and the group is invalid. -/
def Pkg.loseMember (p : Pkg) (g pkg : Nat) : Pkg :=
  let gr := p.group g
  let p := (List.filter (fun e => e.2.group == g) p.colls).foldl (fun p e =>
    (p.spoil e.2 gr).endColl e.1 e.2 (some ⟨0x26, 0, BitVec.ofNat 16 (pkg % 1024)⟩)) p
  p.setGroup g { p.group g with valid := false, skip := [] }

/-- Step 3 of R482: an abort message for the group to every other member. -/
def Pkg.sendAborts (p : Pkg) (g pkg : Nat) : Pkg :=
  let gr := p.group g
  p.setGroup g { gr with out := (gr.members.filter (· != p.link.pkgid)).map (fun m => ⟨m, p.ptime, false, some pkg⟩) }

/-- PEER_LOST_TIMEOUT (26 R481): a message to a member got no response within 20 µs. It is sent once more on the next port that
is up; where that gets none within 20 µs either, the member is lost. -/
def execPeerLostTimeout (g pkg : Nat) (s : State) : Host.Outcome State Fault Refusal :=
  let p := s.pkg.admitColls
  let gr := p.group g
  match gr.out.findIdx? (fun o => o.to_ == pkg && decide (o.at_.toNat + 20000 ≤ p.ptime.toNat)) with
  | none => .next { s with pkg := p }
  | some k =>
    if !(gr.out[k]?).any OutMsg.again && p.link.portUp ≠ 0 then
      .next { s with pkg := p.setGroup g { gr with out := gr.out.modify k (fun o => { o with at_ := p.ptime, again := true }) } }
    else if gr.valid then .next { s with pkg := (p.loseMember g pkg).sendAborts g pkg }
    else .next { s with pkg := p.setGroup g { gr with out := gr.out.eraseIdx k } }

/-- COLL_ABORT_RECEIVE: a member's abort message. -/
def execCollAbortReceive (g pkg : Nat) (s : State) : Host.Outcome State Fault Refusal :=
  let p := s.pkg.admitColls
  if (p.group g).valid && (p.group g).members.contains pkg then .next { s with pkg := p.loseMember g pkg }
  else .next { s with pkg := p }

/-! ## The group table (16 R372) -/

/-- A collective of the group is accepted and not complete. -/
def Pkg.groupBusy (p : Pkg) (g : Nat) : Bool := p.colls.any (fun y => y.2.group == g)

/-- Read n bytes of package memory or a pod-remote page by physical address, in requests of at most 256 bytes (16 R368):
the bytes, or none where a read fails; the error is the package of a read that waits. `fuel` bounds the requests. -/
def Pkg.readPhys (m : Nat) : Nat → Pkg → Nat → Nat → List Byte → Except Pkg (Pkg × Option (List Byte))
  | 0, p, _, _, acc => .ok (p, some acc)
  | fuel + 1, p, pa, n, acc =>
    if n = 0 then .ok (p, some acc)
    else
      let k := min n (256 - pa % 256)
      match p.local? pa with
      | some a =>
        if p.homeDown a then .error p
        else if (List.range k).any (fun i => p.poisoned (a + i)) then .ok (p, none)
        else Pkg.readPhys m fuel p (pa + k) (n - k) (acc ++ p.readMem a k)
      | none =>
        match p.remote m pa k with
        | .value p bs => Pkg.readPhys m fuel p (pa + k) (n - k) (acc ++ bs)
        | .fail p _ => .ok (p, none)
        | .wait p => .error p

/-- Read n package ids of a member list. -/
def Pkg.readMembers (p : Pkg) (g : Nat) (pa : DWord) (n : Nat) : Except Pkg (Pkg × Option (List Nat)) :=
  match Pkg.readPhys (masterOf xdie (0, g + 1)) (n + 1) p pa.toNat (2 * n) [] with
  | .error q => .error q
  | .ok (p, bs) => .ok (p, bs.map (fun bs => (List.range n).map (fun i => recNat bs (2 * i) 2)))

/-- Read the member list at an address for a group's entry and set VALID where the list holds PKGID at RANK. While the read waits
VALID reads 0. -/
def Pkg.readGroup (p : Pkg) (g : Nat) (from_ : DWord) : Pkg :=
  let gr := p.group g
  match p.readMembers g from_ gr.size with
  | .error q => (p.waiting q).setGroup g { gr with reading := some from_ }
  | .ok (p, none) => p.setGroup g { gr with reading := none }
  | .ok (p, some ms) =>
    p.setGroup g (if ms[gr.rank]? = some p.link.pkgid then { gr with reading := none, valid := true, members := ms }
      else { gr with reading := none })

/-- A write of the first word of a group's entry: ignored while BUSY; VALID 1 reads the member list and stays 0 where
the entry is not usable. -/
def Pkg.writeGroup (p : Pkg) (g v : Nat) : Pkg :=
  if p.groupBusy g then p
  else
    let gr : Group := { p.group g with
      rank := bits v 25 16, size := bits v 9 0, valid := false, members := [], skip := [], out := [], reading := none }
    let q := p.setGroup g gr
    if !bit v 31 ∨ gr.size = 0 ∨ 576 < gr.size ∨ gr.size ≤ gr.rank then q else q.readGroup g gr.addr

/-- GROUP_VALIDATE: a write of the first word, or the read of the member list that waited for such a write. -/
def execGroupValidate (g : Nat) (v : Word) (s : State) : Host.Outcome State Fault Refusal :=
  if 256 ≤ g then .next s
  else match (s.pkg.group g).reading with
    | some a => .next { s with pkg := s.pkg.readGroup g a }
    | none => .next { s with pkg := s.pkg.writeGroup g v.toNat }

end Sys2Proof.Machine
end

