-- ==== Sys2Proof/Machine/Float.lean ====
section
/-!
DEFINITION. Floating-point arithmetic, conversions and compares (09_isa_floating.md R206-R224, 07 R169).
-/

namespace Sys2Proof.Machine

/-! ## Shapes (09 R206-R208) -/

/-- The effective rounding mode (03 R68). -/
def Env.rm (e : Env) (w : Warp) : RM := (e.md.bind (fun m => m.rm)).getD w.fprm

/-- A floating form: each lane's words and flags. A lane that traps has its words written first (03 R72). A form that waits
for a queue or for `sq` uses the modes and sets the flags when it is performed, after the wait (log 94, DESIGN CHOICE). -/
def floatForm (f : Form) (d : Operand) (val : Env → Warp → RM → Nat → List Word × FFlags) (s : State) :
    Host.Outcome State Fault Refusal :=
  perform f (fun e p =>
    match e.warp p with
    | none => Res.ok p
    | some w =>
      let rs := e.lanes.map (fun l => (l, val e w (e.rm w) l))
      let fl := rs.map (fun x => (x.1, x.2.2))
      let r := e.writeAll p d (rs.map (fun x => (x.1, x.2.1))) (w.fpTraps fl)
      if r.undone then r
      else
        { r with pkg := e.setFlags r.pkg (fl.filter (fun x =>
            !r.faults.any (fun y => y.lane == x.1 && y.cause != 0x28))) }) s

/-- The words of a result of a width. -/
def numWords (k : OpW) (v : Nat) : List Word := wordsOf k (BitVec.ofNat 64 v)

/-- A result as words with its flags. -/
def outOf (k : OpW) (r : Nat × FFlags) : List Word × FFlags := (numWords k r.1, r.2)

/-- An operand's bits. -/
def Env.num (e : Env) (w : Warp) (k : OpW) (o : Operand) (l : Nat) : Nat := (e.rdv w k o l).toNat

/-- A form in warps that regions allow (10 R249); `rm` says that it rounds in the effective mode. -/
def fpForm (g : Guard) (rm : Bool) (ops : List (Pos × Operand)) : Form :=
  { Form.w g ops with region := true, rm := rm }

/-- A two-operand form of one format. -/
def fp2 (t : Fmt) (k : OpW) (op : RM → Nat → Nat → Nat × FFlags) (rm : Bool) (g : Guard) (d a b : Operand)
    (s : State) : Host.Outcome State Fault Refusal :=
  floatForm (fpForm g rm [(.dst k, d), (.src k, a), (.src k, b)]) d
    (fun e w m l => outOf k (op m (e.num w k a l % 2 ^ t.width) (e.num w k b l % 2 ^ t.width))) s

/-- A fused form: a × b + d with the signs of a and d inverted as asked (09 R210). -/
def fp3 (t : Fmt) (k : OpW) (na nd : Bool) (g : Guard) (d a b : Operand) (s : State) :
    Host.Outcome State Fault Refusal :=
  floatForm (fpForm g true [(.upd k, d), (.src k, a), (.src k, b)]) d
    (fun e w m l =>
      let x := t.decode (e.num w k a l)
      let z := t.decode (e.num w k d l)
      outOf k (t.fma m (if na then x.flip else x) (t.decode (e.num w k b l)) (if nd then z.flip else z))) s

/-- A one-operand form. -/
def fp1 (kd ka : OpW) (op : RM → Nat → Nat × FFlags) (rm : Bool) (g : Guard) (d a : Operand) (s : State) :
    Host.Outcome State Fault Refusal :=
  floatForm (fpForm g rm [(.dst kd, d), (.src ka, a)]) d
    (fun e w m l => outOf kd (op m (e.num w ka a l))) s

/-- Scaling by a signed 32-bit b (09 R212). -/
def fpScale (t : Fmt) (k : OpW) (g : Guard) (d a b : Operand) (s : State) : Host.Outcome State Fault Refusal :=
  floatForm (fpForm g true [(.dst k, d), (.src k, a), (.src .w32, b)]) d
    (fun e w m l => outOf k (t.scale m (t.decode (e.num w k a l)) (e.rd32 w b l).toInt)) s

/-- Two elements of a packed pair, element i in bits [n i + n - 1 : n i] (03 R67). -/
def packed2 (n : Nat) (op : Nat → Nat × FFlags) : Nat × FFlags :=
  ((op 0).1 + (op 1).1 * 2 ^ n, (op 0).2 ||| (op 1).2)

/-- Element i of n bits. -/
def elem (n i v : Nat) : Nat := v / 2 ^ (n * i) % 2 ^ n

/-- A packed two-operand form (09 R207, R214-R215). -/
def fpx2 (k : OpW) (t : Fmt) (op : Fmt → RM → Fp → Fp → Nat × FFlags) (g : Guard) (d a b : Operand)
    (s : State) : Host.Outcome State Fault Refusal :=
  floatForm (fpForm g true [(.dst k, d), (.src k, a), (.src k, b)]) d
    (fun e w m l => outOf k (packed2 t.width (fun i =>
      op t m (t.decode (elem t.width i (e.num w k a l))) (t.decode (elem t.width i (e.num w k b l)))))) s

/-- A packed fused form; `na` inverts the sign of a. -/
def fpx3 (k : OpW) (t : Fmt) (na : Bool) (g : Guard) (d a b : Operand) (s : State) :
    Host.Outcome State Fault Refusal :=
  floatForm (fpForm g true [(.upd k, d), (.src k, a), (.src k, b)]) d
    (fun e w m l => outOf k (packed2 t.width (fun i =>
      let x := t.decode (elem t.width i (e.num w k a l))
      t.fma m (if na then x.flip else x) (t.decode (elem t.width i (e.num w k b l)))
        (t.decode (elem t.width i (e.num w k d l)))))) s

/-- A conversion (09 R224): not allowed in regions; SAT where `sat` says so. -/
def cvtForm (kd ka : OpW) (rm sat : Bool) (op : RM → Bool → Nat → Nat × FFlags) (g : Guard) (d a : Operand)
    (s : State) : Host.Outcome State Fault Refusal :=
  floatForm { Form.w g [(.dst kd, d), (.src ka, a)] with rm := rm, sat := sat } d
    (fun e w m l => outOf kd (op m (match e.md with | some x => x.sat | none => false) (e.num w ka a l))) s

/-- An integer result as bits of a register or pair. -/
def intBits (n : Nat) (r : Int × FFlags) : Nat × FFlags := ((BitVec.ofInt n r.1).toNat, r.2)

/-- A signed reading of n bits. -/
def signedOf (n v : Nat) : Int := (BitVec.ofNat n v).toInt

/-! ## FP64 and FP32 arithmetic (09 R209-R213) -/

/-- `add.f64` (09 R209). -/
def execAddF64 (g : Guard) (d a b : Operand) (s : State) :
    Host.Outcome State Fault Refusal :=
  fp2 f64 .w64 (fun m x y => f64.add m (f64.decode x) (f64.decode y)) true g d a b s

/-- `sub.f64` (09 R209). -/
def execSubF64 (g : Guard) (d a b : Operand) (s : State) :
    Host.Outcome State Fault Refusal :=
  fp2 f64 .w64 (fun m x y => f64.add m (f64.decode x) (f64.decode y).flip) true g d a b s

/-- `mul.f64` (09 R209). -/
def execMulF64 (g : Guard) (d a b : Operand) (s : State) :
    Host.Outcome State Fault Refusal :=
  fp2 f64 .w64 (fun m x y => f64.mul m (f64.decode x) (f64.decode y)) true g d a b s

/-- `div.f64` (09 R209, R211). -/
def execDivF64 (g : Guard) (d a b : Operand) (s : State) :
    Host.Outcome State Fault Refusal :=
  fp2 f64 .w64 (fun m x y => f64.div m (f64.decode x) (f64.decode y)) true g d a b s

/-- `min.f64` (09 R209, 03 R75). -/
def execMinF64 (g : Guard) (d a b : Operand) (s : State) :
    Host.Outcome State Fault Refusal :=
  fp2 f64 .w64 (fun _ x y => f64.minmax false x y) false g d a b s

/-- `max.f64` (09 R209, 03 R75). -/
def execMaxF64 (g : Guard) (d a b : Operand) (s : State) :
    Host.Outcome State Fault Refusal :=
  fp2 f64 .w64 (fun _ x y => f64.minmax true x y) false g d a b s

/-- `fma.f64` (09 R209, R210). -/
def execFmaF64 (g : Guard) (d a b : Operand) (s : State) :
    Host.Outcome State Fault Refusal :=
  fp3 f64 .w64 false false g d a b s

/-- `fms.f64` (09 R210). -/
def execFmsF64 (g : Guard) (d a b : Operand) (s : State) :
    Host.Outcome State Fault Refusal :=
  fp3 f64 .w64 false true g d a b s

/-- `fnma.f64` (09 R210). -/
def execFnmaF64 (g : Guard) (d a b : Operand) (s : State) :
    Host.Outcome State Fault Refusal :=
  fp3 f64 .w64 true false g d a b s

/-- `scale.f64` (09 R212). -/
def execScaleF64 (g : Guard) (d a b : Operand) (s : State) :
    Host.Outcome State Fault Refusal :=
  fpScale f64 .w64 g d a b s

/-- `add.f32` (09 R213). -/
def execAddF32 (g : Guard) (d a b : Operand) (s : State) :
    Host.Outcome State Fault Refusal :=
  fp2 f32 .w32 (fun m x y => f32.add m (f32.decode x) (f32.decode y)) true g d a b s

/-- `sub.f32` (09 R213). -/
def execSubF32 (g : Guard) (d a b : Operand) (s : State) :
    Host.Outcome State Fault Refusal :=
  fp2 f32 .w32 (fun m x y => f32.add m (f32.decode x) (f32.decode y).flip) true g d a b s

/-- `mul.f32` (09 R213). -/
def execMulF32 (g : Guard) (d a b : Operand) (s : State) :
    Host.Outcome State Fault Refusal :=
  fp2 f32 .w32 (fun m x y => f32.mul m (f32.decode x) (f32.decode y)) true g d a b s

/-- `div.f32` (09 R213, R211). -/
def execDivF32 (g : Guard) (d a b : Operand) (s : State) :
    Host.Outcome State Fault Refusal :=
  fp2 f32 .w32 (fun m x y => f32.div m (f32.decode x) (f32.decode y)) true g d a b s

/-- `min.f32` (09 R213, 03 R75). -/
def execMinF32 (g : Guard) (d a b : Operand) (s : State) :
    Host.Outcome State Fault Refusal :=
  fp2 f32 .w32 (fun _ x y => f32.minmax false x y) false g d a b s

/-- `max.f32` (09 R213, 03 R75). -/
def execMaxF32 (g : Guard) (d a b : Operand) (s : State) :
    Host.Outcome State Fault Refusal :=
  fp2 f32 .w32 (fun _ x y => f32.minmax true x y) false g d a b s

/-- `fma.f32` (09 R213, R210). -/
def execFmaF32 (g : Guard) (d a b : Operand) (s : State) :
    Host.Outcome State Fault Refusal :=
  fp3 f32 .w32 false false g d a b s

/-- `scale.f32` (09 R212). -/
def execScaleF32 (g : Guard) (d a b : Operand) (s : State) :
    Host.Outcome State Fault Refusal :=
  fpScale f32 .w32 g d a b s

/-! ## Packed pairs (09 R214-R215) -/

/-- `add.f32x2` (09 R214). -/
def execAddF32x2 (g : Guard) (d a b : Operand) (s : State) :
    Host.Outcome State Fault Refusal :=
  fpx2 .w64 f32 Fmt.add g d a b s

/-- `mul.f32x2` (09 R214). -/
def execMulF32x2 (g : Guard) (d a b : Operand) (s : State) :
    Host.Outcome State Fault Refusal :=
  fpx2 .w64 f32 Fmt.mul g d a b s

/-- `fma.f32x2` (09 R214). -/
def execFmaF32x2 (g : Guard) (d a b : Operand) (s : State) :
    Host.Outcome State Fault Refusal :=
  fpx3 .w64 f32 false g d a b s

/-- `fnma.f32x2` (09 R214). -/
def execFnmaF32x2 (g : Guard) (d a b : Operand) (s : State) :
    Host.Outcome State Fault Refusal :=
  fpx3 .w64 f32 true g d a b s

/-- `fma.f16x2` (09 R215). -/
def execFmaF16x2 (g : Guard) (d a b : Operand) (s : State) :
    Host.Outcome State Fault Refusal :=
  fpx3 .w32 f16 false g d a b s

/-- `fma.bf16x2` (09 R215). -/
def execFmaBf16x2 (g : Guard) (d a b : Operand) (s : State) :
    Host.Outcome State Fault Refusal :=
  fpx3 .w32 bf16 false g d a b s

/-- `add.f16x2` (09 R215). -/
def execAddF16x2 (g : Guard) (d a b : Operand) (s : State) :
    Host.Outcome State Fault Refusal :=
  fpx2 .w32 f16 Fmt.add g d a b s

/-- `mul.f16x2` (09 R215). -/
def execMulF16x2 (g : Guard) (d a b : Operand) (s : State) :
    Host.Outcome State Fault Refusal :=
  fpx2 .w32 f16 Fmt.mul g d a b s

/-- `add.bf16x2` (09 R215). -/
def execAddBf16x2 (g : Guard) (d a b : Operand) (s : State) :
    Host.Outcome State Fault Refusal :=
  fpx2 .w32 bf16 Fmt.add g d a b s

/-- `mul.bf16x2` (09 R215). -/
def execMulBf16x2 (g : Guard) (d a b : Operand) (s : State) :
    Host.Outcome State Fault Refusal :=
  fpx2 .w32 bf16 Fmt.mul g d a b s

/-! ## Unary functions (09 R216-R223) -/

/-- `neg.f64` (03 R76). -/
def execNegF64 (g : Guard) (d a : Operand) (s : State) :
    Host.Outcome State Fault Refusal :=
  fp1 .w64 .w64 (fun _ x => (f64.negate x, 0)) false g d a s

/-- `abs.f64` (03 R76). -/
def execAbsF64 (g : Guard) (d a : Operand) (s : State) :
    Host.Outcome State Fault Refusal :=
  fp1 .w64 .w64 (fun _ x => (f64.absolute x, 0)) false g d a s

/-- `sqrt.f64` (09 R216). -/
def execSqrtF64 (g : Guard) (d a : Operand) (s : State) :
    Host.Outcome State Fault Refusal :=
  fp1 .w64 .w64 (fun m x => f64.sqrt m (f64.decode x)) true g d a s

/-- `rcp.f64` (09 R216). -/
def execRcpF64 (g : Guard) (d a : Operand) (s : State) :
    Host.Outcome State Fault Refusal :=
  fp1 .w64 .w64 (fun m x => f64.div m Fp.one (f64.decode x)) true g d a s

/-- `floor.f64` (09 R217). -/
def execFloorF64 (g : Guard) (d a : Operand) (s : State) :
    Host.Outcome State Fault Refusal :=
  fp1 .w64 .w64 (fun _ x => f64.toIntegral .rd false x) false g d a s

/-- `ceil.f64` (09 R217). -/
def execCeilF64 (g : Guard) (d a : Operand) (s : State) :
    Host.Outcome State Fault Refusal :=
  fp1 .w64 .w64 (fun _ x => f64.toIntegral .ru false x) false g d a s

/-- `trunc.f64` (09 R217). -/
def execTruncF64 (g : Guard) (d a : Operand) (s : State) :
    Host.Outcome State Fault Refusal :=
  fp1 .w64 .w64 (fun _ x => f64.toIntegral .rz false x) false g d a s

/-- `rint.f64` (09 R217). -/
def execRintF64 (g : Guard) (d a : Operand) (s : State) :
    Host.Outcome State Fault Refusal :=
  fp1 .w64 .w64 (fun m x => f64.toIntegral m true x) true g d a s

/-- `class.f64` (09 R218). -/
def execClassF64 (g : Guard) (d a : Operand) (s : State) :
    Host.Outcome State Fault Refusal :=
  fp1 .w32 .w64 (fun _ x => (f64.classMask x, 0)) false g d a s

/-- `rsq.est.f64` (09 R221-R222). -/
def execRsqEstF64 (g : Guard) (d a : Operand) (s : State) :
    Host.Outcome State Fault Refusal :=
  fp1 .w64 .w64 (fun _ x => f64.rsqEst 0 x) false g d a s

/-- `neg.f32` (03 R76). -/
def execNegF32 (g : Guard) (d a : Operand) (s : State) :
    Host.Outcome State Fault Refusal :=
  fp1 .w32 .w32 (fun _ x => (f32.negate x, 0)) false g d a s

/-- `abs.f32` (03 R76). -/
def execAbsF32 (g : Guard) (d a : Operand) (s : State) :
    Host.Outcome State Fault Refusal :=
  fp1 .w32 .w32 (fun _ x => (f32.absolute x, 0)) false g d a s

/-- `sqrt.f32` (09 R216). -/
def execSqrtF32 (g : Guard) (d a : Operand) (s : State) :
    Host.Outcome State Fault Refusal :=
  fp1 .w32 .w32 (fun m x => f32.sqrt m (f32.decode x)) true g d a s

/-- `rcp.f32` (09 R216). -/
def execRcpF32 (g : Guard) (d a : Operand) (s : State) :
    Host.Outcome State Fault Refusal :=
  fp1 .w32 .w32 (fun m x => f32.div m Fp.one (f32.decode x)) true g d a s

/-- `floor.f32` (09 R217). -/
def execFloorF32 (g : Guard) (d a : Operand) (s : State) :
    Host.Outcome State Fault Refusal :=
  fp1 .w32 .w32 (fun _ x => f32.toIntegral .rd false x) false g d a s

/-- `ceil.f32` (09 R217). -/
def execCeilF32 (g : Guard) (d a : Operand) (s : State) :
    Host.Outcome State Fault Refusal :=
  fp1 .w32 .w32 (fun _ x => f32.toIntegral .ru false x) false g d a s

/-- `trunc.f32` (09 R217). -/
def execTruncF32 (g : Guard) (d a : Operand) (s : State) :
    Host.Outcome State Fault Refusal :=
  fp1 .w32 .w32 (fun _ x => f32.toIntegral .rz false x) false g d a s

/-- `rint.f32` (09 R217). -/
def execRintF32 (g : Guard) (d a : Operand) (s : State) :
    Host.Outcome State Fault Refusal :=
  fp1 .w32 .w32 (fun m x => f32.toIntegral m true x) true g d a s

/-- `class.f32` (09 R218). -/
def execClassF32 (g : Guard) (d a : Operand) (s : State) :
    Host.Outcome State Fault Refusal :=
  fp1 .w32 .w32 (fun _ x => (f32.classMask x, 0)) false g d a s

/-- `rsq.est.f32` (09 R221-R222). -/
def execRsqEstF32 (g : Guard) (d a : Operand) (s : State) :
    Host.Outcome State Fault Refusal :=
  fp1 .w32 .w32 (fun _ x => f32.rsqEst 1 x) false g d a s

/-- `getexp.f64` (09 R219). -/
def execGetexpF64 (g : Guard) (d a : Operand) (s : State) :
    Host.Outcome State Fault Refusal :=
  fp1 .w64 .w64 (fun _ x => f64.getexp x) false g d a s

/-- `getmant.f64` (09 R219). -/
def execGetmantF64 (g : Guard) (d a : Operand) (s : State) :
    Host.Outcome State Fault Refusal :=
  fp1 .w64 .w64 (fun _ x => f64.getmant x) false g d a s

/-- `exp2.est.f32` (09 R221-R222). -/
def execExp2EstF32 (g : Guard) (d a : Operand) (s : State) :
    Host.Outcome State Fault Refusal :=
  fp1 .w32 .w32 (fun _ x => exp2Est x) false g d a s

/-- `log2.est.f32` (09 R221-R222). -/
def execLog2EstF32 (g : Guard) (d a : Operand) (s : State) :
    Host.Outcome State Fault Refusal :=
  fp1 .w32 .w32 (fun _ x => log2Est x) false g d a s

/-- `sin.est.f32` (09 R221-R223). -/
def execSinEstF32 (g : Guard) (d a : Operand) (s : State) :
    Host.Outcome State Fault Refusal :=
  fp1 .w32 .w32 (fun _ x => trigEst false x) false g d a s

/-- `cos.est.f32` (09 R221-R223). -/
def execCosEstF32 (g : Guard) (d a : Operand) (s : State) :
    Host.Outcome State Fault Refusal :=
  fp1 .w32 .w32 (fun _ x => trigEst true x) false g d a s

/-- `tanh.est.f32` (09 R221-R222). -/
def execTanhEstF32 (g : Guard) (d a : Operand) (s : State) :
    Host.Outcome State Fault Refusal :=
  fp1 .w32 .w32 (fun _ x => tanhEst x) false g d a s

/-! ## Conversions (09 R224, 03 R77-R79) -/

/-- `cvt.f64.i32` (09 R224). -/
def execCvtF64I32 (g : Guard) (d a : Operand) (s : State) :
    Host.Outcome State Fault Refusal :=
  cvtForm .w64 .w32 false false (fun _ _ x => f64.ofInt .rne (signedOf 32 x)) g d a s

/-- `cvt.f64.n32` (09 R224). -/
def execCvtF64N32 (g : Guard) (d a : Operand) (s : State) :
    Host.Outcome State Fault Refusal :=
  cvtForm .w64 .w32 false false (fun _ _ x => f64.ofInt .rne x) g d a s

/-- `cvt.f64.i64` (09 R224). -/
def execCvtF64I64 (g : Guard) (d a : Operand) (s : State) :
    Host.Outcome State Fault Refusal :=
  cvtForm .w64 .w64 true false (fun m _ x => f64.ofInt m (signedOf 64 x)) g d a s

/-- `cvt.i32.f64` (09 R224). -/
def execCvtI32F64 (g : Guard) (d a : Operand) (s : State) :
    Host.Outcome State Fault Refusal :=
  cvtForm .w32 .w64 true false (fun m _ x => intBits 32 (toInteger m (-2147483648) 2147483647 (f64.decode x))) g d a s

/-- `cvt.n32.f64` (09 R224). -/
def execCvtN32F64 (g : Guard) (d a : Operand) (s : State) :
    Host.Outcome State Fault Refusal :=
  cvtForm .w32 .w64 true false (fun m _ x => intBits 32 (toInteger m 0 4294967295 (f64.decode x))) g d a s

/-- `cvt.i64.f64` (09 R224). -/
def execCvtI64F64 (g : Guard) (d a : Operand) (s : State) :
    Host.Outcome State Fault Refusal :=
  cvtForm .w64 .w64 true false (fun m _ x => intBits 64 (toInteger m (-9223372036854775808) 9223372036854775807 (f64.decode x))) g d a s

/-- `cvt.f32.i32` (09 R224). -/
def execCvtF32I32 (g : Guard) (d a : Operand) (s : State) :
    Host.Outcome State Fault Refusal :=
  cvtForm .w32 .w32 true false (fun m _ x => f32.ofInt m (signedOf 32 x)) g d a s

/-- `cvt.i32.f32` (09 R224). -/
def execCvtI32F32 (g : Guard) (d a : Operand) (s : State) :
    Host.Outcome State Fault Refusal :=
  cvtForm .w32 .w32 true false (fun m _ x => intBits 32 (toInteger m (-2147483648) 2147483647 (f32.decode x))) g d a s

/-- `cvt.f32.f64` (09 R224). -/
def execCvtF32F64 (g : Guard) (d a : Operand) (s : State) :
    Host.Outcome State Fault Refusal :=
  cvtForm .w32 .w64 true false (fun m _ x => f32.convert .ieee m (f64.decode x)) g d a s

/-- `cvt.f64.f32` (09 R224). -/
def execCvtF64F32 (g : Guard) (d a : Operand) (s : State) :
    Host.Outcome State Fault Refusal :=
  cvtForm .w64 .w32 false false (fun _ _ x => f64.convert .ieee .rne (f32.decode x)) g d a s

/-- `cvt.f16.f32` (09 R224). -/
def execCvtF16F32 (g : Guard) (d a : Operand) (s : State) :
    Host.Outcome State Fault Refusal :=
  cvtForm .w32 .w32 true true (fun m sat x => f16.convert (f16.over sat) m (f32.decode x)) g d a s

/-- `cvt.f32.f16` (09 R224). -/
def execCvtF32F16 (g : Guard) (d a : Operand) (s : State) :
    Host.Outcome State Fault Refusal :=
  cvtForm .w32 .w32 false false (fun _ _ x => f32.convert .ieee .rne (f16.decode (elem 16 0 x))) g d a s

/-- `cvt.bf16.f32` (09 R224). -/
def execCvtBf16F32 (g : Guard) (d a : Operand) (s : State) :
    Host.Outcome State Fault Refusal :=
  cvtForm .w32 .w32 true true (fun m sat x => bf16.convert (bf16.over sat) m (f32.decode x)) g d a s

/-- `cvt.f32.bf16` (09 R224). -/
def execCvtF32Bf16 (g : Guard) (d a : Operand) (s : State) :
    Host.Outcome State Fault Refusal :=
  cvtForm .w32 .w32 false false (fun _ _ x => f32.convert .ieee .rne (bf16.decode (elem 16 0 x))) g d a s

/-! ## Compares (07 R169, 03 R71) -/

/-- A floating compare. -/
def setpFloat (t : Fmt) (k : OpW) (g : Guard) (p : CDst) (c : Cmp) (a b : Operand) (s : State) :
    Host.Outcome State Fault Refusal :=
  compare { Form.w g [(.src k, a), (.src k, b)] with region := true, tag := .own } p k .float c a b
    (fun e w l => (t.cmp c (e.num w k a l) (e.num w k b l)).1)
    (fun e w l => (t.cmp c (e.num w k a l) (e.num w k b l)).2) s

/-- `setp.f64` (08 R188). -/
def execSetpF64 (g : Guard) (p : CDst) (c : Cmp) (a b : Operand) (s : State) :
    Host.Outcome State Fault Refusal := setpFloat f64 .w64 g p c a b s

/-- `setp.f32` (08 R188). -/
def execSetpF32 (g : Guard) (p : CDst) (c : Cmp) (a b : Operand) (s : State) :
    Host.Outcome State Fault Refusal := setpFloat f32 .w32 g p c a b s

end Sys2Proof.Machine
end

