-- ==== Sys2Proof/Machine/Narrow.lean ====
section
/-!
DEFINITION. Packed narrow arithmetic: dot products, packing and unpacking (09_isa_floating.md R225-R230).
-/

namespace Sys2Proof.Machine

/-! ## Dot products (09 R225-R227) -/

/-- A floating dot form over n elements of a format, element width `ew` (03 R67). -/
def dotFloat (t : Fmt) (ew n : Nat) (g : Guard) (d a b : Operand) (s : State) :
    Host.Outcome State Fault Refusal :=
  floatForm { Form.w g [(.upd .w32, d), (.src .w32, a), (.src .w32, b)] with rm := true } d
    (fun e w m l =>
      let x := e.num w .w32 a l
      let y := e.num w .w32 b l
      outOf .w32 (f32.dot m (f32.decode (e.num w .w32 d l))
        ((List.range n).map (fun i => (t.decode (elem ew i x), t.decode (elem ew i y)))))) s

/-- An integer dot form. -/
def dotInt (ew n : Nat) (g : Guard) (d a b : Operand) (s : State) : Host.Outcome State Fault Refusal :=
  laneForm (Form.w g [(.upd .w32, d), (.src .w32, a), (.src .w32, b)]) d
    (fun e w l =>
      let x := (e.rd32 w a l).toNat
      let y := (e.rd32 w b l).toNat
      let sum := (List.range n).foldl (fun (t : Int) i =>
        t + signedOf ew (elem ew i x) * signedOf ew (elem ew i y)) (e.rd32 w d l).toInt
      [BitVec.ofInt 32 sum]) s

/-! ## Packing (09 R228-R229) -/

/-- A pk2 form to a floating format. -/
def pkFloat (t : Fmt) (ew : Nat) (g : Guard) (d a b : Operand) (s : State) : Host.Outcome State Fault Refusal :=
  floatForm { Form.w g [(.dst .w32, d), (.src .w32, a), (.src .w32, b)] with rm := true, sat := true } d
    (fun e w m l =>
      let o := t.over (match e.md with | some x => x.sat | none => false)
      outOf .w32 (packed2 ew (fun i =>
        t.convert o m (f32.decode (e.num w .w32 (if i = 0 then a else b) l))))) s

/-- A pk2 form to an integer format. -/
def pkInt (ew : Nat) (g : Guard) (d a b : Operand) (s : State) : Host.Outcome State Fault Refusal :=
  floatForm { Form.w g [(.dst .w32, d), (.src .w32, a), (.src .w32, b)] with rm := true } d
    (fun e w m l => outOf .w32 (packed2 ew (fun i =>
      intBits ew (toInteger m (-(2 ^ (ew - 1))) (2 ^ (ew - 1) - 1)
        (f32.decode (e.num w .w32 (if i = 0 then a else b) l)))))) s

/-! ## Unpacking (09 R230) -/

/-- An upk form: the value of an element as FP32, exactly. -/
def upkForm (val : Nat → Nat × FFlags) (g : Guard) (d a : Operand) (s : State) :
    Host.Outcome State Fault Refusal :=
  floatForm (Form.w g [(.dst .w32, d), (.src .w32, a)]) d
    (fun e w _ l => outOf .w32 (val (e.num w .w32 a l))) s

/-- Unpack a floating element. -/
def upkFloat (t : Fmt) (ew e : Nat) (v : Nat) : Nat × FFlags := f32.convert .ieee .rne (t.decode (elem ew e v))

/-- Unpack an integer element. -/
def upkInt (ew e : Nat) (v : Nat) : Nat × FFlags := f32.ofInt .rne (signedOf ew (elem ew e v))

/-- `dot4.e4m3` (09 R225-R226). -/
def execDot4E4m3 (g : Guard) (d a b : Operand) (s : State) :
    Host.Outcome State Fault Refusal :=
  dotFloat e4m3 8 4 g d a b s

/-- `dot4.e5m2` (09 R225-R226). -/
def execDot4E5m2 (g : Guard) (d a b : Operand) (s : State) :
    Host.Outcome State Fault Refusal :=
  dotFloat e5m2 8 4 g d a b s

/-- `dot4.e3m2` (09 R225-R226). -/
def execDot4E3m2 (g : Guard) (d a b : Operand) (s : State) :
    Host.Outcome State Fault Refusal :=
  dotFloat e3m2 6 4 g d a b s

/-- `dot8.e2m1` (09 R225-R226). -/
def execDot8E2m1 (g : Guard) (d a b : Operand) (s : State) :
    Host.Outcome State Fault Refusal :=
  dotFloat e2m1 4 8 g d a b s

/-- `dot2.f16` (09 R225-R226). -/
def execDot2F16 (g : Guard) (d a b : Operand) (s : State) :
    Host.Outcome State Fault Refusal :=
  dotFloat f16 16 2 g d a b s

/-- `dot2.bf16` (09 R225-R226). -/
def execDot2Bf16 (g : Guard) (d a b : Operand) (s : State) :
    Host.Outcome State Fault Refusal :=
  dotFloat bf16 16 2 g d a b s

/-- `dot4.i8` (09 R227). -/
def execDot4I8 (g : Guard) (d a b : Operand) (s : State) :
    Host.Outcome State Fault Refusal :=
  dotInt 8 4 g d a b s

/-- `dot8.i4` (09 R227). -/
def execDot8I4 (g : Guard) (d a b : Operand) (s : State) :
    Host.Outcome State Fault Refusal :=
  dotInt 4 8 g d a b s

/-- `pk2.e4m3` (09 R228-R229). -/
def execPk2E4m3 (g : Guard) (d a b : Operand) (s : State) :
    Host.Outcome State Fault Refusal :=
  pkFloat e4m3 8 g d a b s

/-- `pk2.e5m2` (09 R228-R229). -/
def execPk2E5m2 (g : Guard) (d a b : Operand) (s : State) :
    Host.Outcome State Fault Refusal :=
  pkFloat e5m2 8 g d a b s

/-- `pk2.e2m1` (09 R228-R229). -/
def execPk2E2m1 (g : Guard) (d a b : Operand) (s : State) :
    Host.Outcome State Fault Refusal :=
  pkFloat e2m1 4 g d a b s

/-- `pk2.e3m2` (09 R228-R229). -/
def execPk2E3m2 (g : Guard) (d a b : Operand) (s : State) :
    Host.Outcome State Fault Refusal :=
  pkFloat e3m2 6 g d a b s

/-- `pk2.i4` (09 R228-R229). -/
def execPk2I4 (g : Guard) (d a b : Operand) (s : State) :
    Host.Outcome State Fault Refusal :=
  pkInt 4 g d a b s

/-- `pk2.i8` (09 R228-R229). -/
def execPk2I8 (g : Guard) (d a b : Operand) (s : State) :
    Host.Outcome State Fault Refusal :=
  pkInt 8 g d a b s

/-- `upk.e4m3` (09 R230). -/
def execUpkE4m3 (g : Guard) (d a : Operand) (i : Fin 4) (s : State) :
    Host.Outcome State Fault Refusal :=
  upkForm (upkFloat e4m3 8 i.val) g d a s

/-- `upk.e5m2` (09 R230). -/
def execUpkE5m2 (g : Guard) (d a : Operand) (i : Fin 4) (s : State) :
    Host.Outcome State Fault Refusal :=
  upkForm (upkFloat e5m2 8 i.val) g d a s

/-- `upk.e3m2` (09 R230). -/
def execUpkE3m2 (g : Guard) (d a : Operand) (i : Fin 4) (s : State) :
    Host.Outcome State Fault Refusal :=
  upkForm (upkFloat e3m2 6 i.val) g d a s

/-- `upk.e2m1` (09 R230). -/
def execUpkE2m1 (g : Guard) (d a : Operand) (i : Fin 8) (s : State) :
    Host.Outcome State Fault Refusal :=
  upkForm (upkFloat e2m1 4 i.val) g d a s

/-- `upk.i8` (09 R230). -/
def execUpkI8 (g : Guard) (d a : Operand) (i : Fin 4) (s : State) :
    Host.Outcome State Fault Refusal :=
  upkForm (upkInt 8 i.val) g d a s

/-- `upk.i4` (09 R230). -/
def execUpkI4 (g : Guard) (d a : Operand) (i : Fin 8) (s : State) :
    Host.Outcome State Fault Refusal :=
  upkForm (upkInt 4 i.val) g d a s

/-- `upk.f16` (09 R230). -/
def execUpkF16 (g : Guard) (d a : Operand) (i : Fin 2) (s : State) :
    Host.Outcome State Fault Refusal :=
  upkForm (upkFloat f16 16 i.val) g d a s

/-- `upk.bf16` (09 R230). -/
def execUpkBf16 (g : Guard) (d a : Operand) (i : Fin 2) (s : State) :
    Host.Outcome State Fault Refusal :=
  upkForm (upkFloat bf16 16 i.val) g d a s

/-- `upk.k8` (09 R230, 03 R65). -/
def execUpkK8 (g : Guard) (d a : Operand) (i : Fin 4) (s : State) :
    Host.Outcome State Fault Refusal :=
  upkForm (fun v => f32.convert .ieee .rne (k8Value (elem 8 i.val v))) g d a s

end Sys2Proof.Machine
end

