-- ==== Sys2Proof/Machine/Matrix.lean ====
section
/-!
DEFINITION. The armature's feed queue and matrix forms: `sq.push`, `mload.b`, `mma`, `mzero`, `mcvt`, `arm.wait`
(11_isa_armature_matrix.md R258-R274), and the window sum of 03_number_formats.md R82. An instruction is checked, and
takes the formats and kinds it sets, when it issues; the unit performs it when it completes, in stream order (R271).
-/

namespace Sys2Proof.Machine

/-! ## Formats (07 R168, 11 R263) -/

/-- The floating format of a code. -/
def fmtCode (n : Nat) : Option Fmt := [f64, f32, f16, bf16, e4m3, e5m2, e3m2, e2m1][n]?

/-- Bits of an element of a format code. -/
def fmtBits (n : Nat) : Nat := [64, 32, 16, 16, 8, 8, 6, 4, 8, 4].getD n 8

/-- K of a format code. -/
def fmtK (n : Nat) : Nat := [32, 64, 128, 128, 128, 128, 256, 256, 128, 256].getD n 0

/-- The accumulator kind that a format gives. -/
def fmtKind (n : Nat) : AccKind := if n = 0 then .f64 else if 8 ≤ n then .i32 else .f32

/-- Bytes of a row of n elements of a format code. -/
def rowLen (f n : Nat) : Nat := n * fmtBits f / 8

/-- Element j of a packed row (03 R66): elements follow one another in little-endian bit order. -/
def rowElem (f row j : Nat) : Nat := row / 2 ^ (fmtBits f * j) % 2 ^ fmtBits f

/-- The number that packed elements of w bits spell. -/
def packRow (w : Nat) (vs : List Nat) : Nat := vs.foldr (fun v t => v % 2 ^ w + 2 ^ w * t) 0

/-! ## The window sum (03 R82) -/

/-- An exact product: NaN of a NaN or of 0 × ∞. -/
def Fp.times (a b : Fp) : Fp :=
  if a.isNan || b.isNan || (a.isZero && b.isInf) || (a.isInf && b.isZero) then .nan false
  else
    match a, b with
    | .fin s m e, .fin t n f => .fin (s != t) (m * n) (e + f)
    | _, _ => .inf (a.neg != b.neg)

/-- The sign, magnitude and exponent of a finite value. -/
def Fp.parts : Fp → Bool × Nat × Int
  | .fin s m e => (s, m, e)
  | _ => (false, 0, 0)

/-- The part of m × 2^e that the lowest kept weight 2^q divides, in units of 2^q. -/
def truncTo (m : Nat) (e q : Int) : Nat := if q ≤ e then m * 2 ^ (e - q).toNat else m / 2 ^ (q - e).toNat

/-- WindowSum of R82: each term loses what lies below the window of `width` bits, the sum is rounded once to nearest even. -/
def Fmt.windowSum (f : Fmt) (width : Int) (c : Fp) (prods : List Fp) : Nat :=
  let ts := c :: prods
  let infs := (ts.filter Fp.isInf).map Fp.neg
  if ts.any Fp.isNan || (infs.contains true && infs.contains false) then f.nanBits
  else
    match infs with
    | s :: _ => f.infBits s
    | [] =>
      let nz := (ts.filter (fun t => !t.isZero)).map Fp.parts
      match nz with
      | [] => f.zeroBits (ts.all Fp.neg)
      | t :: _ =>
        let top := nz.foldl (fun (a : Int) x => max a (Nat.log2 x.2.1 + x.2.2)) (Nat.log2 t.2.1 + t.2.2)
        let q := top - width + 1
        let sum := nz.foldl (fun (a : Int) x =>
          let v : Int := truncTo x.2.1 x.2.2 q
          if x.1 then a - v else a + v) 0
        if sum = 0 then f.zeroBits false else (f.round .ieee .rne (decide (sum < 0)) sum.natAbs q false).1

/-! ## Descriptors (11 R261-R264) -/

/-- A descriptor and the panel of the step word. -/
structure Desc where
  word : Nat → Nat
  panel : Nat

/-- The descriptor of sixteen words under a step word. -/
def descOf (ws : List Word) (step : Word) : Desc := ⟨fun k => (ws.getD k 0).toNat, bits step.toNat 15 0⟩

namespace Desc

/-- Format of A and B. -/
def fmt (d : Desc) : Nat := bits (d.word 0) 3 0
/-- Format of a C tile in scratchpad. -/
def dfmt (d : Desc) : Nat := bits (d.word 0) 11 8
/-- Rows of A and C. -/
def rows (d : Desc) : Nat := bits (d.word 0) 23 16
/-- Code of the scale block length. -/
def sblk (d : Desc) : Nat := bits (d.word 0) 25 24
/-- Scale block length. -/
def block (d : Desc) : Nat := [1, 16, 32, 64].getD d.sblk 1
/-- Scale blocks along k. -/
def blocks (d : Desc) : Nat := fmtK d.fmt / d.block
/-- SATM. -/
def satm (d : Desc) : Bool := bit (d.word 0) 26
/-- RAW. -/
def raw (d : Desc) : Bool := bit (d.word 0) 27
/-- The offset, stride or step in a word. -/
def off (d : Desc) (k : Nat) : Nat := bits (d.word k) 20 0
/-- Where an operand of the panel begins: its offset in word k, its panel step in word j. -/
def start (d : Desc) (k j : Nat) : Nat := d.off k + d.panel * d.off j
/-- Bytes of a C row. -/
def crow (d : Desc) : Nat := if d.raw then 192 * (if fmtKind d.fmt = .f64 then 8 else 4) else rowLen d.dfmt 192
/-- Bytes of an A row. -/
def arow (d : Desc) : Nat := rowLen d.fmt (fmtK d.fmt)
/-- Bytes of a B row. -/
def brow (d : Desc) : Nat := rowLen d.fmt 192
/-- The first byte and length of the A range of the panel. -/
def arange (d : Desc) : Nat × Nat := (d.start 1 3, (d.rows - 1) * d.off 2 + d.arow)
/-- The B range. -/
def brange (d : Desc) : Nat × Nat := (d.start 4 6, (fmtK d.fmt - 1) * d.off 5 + d.brow)
/-- The C range. -/
def crange (d : Desc) : Nat × Nat := (d.start 7 9, (d.rows - 1) * d.off 8 + d.crow)
/-- The range of the A scales. -/
def asrange (d : Desc) : Nat × Nat := (d.start 10 11, d.rows * d.blocks)
/-- The range of the B scales. -/
def bsrange (d : Desc) : Nat × Nat := (d.start 12 13, d.blocks * 192)

end Desc

/-- Two ranges share a byte. -/
def rangesMeet (x y : Nat × Nat) : Bool := decide (x.1 < y.1 + y.2 ∧ y.1 < x.1 + x.2)

/-- Word 0 passes its checks. -/
def Desc.headOk (d : Desc) (cvt : Bool) : Bool :=
  bits (d.word 0) 31 28 == 0 && bits (d.word 0) 15 12 == 0 && bits (d.word 0) 7 4 == 0 &&
  decide (d.fmt ≤ 9) && (!cvt || d.raw || decide (d.dfmt ≤ 9)) &&
  decide (1 ≤ d.rows ∧ d.rows ≤ (if d.fmt = 0 then 32 else 64)) &&
  (d.sblk == 0 || decide (4 ≤ d.fmt ∧ d.fmt ≤ 7))

/-- The words of an operand pass: reserved bits, multiples of 16 (a panel step counts as a stride, log 35), and a
stride that holds its row. -/
def Desc.wordsOk (d : Desc) (ks : List Nat) (stride : Option (Nat × Nat)) : Bool :=
  ks.all (fun k => decide (d.word k < 2 ^ 21) && d.off k % 16 == 0) &&
  (match stride with | some (k, row) => decide (row ≤ d.off k) | none => true)

/-- A range lies in the scratchpad and meets no stash window (04 R103). -/
def Block.mxRange (b : Block) (r : Nat × Nat) : Bool :=
  decide (r.1 + r.2 ≤ b.spSize) && !b.stash.any (fun s => rangesMeet r (s.2.off, s.2.len))

/-- The words of A pass. -/
def Desc.aOk (d : Desc) : Bool := d.wordsOk [1, 2, 3] (some (2, d.arow))
/-- The words of B pass. -/
def Desc.bOk (d : Desc) : Bool := d.wordsOk [4, 5, 6] (some (5, d.brow))
/-- The words of C pass. -/
def Desc.cOk (d : Desc) : Bool := d.wordsOk [7, 8, 9] (some (8, d.crow))

/-- The descriptor serves `mload.b`. -/
def Desc.loadOk (d : Desc) (b : Block) : Bool :=
  d.headOk false && d.bOk && b.mxRange d.brange &&
  (d.sblk == 0 || (d.wordsOk [12, 13] none && b.mxRange d.bsrange))

/-- The descriptor serves `mma`. -/
def Desc.mmaOk (d : Desc) (b : Block) : Bool :=
  d.headOk false && d.aOk && b.mxRange d.arange &&
  (d.sblk == 0 || (d.wordsOk [10, 11] none && b.mxRange d.asrange))

/-- The descriptor serves `mcvt`. -/
def Desc.cvtOk (d : Desc) (b : Block) : Bool :=
  d.headOk true && d.aOk && d.bOk && d.cOk && b.mxRange d.crange &&
  !rangesMeet d.crange d.arange && !rangesMeet d.crange d.brange

/-! ## The unit (11 R259, R271) -/

/-- The matrix unit of the executing context's core. -/
def Env.mx (e : Env) (p : Pkg) : Matrix := (p.core e.is.core).mx

/-- Change the matrix unit. -/
def Pkg.modMx (p : Pkg) (c : Nat) (f : Matrix → Matrix) : Pkg := p.modCore c (fun k => { k with mx := f k.mx })

/-- The unit as the context sees it when it issues: its own, or as it is when a context takes it. -/
def Matrix.seenBy (m : Matrix) (b : Nat) : Matrix := if m.owner = some b then m else Matrix.reset

/-- The context holds the unit or takes it, and has room for another instruction; otherwise it waits in the
order in which it first blocked. -/
def Env.mxGate (e : Env) (p : Pkg) (k : Pkg → Res) : Res :=
  let m := e.mx p
  let b := e.is.slot
  let enter : Res := Res.wait (e.orig.modMx e.is.core (fun m =>
    { m with waiters := if m.waiters.contains b then m.waiters else m.waiters ++ [b] })) .matrix
  match m.owner with
  | some o =>
    if o = b then (if 8 ≤ m.ops.length then Res.wait e.orig .matrix else k p) else enter
  | none =>
    if m.waiters.headD b = b then k (p.modMx e.is.core (fun m => { m with waiters := m.waiters.filter (· != b) }))
    else enter

/-- Issue an instruction to the unit: the context holds it from now on. -/
def Env.mxIssue (e : Env) (p : Pkg) (op : MxOp) (f : Matrix → Matrix) : Pkg :=
  p.modMx e.is.core (fun m =>
    let x := f { m.seenBy e.is.slot with owner := some e.is.slot, waiters := m.waiters }
    { x with ops := x.ops ++ [op] })

/-- The aligned 4 bytes that a copy has yet to write at an offset of a block's scratchpad, as its source holds them now. -/
def Pkg.copyAhead (p : Pkg) (c b o : Nat) : Option (List Byte) :=
  p.cores.findSome? (fun k => k.2.copies.vals.findSome? (fun y =>
    if y.home.isSome ∨ y.gdst ∨ y.fault.isSome then none
    else ((p.copyDests y).getD []).findSome? (fun t =>
      let row := if y.form = 5 then (o - t.2.2) / max 1 y.sstride else 0
      let col := o - t.2.2 - row * y.sstride
      let n := row * y.len + col
      if t.1 ≠ c ∨ t.2.1 ≠ b ∨ o < t.2.2 ∨ y.len ≤ col ∨ y.total ≤ n ∨ n < y.written then none
      else if y.gsrc then
        (match p.xlateEngine y.ctx (y.src + BitVec.ofNat 64 (row * (if y.form = 5 then y.gstride else 0) + col)) .load with
         | .ok x => if x.loc.isNone then none else (p.plainPa x).map (fun a => p.readMem a 4)
         | .error _ => none)
      else
        (p.copySource y).bind (fun s => (p.block? s.1 s.2.1).map (fun bl => bl.readSp (s.2.2 + col) 4)))))

/-- The words of the descriptor that the unit reads at issue: each aligned 4 bytes that a copy in flight writes are old or new, by
a free choice (11 R272, 19 R401). -/
def Pkg.descWords (p : Pkg) (c b : Nat) (bl : Block) (ad : Nat) : List Word :=
  (List.range 16).map (fun k =>
    let now := bl.readSp (ad + 4 * k) 4
    BitVec.ofNat 32 (ofBytes (match p.copyAhead c b (ad + 4 * k) with
      | some new => if Config.choice p.tick (ad / 4 + k) % 2 = 0 then now else new
      | none => now)))

/-- A matrix form that reads a descriptor: checks 1 to 3 of R264 and that no window lies over the descriptor (04 R103), then
the form over the step word, the descriptor's words and whether they are poisoned. -/
def mxForm (cvt : Bool) (g : Guard) (d a : Operand)
    (body : Env → Pkg → Block → Word → List Word → Bool → Res) (s : State) : Host.Outcome State Fault Refusal :=
  perform { Form.wa g [(.src .w32, d), (.src .w32, a)] with warp := false } (fun e p =>
    e.mxGate p (fun p =>
      match e.warp p, e.block p with
      | some w, some b =>
        let st := e.rd32 w d e.lead
        let ad := (e.rd32 w a e.lead).toNat
        if ad % 64 ≠ 0 then Res.fail p e.act 0x08 (BitVec.ofNat 64 ad)
        else if bits ad 31 21 ≠ 0 ∨ b.spSize < ad + 64 then Res.fail p e.act 0x0B (BitVec.ofNat 64 ad)
        else if bits st.toNat 29 16 ≠ 0 ∨ (!cvt && bit st.toNat 30) ∨ !b.mxRange (ad, 64) then Res.fail p e.act 0x1E
        else if e.tileBusy p e.is.core e.is.slot ad 64 false then Res.wait e.orig .mem
        else body e p b st (p.descWords e.is.core e.is.slot b ad) (b.spPoisoned ad 64)
      | _, _ => Res.ok p)) s

/-- Nonzero values under their keys. -/
def sparse {α : Type} (zero : α → Bool) (l : List (Nat × α)) : KMap α := l.filter (fun e => !zero e.2)

/-- The rows of an operand: the offset and bytes of each. -/
def Block.rowsAt (b : Block) (base stride len n : Nat) : List (Nat × List Byte) :=
  (List.range n).map (fun i => (base + i * stride, b.readSp (base + i * stride) len))

/-- The bytes of a range. -/
def Block.rangeAt (b : Block) (r : Nat × Nat) : Nat × List Byte := (r.1, b.readSp r.1 r.2)

/-- What the unit reads of bytes that stood otherwise when the instruction issued: each aligned 4 bytes old or new (11 R272),
by a free choice. -/
def Block.mixAt (b : Block) (tick : Nat) (x : Nat × List Byte) : List Byte :=
  x.2.zipIdx.map (fun v => if Config.choice tick ((x.1 + v.2) / 4) % 2 = 0 then v.1 else b.spByte (x.1 + v.2))

/-- A read of an instruction meets poison. -/
def Block.rowsPoisoned (b : Block) (rows : List (Nat × List Byte)) : Bool := rows.any (fun r => b.spPoisoned r.1 r.2.length)

/-- The contents of an operand of n rows of k elements, keyed by w × row + column. -/
def cells (f w k : Nat) (rows : List Nat) : KMap DWord :=
  sparse (· == 0) (rows.zipIdx.flatMap (fun r =>
    (List.range k).map (fun j => (w * r.2 + j, BitVec.ofNat 64 (rowElem f r.1 j)))))

/-! ## The instructions (11 R265-R269) -/

/-- `mload.b`. -/
def execMloadB (g : Guard) (d a : Operand) (s : State) : Host.Outcome State Fault Refusal :=
  mxForm false g d a (fun e p b st ws bad =>
    let t := descOf ws st
    if !t.loadOk b then Res.fail p e.act 0x1E
    else
      let rows := b.rowsAt t.brange.1 (t.off 5) t.brow (fmtK t.fmt)
      let scale := if t.sblk = 0 then (0, []) else b.rangeAt t.bsrange
      Res.ok (e.mxIssue p ⟨e.is.slot, 0, st, ws, rows, scale, bad || b.rowsPoisoned (scale :: rows)⟩
        (fun m => { m with bfmt := some (t.fmt + 16 * t.sblk) }))) s

/-- An accumulator with its kind. -/
def Matrix.acc (m : Matrix) (one : Bool) : KMap DWord × AccKind := if one then (m.acc1, m.kind1) else (m.acc0, m.kind0)

/-- Replace the contents of an accumulator. -/
def Matrix.setAcc (m : Matrix) (one : Bool) (v : KMap DWord) : Matrix := if one then { m with acc1 := v } else { m with acc0 := v }

/-- Replace the kind of an accumulator. -/
def Matrix.setKind (m : Matrix) (one : Bool) (k : AccKind) : Matrix := if one then { m with kind1 := k } else { m with kind0 := k }

/-- One element of an `mma`: the old value, the row of A and the column of the tile as factors. -/
def mmaCell (f : Nat) (old : DWord) (xs ys : List Fp) (is js : List Int) : DWord :=
  match fmtKind f with
  | .i32 => BitVec.ofNat 64 ((BitVec.ofInt 32 ((is.zip js).foldl (fun t x => t + x.1 * x.2) old.toInt)).toNat)
  | .f64 => BitVec.ofNat 64 (f64.windowSum 160 (f64.decode old.toNat) ((xs.zip ys).map (fun x => x.1.times x.2)))
  | _ => BitVec.ofNat 64 (f32.windowSum 64 (f32.decode old.toNat) ((xs.zip ys).map (fun x => x.1.times x.2)))

/-- An element as a value, scaled by its block's scale when there is one. -/
def scaled (f v : Nat) (scale : Option Nat) : Fp :=
  match fmtCode f with
  | none => .fin false 0 0
  | some t => match scale with
    | none => t.decode v
    | some k => (k8Value k).times (t.decode v)

/-- The columns of the B tile as factors. -/
def Matrix.column (m : Matrix) (t : Desc) (n : Nat) : List Fp :=
  (List.range (fmtK t.fmt)).map (fun k => scaled t.fmt (m.btile.getD (192 * k + n) 0).toNat
    (if t.sblk = 0 then none else some (m.bscale.getD (192 * (k / t.block) + n) 0).toNat))

/-- The columns of the B tile as integers. -/
def Matrix.icolumn (m : Matrix) (t : Desc) (n : Nat) : List Int :=
  (List.range (fmtK t.fmt)).map (fun k => signedOf (fmtBits t.fmt) (m.btile.getD (192 * k + n) 0).toNat)

/-- The accumulator after an `mma` over rows of A and their scales: rows from M on are unchanged. -/
def Matrix.mma (m : Matrix) (t : Desc) (scales : List Byte) (old : KMap DWord) (rows : List Nat) : KMap DWord :=
  let ks := List.range (fmtK t.fmt)
  let ints := fmtKind t.fmt == .i32
  let cols : List (List Fp × List Int) := (List.range 192).map (fun n =>
    if ints then ([], m.icolumn t n) else (m.column t n, []))
  let new := rows.zipIdx.flatMap (fun r =>
    let xs : List Fp := if ints then [] else ks.map (fun k => scaled t.fmt (rowElem t.fmt r.1 k)
      (if t.sblk = 0 then none else some (scales.getD (r.2 * t.blocks + k / t.block) 0).toNat))
    let is : List Int := if ints then ks.map (fun k => signedOf (fmtBits t.fmt) (rowElem t.fmt r.1 k)) else []
    cols.zipIdx.map (fun c =>
      (192 * r.2 + c.2, mmaCell t.fmt (old.getD (192 * r.2 + c.2) 0) xs c.1.1 is c.1.2)))
  sparse (· == 0) new ++ List.filter (fun e => decide (192 * t.rows ≤ e.1)) old

/-- `mma`. -/
def execMma (g : Guard) (d a : Operand) (s : State) : Host.Outcome State Fault Refusal :=
  mxForm false g d a (fun e p b st ws bad =>
    let t := descOf ws st
    let m := (e.mx p).seenBy e.is.slot
    let one := st.getLsbD 31
    let held := (m.acc one).2
    if !t.mmaOk b then Res.fail p e.act 0x1E
    else if m.bfmt ≠ some (t.fmt + 16 * t.sblk) ∨ (held ≠ .none ∧ held ≠ fmtKind t.fmt) then Res.fail p e.act 0x1E
    else
      let rows := b.rowsAt t.arange.1 (t.off 2) t.arow t.rows
      let scale := if t.sblk = 0 then (0, []) else b.rangeAt t.asrange
      Res.ok (e.mxIssue p ⟨e.is.slot, 1, st, ws, rows, scale, bad || b.rowsPoisoned (scale :: rows)⟩
        (fun m => m.setKind one (fmtKind t.fmt)))) s

/-- `mzero`. -/
def execMzero (g : Guard) (d : Operand) (s : State) : Host.Outcome State Fault Refusal :=
  perform { Form.wa g [(.src .w32, d)] with warp := false } (fun e p =>
    e.mxGate p (fun p =>
      match e.warp p with
      | none => Res.ok p
      | some w =>
        let st := e.rd32 w d e.lead
        Res.ok (e.mxIssue p ⟨e.is.slot, 2, st, [], [], (0, []), false⟩ (fun m => m.setKind (st.getLsbD 31) .none)))) s

/-- The table of R268: the formats that a kind meets in scratchpad. -/
def cvtAllowed (k : AccKind) (load : Bool) (f : Nat) : Bool :=
  match k with
  | .f64 => decide (f ≤ 1)
  | .f32 => decide (f ≤ 7)
  | .i32 => decide (8 ≤ f ∧ f ≤ 9) || (!load && decide (f ≤ 1))
  | .none => false

/-- Convert an accumulator element to a scratchpad format. -/
def cvtOut (k : AccKind) (f : Nat) (sat : Bool) (v : DWord) : Nat :=
  let w := fmtBits f
  match k, fmtCode f with
  | .i32, none => (BitVec.ofInt w (max (-(2 ^ (w - 1))) (min (2 ^ (w - 1) - 1) (signedOf 32 v.toNat)))).toNat
  | .i32, some t => (t.ofInt .rne (signedOf 32 v.toNat)).1
  | .f64, some t => (t.convert (t.over sat) .rne (f64.decode v.toNat)).1
  | _, some t => (t.convert (t.over sat) .rne (f32.decode v.toNat)).1
  | _, none => 0

/-- Convert a scratchpad element to an accumulator element. -/
def cvtIn (k : AccKind) (f v : Nat) : DWord :=
  match k, fmtCode f with
  | .i32, _ => BitVec.ofNat 64 (BitVec.ofInt 32 (signedOf (fmtBits f) v)).toNat
  | .f64, some t => BitVec.ofNat 64 (f64.convert .ieee .rne (t.decode v)).1
  | _, some t => BitVec.ofNat 64 (f32.convert .ieee .rne (t.decode v)).1
  | _, none => 0

/-- The state checks of `mcvt` (R268). -/
def cvtStateOk (t : Desc) (load : Bool) (held : AccKind) : Bool :=
  let k := fmtKind t.fmt
  (load || held == k) && (t.raw || cvtAllowed k load t.dfmt) &&
  (load || t.raw || !t.satm || decide (2 ≤ t.dfmt ∧ t.dfmt ≤ 7))

/-- Write the M rows of an accumulator to the C tile. -/
def Block.storeAcc (b : Block) (t : Desc) (acc : KMap DWord) : Block :=
  let k := fmtKind t.fmt
  let w := if t.raw then (if k = .f64 then 64 else 32) else fmtBits t.dfmt
  (List.range t.rows).foldl (fun b m =>
    let vs := (List.range 192).map (fun n =>
      let v := acc.getD (192 * m + n) 0
      if t.raw then v.toNat else cvtOut k t.dfmt t.satm v)
    b.writeSp (t.crange.1 + m * t.off 8) (bytesOf t.crow (packRow w vs))) b

/-- An accumulator of the M rows of a C tile. -/
def Desc.loadAcc (t : Desc) (rows : List Nat) : KMap DWord :=
  let k := fmtKind t.fmt
  let w := if t.raw then (if k = .f64 then 64 else 32) else fmtBits t.dfmt
  sparse (· == 0) (rows.zipIdx.flatMap (fun r =>
    (List.range 192).map (fun n =>
      let v := r.1 / 2 ^ (w * n) % 2 ^ w
      (192 * r.2 + n, if t.raw then BitVec.ofNat 64 v else cvtIn k t.dfmt v))))

/-- `mcvt`. -/
def execMcvt (g : Guard) (d a : Operand) (s : State) : Host.Outcome State Fault Refusal :=
  mxForm true g d a (fun e p b st ws bad =>
    let t := descOf ws st
    let m := (e.mx p).seenBy e.is.slot
    let one := st.getLsbD 31
    let load := st.getLsbD 30
    if !t.cvtOk b then Res.fail p e.act 0x1E
    else if !cvtStateOk t load (m.acc one).2 then Res.fail p e.act 0x1E
    else
      let rows := b.rowsAt t.crange.1 (t.off 8) t.crow t.rows
      Res.ok (e.mxIssue p ⟨e.is.slot, 3, st, ws, rows, (0, []), bad || (load && b.rowsPoisoned rows)⟩
        (fun m => if load then m.setKind one (fmtKind t.fmt) else m))) s

/-- `arm.wait` (R269): what earlier `mcvt` wrote is in the scratchpad for every party from here on. -/
def execArmWait (g : Guard) (s : State) : Host.Outcome State Fault Refusal :=
  perform { Form.wa g [] with warp := false } (fun e p =>
    if (e.mx p).ops.any (fun o => o.slot == e.is.slot) then Res.wait e.orig .engine
    else Res.ok (p.modBlock e.is.core e.is.slot (fun b => { b with unwaited := [] }))) s

/-- `sq.push` (R258): a release at block scope, so it waits for the thread's pod-remote accesses (06 R135), and while 64
entries are unretired. -/
def execSqPush (g : Guard) (a : Operand) (s : State) : Host.Outcome State Fault Refusal :=
  perform { Form.wa g [(.src .w32, a)] with warp := false } (fun e p =>
    match e.warp p, e.block p with
    | some w, some b =>
      if e.outstanding p true true then Res.wait e.orig .mem
      else if 64 ≤ b.feed.length then Res.wait e.orig .feed
      else Res.ok (p.modBlock e.is.core e.is.slot (fun b =>
        { b with feed := b.feed ++ [e.rd32 w a e.lead] }.retireFeed))
    | _, _ => Res.ok p) s

/-- Rows that an instruction captured follow what the unit wrote before it in the stream (R271). -/
def Block.recapture (b : Block) (written x : List (Nat × List Byte)) : List (Nat × List Byte) :=
  x.map (fun r => (r.1, r.2.zipIdx.map (fun v =>
    if written.any (fun c => decide (c.1 ≤ r.1 + v.2 ∧ r.1 + v.2 < c.1 + c.2.length)) then b.spByte (r.1 + v.2) else v.1)))

/-- Write a C tile; until an `arm.wait` other parties may still read what its bytes held (06 R150). -/
def Block.storeTile (b : Block) (t : Desc) (acc : KMap DWord) (rows : List (Nat × List Byte)) : Block :=
  { b.storeAcc t acc with unwaited := rows.foldl (fun m r =>
      r.2.zipIdx.foldl (fun m v => KMap.insert (r.1 + v.2) (b.spByte (r.1 + v.2)) m) m) b.unwaited }

/-- What the unit does to its own state when it performs an instruction, on the bytes that it reads (R265-R268). -/
def Matrix.perform (m : Matrix) (op : MxOp) (rows : List Nat) (scale : List Byte) : Matrix :=
  let t := descOf op.words op.step
  let one := op.step.getLsbD 31
  match op.form with
  | 0 => { m with
      btile := cells t.fmt 192 192 rows
      bscale := sparse (· == 0) (scale.zipIdx.map (fun v => (v.2, v.1))) }
  | 1 => { m.setAcc one (m.mma t scale (m.acc one).1 rows) with
      rowbuf := cells t.fmt 256 (fmtK t.fmt) (rows.drop (rows.length - 2)) }
  | 2 => m.setAcc one []
  | _ => if op.step.getLsbD 30 then m.setAcc one (t.loadAcc rows) else m

/-- The unit performs its oldest instruction. Poison that it read is an imprecise fault of the block (25 R450), whose macro
field is open (log 6). -/
def Pkg.mxPerform (p : Pkg) (core : Nat) (b : Block) (op : MxOp) (rest : List MxOp) : Pkg :=
  let rows := op.rows.map (fun x => ofBytes (b.mixAt p.tick x))
  let bad := op.bad || (!op.writes && b.rowsPoisoned (op.scale :: op.rows))
  let p := p.modMx core (fun m => { m.perform op rows (b.mixAt p.tick op.scale) with ops := rest })
  let p :=
    if op.writes then
      let acc := ((p.core core).mx.acc (op.step.getLsbD 31)).1
      let b' := b.storeTile (descOf op.words op.step) acc op.rows
      let again (o : MxOp) : MxOp := { o with
        rows := b'.recapture op.rows o.rows
        scale := ((b'.recapture op.rows [o.scale]).head?).getD o.scale }
      (p.modBlock core op.slot (fun _ => b')).modMx core (fun m => { m with ops := m.ops.map again })
    else p
  if bad then p.blockFault core op.slot 0x1D (BitVec.ofNat 16 (Config.choice p.tick 29 % 16)) else p

/-- MATRIX_OP_COMPLETE: the oldest instruction of the unit is performed and completes (R271). -/
def execMatrixOpComplete (core : Nat) (s : State) : Host.Outcome State Fault Refusal :=
  match (s.pkg.core core).mx.ops with
  | [] => .next s
  | op :: t =>
    match s.pkg.block? core op.slot with
    | none => .next { s with pkg := s.pkg.modMx core (fun m => { m with ops := t }) }
    | some b => .next { s with pkg := s.pkg.mxPerform core b op t }

end Sys2Proof.Machine
end

