-- ==== Sys2Proof/Machine/Render.lean ====
section
/-!
DEFINITION. The render coprocessors: rasteriser, depth tester, blender, texture filter, tessellator, box and triangle
testers (15_render_coprocessors.md R346-R367). A unit performs a call in one event; CALL_RETURN then delivers it.
-/

namespace Sys2Proof.Machine

/-! ## Exact numbers -/

/-- num × 2^e / den rounded to a format; the exact zero is +0. -/
def Fmt.roundRat (f : Fmt) (rm : RM) (num : Int) (e : Int) (den : Nat) : Nat :=
  if num = 0 ∨ den = 0 then f.zeroBits false
  else
    let n := num.natAbs
    let k := f.fbits + 4 + Nat.log2 den - Nat.log2 n
    let m := n * 2 ^ k / den
    (f.round .ieee rm (decide (num < 0)) m (e - k) (n * 2 ^ k % den != 0)).1

/-- An FP32 encoding as an integer multiple of 2^-149; none when it is not finite. -/
def f32Int (v : Nat) : Option Int :=
  match f32.decode v with
  | .fin neg m e => let x : Int := (m * 2 ^ (e + 149).toNat : Nat); some (if neg then -x else x)
  | _ => none

/-- An FP32 encoding is not a number. -/
def f32Nan (v : Nat) : Bool := (f32.decode v).isNan

/-- The word of an FP32 encoding. -/
def wordOf (v : Nat) : Word := BitVec.ofNat 32 v

/-- Floor of num × 2^e. -/
def floorAt (num e : Int) : Int := if 0 ≤ e then num * 2 ^ e.toNat else num / 2 ^ (-e).toNat

/-! ## Memory of a unit (15 R349) -/

/-- Read n bytes in pieces that lie in one sector, as `engineRead` reads them; `fuel` bounds the pieces. -/
def Pkg.unitRead (d : Nat) (ctx : Ctx) (seeStash : Bool) : Nat → Pkg → DWord → Nat → List Byte → Piece
  | 0, p, _, _, acc => .ok p acc
  | fuel + 1, p, va, n, acc =>
    if n = 0 then .ok p acc
    else
      let k := min n (64 - va.toNat % 64)
      match p.engineRead d ctx va k seeStash with
      | .ok p bs => Pkg.unitRead d ctx seeStash fuel p (va + BitVec.ofNat 64 k) (n - k) (acc ++ bs)
      | r => r

/-- Write bytes in pieces that lie in one sector. -/
def Pkg.unitWrite (d : Nat) (ctx : Ctx) (wver : Word) : Nat → Pkg → DWord → List Byte → Piece
  | 0, p, _, _ => .ok p []
  | fuel + 1, p, va, bs =>
    if bs = [] then .ok p []
    else
      let k := min bs.length (64 - va.toNat % 64)
      match p.engineWrite d ctx wver false va (bs.take k) with
      | .ok p _ => Pkg.unitWrite d ctx wver fuel p (va + BitVec.ofNat 64 k) (bs.drop k)
      | r => r

/-- A unit at work on a call: the core, the call and its context. -/
structure Job where
  core : Nat
  id : Nat
  call : Call
  ctx : Ctx

/-- Read for a job. -/
def Job.read (j : Job) (p : Pkg) (va : DWord) (n : Nat) : Piece := Pkg.unitRead (opMaster (dieOfCore j.core) j.id) j.ctx false (n + 1) p va n []

/-- Write for a job, under the caller's write version. -/
def Job.write (j : Job) (p : Pkg) (va : DWord) (bs : List Byte) : Piece :=
  Pkg.unitWrite (opMaster (dieOfCore j.core) j.id) j.ctx j.call.wver (bs.length + 1) p va bs

/-- What a call comes to: a return record, a rejection with the Return LEN of its type, a fault, or a wait. -/
inductive Verdict where
  | ret (p : Pkg) (status : BitVec 8) (ws : List Word)
  | reject
  | fault (p : Pkg) (x : Charge)
  | wait (p : Pkg)

/-- Go on with what a read gave. -/
def Piece.andThen (r : Piece) (k : Pkg → List Byte → Verdict) : Verdict :=
  match r with
  | .ok p bs => k p bs
  | .fail p x => .fault p x
  | .wait p => .wait p

/-- Return LEN of a type of a class, and its Call LEN (15 R347). -/
def callLens (cls type : Nat) : Option (Nat × Nat) :=
  match cls, type with
  | 0, 1 => some (13, 13)
  | 1, 1 => some (11, 4)
  | 1, 2 => some (6, 2)
  | 1, 3 => some (5, 2)
  | 2, 1 => some (5, 3)
  | 2, 2 => some (9, 3)
  | 2, 3 => some (10, 3)
  | 2, 4 => some (5, 3)
  | 2, 5 => some (5, 3)
  | 3, 1 => some (8, 3)
  | 3, 2 => some (9, 3)
  | 4, 1 => some (7, 6)
  | 5, 1 => some (16, 16)
  | 6, 1 => some (13, 6)
  | _, _ => none

/-- Payload words of a rejected call: Return LEN less the header, all zero (15 R348). -/
def Call.rejectWords (c : Call) : List Word :=
  match callLens c.cls c.type with
  | some (_, r) => List.replicate (r - 2) 0
  | none => []

/-- The TYPE is known and the LEN is right. -/
def Call.lenOk (c : Call) : Bool :=
  match callLens c.cls c.type with
  | some (l, _) => c.len == l
  | none => false

/-- A rejected call is answered. -/
def Pkg.rejectCall (p : Pkg) (core id : Nat) (c : Call) : Pkg :=
  p.answer core id (stRejected ||| stDone) c.rejectWords none

/-- Answer a call with its verdict; none while it waits. Writes of a call that faulted are not performed. -/
def Pkg.settleCall (p : Pkg) (j : Job) : Verdict → Option Pkg
  | .ret q status ws => some (q.answer j.core j.id (status ||| stDone) ws none)
  | .reject => some (p.rejectCall j.core j.id j.call)
  | .fault _ x => some (p.answerFault j.core j.id x)
  | .wait _ => none

/-- The call of a unit that is not frozen (27 R485) as a job. -/
def Pkg.job (p : Pkg) (core id : Nat) : Option Job :=
  match (p.core core).calls.find? id with
  | none => none
  | some c => if c.done || p.isFrozen 2 (8 * core + c.cls) then none else some ⟨core, id, c, c.ctx⟩

/-- A unit without order performs a call that it has taken: it runs up to 8 of the oldest at once (15 R346). The event of
a class serves every type that names no event of its own. -/
def unitEvent (cls : Nat) (own : Nat → Bool) (run : Job → Pkg → Verdict) (core id : Nat) (s : State) :
    Host.Outcome State Fault Refusal :=
  match s.pkg.job core id with
  | none => .next s
  | some j =>
    if j.call.cls ≠ cls ∨ !own j.call.type ∨ !(((s.pkg.core core).unitQueue cls).take 8).contains id then .next s
    else
      let v := if j.call.failed then .fault s.pkg ⟨0x16, 0, 0⟩ else if j.call.lenOk then run j s.pkg else .reject
      match v, s.pkg.settleCall j v with
      | .wait q, _ => .next { s with pkg := s.pkg.waiting q }
      | _, some p => .next { s with pkg := p }
      | _, none => .next s

/-! ## Rasteriser (15 R353-R354) -/

/-- A coordinate snapped to 1/256, as an integer; none when it is not finite or too large. -/
def snap (v : Nat) : Option Int :=
  match f32.decode v with
  | .fin neg m e =>
    if m != 0 && !ltScaled m (e + 8) 1 23 then none
    else let r := (roundAt .rne neg m (e + 8) false 0).1; some (if neg then -(r : Int) else r)
  | _ => none

/-- One edge: E at a point, for the orientation with the opposite vertex inside, and whether it is top or left. -/
def edgeIn (xi yi xj yj xk yk px py : Int) : Bool :=
  let at' (x y : Int) : Int := (xj - xi) * (y - yi) - (yj - yi) * (x - xi)
  let s : Int := if at' xk yk < 0 then -1 else 1
  let e := s * at' px py
  let dx := s * (xj - xi)
  let dy := s * (yj - yi)
  decide (0 < e) || (e == 0 && (decide (dy < 0) || (dy == 0 && decide (0 < dx))))

/-- The plane of values z × 2^e at the three vertices: coefficients per pixel, and the value at a centre, all in
1/256 pixel coordinates. -/
def planeOf (x0 y0 x1 y1 x2 y2 d cx cy : Int) (z0 z1 z2 : Int) (e : Int) : List Word :=
  let na := (z1 - z0) * (y2 - y0) - (z2 - z0) * (y1 - y0)
  let nb := (x1 - x0) * (z2 - z0) - (x2 - x0) * (z1 - z0)
  let s : Int := if d < 0 then -1 else 1
  let den := d.natAbs
  [wordOf (f32.roundRat .rne (s * na) (e + 8) den), wordOf (f32.roundRat .rne (s * nb) (e + 8) den),
   wordOf (f32.roundRat .rne (s * (z0 * d + na * (cx - x0) + nb * (cy - y0))) e den)]

/-- A 64-bit mask as two words. -/
def maskWords (m : Nat) : List Word := [BitVec.ofNat 32 m, BitVec.ofNat 32 (m / 2 ^ 32)]

/-- The number whose bit 8 py + px says whether a pixel satisfies a test. -/
def pixelMask (f : Nat → Nat → Bool) : Nat :=
  (List.range 64).foldl (fun m i => if f (i % 8) (i / 8) then m + 2 ^ i else m) 0

/-- RAST. -/
def rasterise (j : Job) (p : Pkg) : Verdict :=
  let w := j.call.word
  if bits (w 12) 1 0 = 3 then .reject
  else
    let none' : Verdict := .ret p 0 (List.replicate 11 0)
    match snap (w 2), snap (w 3), snap (w 4), snap (w 5), snap (w 6), snap (w 7) with
    | some x0, some y0, some x1, some y1, some x2, some y2 =>
      let d := (x1 - x0) * (y2 - y0) - (x2 - x0) * (y1 - y0)
      let cull := bits (w 12) 1 0
      if d = 0 ∨ (0 < d ∧ cull = 1) ∨ (d < 0 ∧ cull = 2) then none'
      else
        let ox : Int := (8 * bits (w 11) 15 0 : Nat)
        let oy : Int := (8 * bits (w 11) 31 16 : Nat)
        let m := pixelMask (fun px py =>
          let cx := (ox + px) * 256 + 128
          let cy := (oy + py) * 256 + 128
          edgeIn x0 y0 x1 y1 x2 y2 cx cy && edgeIn x1 y1 x2 y2 x0 y0 cx cy && edgeIn x2 y2 x0 y0 x1 y1 cx cy)
        let pl := planeOf x0 y0 x1 y1 x2 y2 d (ox * 256 + 128) (oy * 256 + 128)
        let z := match f32Int (w 8), f32Int (w 9), f32Int (w 10) with
          | some a, some b, some c => pl a b c (-149)
          | _, _, _ => List.replicate 3 0x7FC00000
        .ret p 0 (maskWords m ++ z ++ pl 0 1 0 0 ++ pl 0 0 1 0)
    | _, _, _, _, _, _ => none'

/-- RAST (and every call of the rasteriser that R347 does not list). -/
def execRast (core i : Nat) (s : State) : Host.Outcome State Fault Refusal := unitEvent 0 (fun _ => true) rasterise core i s

/-! ## Order domains (15 R350-R352) -/

/-- A surface descriptor as read. -/
structure Surf where
  base : DWord
  meta_ : DWord
  tokens : DWord
  wt : Nat
  ht : Nat
  clear : Nat

/-- Read the surface of an ordered call: the error is a rejection (none) or a fault; the inner error the package of a read that
waits. -/
def Job.surface (j : Job) (p : Pkg) : Except (Option (Pkg × Charge)) (Except Pkg (Pkg × Surf)) :=
  let va := j.call.pair 2
  if va.toNat % 64 ≠ 0 then .error none
  else
    match j.read p va 64 with
    | .fail p x => .error (some (p, x))
    | .wait q => .ok (.error q)
    | .ok p bs =>
      let a (k : Nat) : DWord := BitVec.ofNat 64 (recNat bs k 8)
      let s : Surf := ⟨a 0, a 8, a 16, recNat bs 0x18 2, recNat bs 0x1A 2, recNat bs 0x1C 4⟩
      if s.base.toNat % 256 ≠ 0 ∨ s.tokens.toNat % 2 ≠ 0 ∨ s.wt = 0 ∨ s.ht = 0 ∨
          (List.range 8).any (fun i => recNat bs (0x20 + 4 * i) 4 != 0) then .error none
      else if s.wt ≤ bits (j.call.word 4) 15 0 ∨ s.ht ≤ bits (j.call.word 4) 31 16 then .error none
      else .ok (.ok (p, s))

/-- Index of the call's tile. -/
def Job.tile (j : Job) (s : Surf) : Nat := bits (j.call.word 4) 31 16 * s.wt + bits (j.call.word 4) 15 0

/-- The slot of the call's tile. -/
def Job.slot (j : Job) (s : Surf) : DWord := s.base + BitVec.ofNat 64 (256 * j.tile s)
/-- The token entry of the call's tile. -/
def Job.tokenVa (j : Job) (s : Surf) : DWord := s.tokens + BitVec.ofNat 64 (2 * j.tile s)
/-- The mode byte of the call's tile. -/
def Job.modeVa (j : Job) (s : Surf) : DWord := s.meta_ + BitVec.ofNat 64 (j.tile s)

/-- Where an ordered call stands: answered at once, held, or its turn with the surface and NEXT. -/
inductive Turn where
  | at_once (v : Verdict)
  | held
  | commit (p : Pkg) (s : Surf) (next : Nat)

/-- The call stands in its unit's hold store. -/
def Job.stored (j : Job) (p : Pkg) : Bool := ((p.core j.core).unitHold.getD j.call.cls []).contains j.id

/-- The window test of R350. Where the token entry cannot be read, a call that the unit holds stays held until software repairs
the fault; another one returns FAULT (log 101, DESIGN CHOICE: R350 gives both, and which call stands at its commit cannot be
read). -/
def Job.turn (j : Job) (p : Pkg) : Turn :=
  if j.call.words.length < 5 then .at_once .reject
  else
  match j.surface p with
  | .error none => .at_once .reject
  | .error (some (p, x)) => .at_once (.fault p x)
  | .ok (.error q) => .at_once (.wait q)
  | .ok (.ok (p, s)) =>
    match j.read p (j.tokenVa s) 2 with
    | .fail q x => if j.stored p then .held else .at_once (.fault q x)
    | .wait q => .at_once (.wait q)
    | .ok p bs =>
      let n := ofBytes bs
      let gap := (j.call.token + 65536 - n % 65536) % 65536
      if 32768 ≤ gap then .at_once .reject else if gap ≠ 0 then .held else .commit p s n

/-- A call of an ordered unit waits for its token, wherever it stands (15 R350-R351). -/
def Pkg.callHeld (p : Pkg) (core id : Nat) : Bool :=
  match p.job core id with
  | some j => (j.call.cls == 1 || j.call.cls == 2) && (match j.turn p with | .held => true | _ => false)
  | none => false

/-- Commit a call whose turn it is: NEXT advances with what the call does; a call that is rejected or faults advances
NEXT alone; where the token entry cannot be written nothing happens and the call faults. The error is the package of an access
that waits. -/
def Job.commit (j : Job) (run : Job → Surf → Pkg → Verdict) (p : Pkg) (s : Surf) (n : Nat) : Except Pkg Pkg :=
  let bump (q : Pkg) : Piece := j.write q (j.tokenVa s) (bytesOf 2 ((n + 1) % 65536))
  let v := if j.call.failed then .fault p ⟨0x16, 0, 0⟩ else if j.call.lenOk then run j s p else .reject
  let alone (k : Pkg → Pkg) : Except Pkg Pkg :=
    match bump p with
    | .ok q _ => .ok (k q)
    | .fail _ x => .ok (p.answerFault j.core j.id x)
    | .wait q => .error q
  match v with
  | .wait q => .error q
  | .reject => alone (fun q => q.rejectCall j.core j.id j.call)
  | .fault _ x => alone (fun q => q.answerFault j.core j.id x)
  | .ret q status ws =>
    match bump q with
    | .ok q _ => .ok (q.answer j.core j.id (status ||| stDone) ws none)
    | .fail _ x => .ok (p.answerFault j.core j.id x)
    | .wait q => .error q

/-- Put a held call into the hold store. -/
def Pkg.holdCall (p : Pkg) (core cls id : Nat) : Pkg :=
  (p.takeFromUnit core id).modCore core (fun k => Core.takeIn { k with
    unitHold := KMap.insert cls (k.unitHold.getD cls [] ++ [id]) k.unitHold })

/-- The token address of a call whose surface can be read. -/
def Pkg.domainOf (p : Pkg) (core id : Nat) : Option DWord :=
  match p.job core id with
  | none => none
  | some j => match j.surface p with
    | .ok (.ok (_, s)) => some (j.tokenVa s)
    | _ => none

/-- Examine a held call: it is answered at once, commits, or stays held (none). -/
def Pkg.examine (run : Job → Surf → Pkg → Verdict) (p : Pkg) (core id : Nat) : Option Pkg :=
  match p.job core id with
  | none => none
  | some j =>
    match j.turn p with
    | .at_once v => p.settleCall j v
    | .held => none
    | .commit q s n => (j.commit run q s n).toOption

/-- A call that waits for an access keeps what it sent. -/
def Pkg.callWaits (run : Job → Surf → Pkg → Verdict) (p : Pkg) (core id : Nat) : Pkg :=
  match p.job core id with
  | none => p
  | some j =>
    match j.turn p with
    | .at_once (.wait q) => p.waiting q
    | .commit q s n => (match j.commit run q s n with
      | .error q => p.waiting q
      | .ok _ => p)
    | _ => p

/-- Examine the held calls that a test picks, from the oldest, again after each that goes on. -/
def Pkg.reexamine (run : Job → Surf → Pkg → Verdict) (core cls : Nat) (sel : Pkg → Nat → Bool) : Nat → Pkg → Pkg
  | 0, p => p
  | n + 1, p =>
    match (((p.core core).unitHold.getD cls []).filter (sel p)).findSome? (fun id => p.examine run core id) with
    | some p => Pkg.reexamine run core cls sel n p
    | none => p

/-- The unit may take a call of its input queue: the oldest, or with a full hold store one that every older call lets
pass because it is held. -/
def Pkg.mayTake (p : Pkg) (core cls id : Nat) : Bool :=
  let q := (p.core core).unitQueue cls
  let full := decide (1024 ≤ ((p.core core).unitHold.getD cls []).length)
  q.head? == some id ||
  (full && q.contains id && (q.takeWhile (· != id)).all (fun k => (p.job core k).isNone || p.callHeld core k))

/-- An ordered unit takes a call, or examines one that it holds, and then the held calls of the same domain. -/
def orderedEvent (cls : Nat) (own : Nat → Bool) (run : Job → Surf → Pkg → Verdict) (core id : Nat) (s : State) :
    Host.Outcome State Fault Refusal :=
  let p := s.pkg
  match p.job core id with
  | none => .next s
  | some j =>
    let holds := (p.core core).unitHold.getD cls []
    if j.call.cls ≠ cls ∨ !own j.call.type ∨ !(holds.contains id || p.mayTake core cls id) then .next s
    else
      let dom := p.domainOf core id
      match j.turn p with
      | .held =>
        if holds.contains id ∨ 1024 ≤ holds.length then .next s else .next { s with pkg := p.holdCall core cls id }
      | _ =>
        match p.examine run core id with
        | none => .next { s with pkg := p.callWaits run core id }
        | some p =>
          let same (p : Pkg) (k : Nat) : Bool := dom.isSome && p.domainOf core k == dom
          .next { s with pkg := Pkg.reexamine run core cls same (holds.length + 1) p }

/-! ## Depth tester (15 R355) -/

/-- The FP32 value at pixel index i of a slot. -/
def slotWord (bs : List Byte) (i : Nat) : Nat := recNat bs (4 * i) 4

/-- A MASK of words k and k + 1 holds pixel i. -/
def Call.pixel (c : Call) (k i : Nat) : Bool := if i < 32 then bit (c.word k) i else bit (c.word (k + 1)) (i - 32)

/-- "fragment FUNC stored". -/
def depthPasses (func frag stored : Nat) : Bool :=
  match func with
  | 0 => false
  | 1 => (f32.cmp .lt frag stored).1
  | 2 => (f32.cmp .eq frag stored).1
  | 3 => (f32.cmp .le frag stored).1
  | 4 => (f32.cmp .gt frag stored).1
  | 5 => (f32.cmp .ne frag stored).1
  | 6 => (f32.cmp .ge frag stored).1
  | _ => true

/-- The depth of a fragment at pixel i: the exact sum rounded once. -/
def fragDepth (c : Call) (i : Nat) : Nat :=
  (f32.dot .rne (f32.decode (c.word 9))
    [(f32.decode (c.word 7), .fin false (i % 8) 0), (f32.decode (c.word 8), .fin false (i / 8) 0)]).1

/-- What a depth call does at its turn. -/
def depthRun (j : Job) (s : Surf) (p : Pkg) : Verdict :=
  match j.call.type with
  | 1 =>
    (j.read p (j.slot s) 256).andThen (fun p bs =>
      let pass (i : Nat) : Bool := j.call.pixel 5 i &&
        depthPasses (bits (j.call.word 10) 2 0) (fragDepth j.call i) (slotWord bs i)
      let m := (List.range 64).foldl (fun m i => if pass i then m + 2 ^ i else m) 0
      if bit (j.call.word 10) 3 && m != 0 then
        (j.write p (j.slot s) ((List.range 64).flatMap (fun i =>
          bytesOf 4 (if pass i then fragDepth j.call i else slotWord bs i)))).andThen (fun p _ =>
            .ret p 0 (maskWords m))
      else .ret p 0 (maskWords m))
  | 2 => (j.write p (j.slot s) ((List.range 64).flatMap (fun _ => bytesOf 4 (j.call.word 5)))).andThen
      (fun p _ => .ret p 0 [])
  | 3 => .ret p 0 []
  | _ => .reject

/-- ZTEST (and every depth call that R347 does not list). -/
def execZtest (core i : Nat) (s : State) : Host.Outcome State Fault Refusal :=
  orderedEvent 1 (fun t => t != 2 && t != 3) depthRun core i s

/-- ZCLEAR. -/
def execZclear (core i : Nat) (s : State) : Host.Outcome State Fault Refusal :=
  orderedEvent 1 (· == 2) depthRun core i s

/-- ZRETIRE. -/
def execZretire (core i : Nat) (s : State) : Host.Outcome State Fault Refusal :=
  orderedEvent 1 (· == 3) depthRun core i s

/-! ## Blender (15 R356-R358) -/

/-- Channel c of pixel j of a tile. -/
def chan (bs : List Byte) (j c : Nat) : Nat := (bs.getD (4 * j + c) 0).toNat

/-- Decode a tile by its mode byte: 256 bytes, none in state 3. -/
def decodeTile (mode clear : Nat) (bs : List Byte) : Option (List Byte) :=
  match mode / 64 with
  | 0 => some ((List.range 64).flatMap (fun _ => bytesOf 4 clear))
  | 1 =>
    let w := bits mode 5 3 + 1
    let stream := ofBytes (bs.drop 4)
    let delta (i : Nat) : Nat :=
      let v := stream / 2 ^ (w * i) % 2 ^ w
      if v.testBit (w - 1) then v + 256 - 2 ^ w else v
    some ((List.range 63).foldl (fun (acc : List Byte × List Byte) j =>
      let px := (List.range 4).map (fun c => BitVec.ofNat 8 ((acc.2.getD c 0).toNat + delta (4 * j + c)))
      (acc.1 ++ px, px)) (bs.take 4, bs.take 4)).1
  | 2 => some bs
  | _ => none

/-- δ of field i of a tile, as a signed value. -/
def tileDelta (bs : List Byte) (i : Nat) : Int :=
  let j := i / 4 + 1
  (BitVec.ofNat 8 (chan bs j (i % 4) + 256 - chan bs (j - 1) (i % 4))).toInt

/-- Encode a tile: the mode byte and the bytes to write (15 R357). -/
def encodeTile (bs : List Byte) : Nat × List Byte :=
  let ds := (List.range 252).map (tileDelta bs)
  match (List.range 7).find? (fun k => ds.all (fun d => decide (-(2 ^ k) ≤ d ∧ d < 2 ^ k))) with
  | none => (0xBB, bs)
  | some k =>
    let w := k + 1
    let stream := ds.foldr (fun d t => (d % 2 ^ w).toNat + 2 ^ w * t) 0
    let units := (4 + (252 * w + 7) / 8 + 63) / 64
    (64 + 8 * k + (units - 1), bs.take 4 ++ bytesOf (64 * units - 4) stream)

/-- Blend channel c of a source pixel over a stored one. -/
def blend (op : Nat) (s d : Nat → Nat) (c : Nat) : Nat :=
  match op with
  | 0 => s c
  | 1 => (s c * s 3 + d c * (255 - s 3) + 127) / 255
  | _ => min (s c + d c) 255

/-- Write an encoded tile and its mode byte. -/
def Job.putTile (j : Job) (s : Surf) (p : Pkg) (mode : Nat) (bs : List Byte) : Verdict :=
  (j.write p (j.slot s) bs).andThen (fun p _ =>
    (j.write p (j.modeVa s) (bytesOf 1 mode)).andThen (fun p _ => .ret p 0 [BitVec.ofNat 32 mode]))

/-- Blend a source into the tile under MASK and encode it again. -/
def Job.blendTile (j : Job) (s : Surf) (p : Pkg) (op : Nat) (src : Nat → Nat → Nat) : Verdict :=
  (j.read p (j.modeVa s) 1).andThen (fun p mb =>
    (j.read p (j.slot s) 256).andThen (fun p bs =>
      match decodeTile (ofBytes mb) s.clear bs with
      | none => .reject
      | some old =>
        let new := (List.range 64).flatMap (fun i => (List.range 4).map (fun c =>
          BitVec.ofNat 8 (if j.call.pixel 5 i then blend op (src i) (chan old i) c else chan old i c)))
        let e := encodeTile new
        j.putTile s p e.1 e.2))

/-- What a blender call does at its turn. -/
def blendRun (j : Job) (s : Surf) (p : Pkg) : Verdict :=
  match j.call.type with
  | 1 => (j.write p (j.modeVa s) [0]).andThen (fun p _ => .ret p 0 [0])
  | 2 =>
    if bits (j.call.word 8) 1 0 = 3 then .reject
    else j.blendTile s p (bits (j.call.word 8) 1 0) (fun _ c => bits (j.call.word 7) (8 * c + 7) (8 * c))
  | 3 =>
    if bits (j.call.word 9) 1 0 = 3 ∨ (j.call.pair 7).toNat % 256 ≠ 0 then .reject
    else
      (j.read p (j.call.pair 7) 256).andThen (fun p src =>
        j.blendTile s p (bits (j.call.word 9) 1 0) (chan src))
  | 4 =>
    (j.read p (j.modeVa s) 1).andThen (fun p mb =>
      (j.read p (j.slot s) 256).andThen (fun p bs =>
        match decodeTile (ofBytes mb) s.clear bs with
        | none => .reject
        | some px => if ofBytes mb / 64 = 2 then .ret p 0 [BitVec.ofNat 32 (ofBytes mb)] else j.putTile s p 0xBB px))
  | 5 => (j.read p (j.modeVa s) 1).andThen (fun p mb => .ret p 0 [BitVec.ofNat 32 (ofBytes mb)])
  | _ => .reject

/-- CCLEAR (and every blender call that R347 does not list). -/
def execCclear (core i : Nat) (s : State) : Host.Outcome State Fault Refusal :=
  orderedEvent 2 (fun t => decide (t < 2 ∨ 5 < t)) blendRun core i s

/-- FLAT. -/
def execFlat (core i : Nat) (s : State) : Host.Outcome State Fault Refusal := orderedEvent 2 (· == 2) blendRun core i s

/-- TILE. -/
def execTile (core i : Nat) (s : State) : Host.Outcome State Fault Refusal := orderedEvent 2 (· == 3) blendRun core i s

/-- EXPAND. -/
def execExpand (core i : Nat) (s : State) : Host.Outcome State Fault Refusal := orderedEvent 2 (· == 4) blendRun core i s

/-- CRETIRE. -/
def execCretire (core i : Nat) (s : State) : Host.Outcome State Fault Refusal := orderedEvent 2 (· == 5) blendRun core i s

/-- HELD_CALL_REEXAMINE: an ordered unit examines all its held calls again (15 R350). -/
def execHeldCallReexamine (core cls : Nat) (s : State) : Host.Outcome State Fault Refusal :=
  let n := ((s.pkg.core core).unitHold.getD cls []).length
  if cls = 1 then .next { s with pkg := Pkg.reexamine depthRun core 1 (fun _ _ => true) n s.pkg }
  else if cls = 2 then .next { s with pkg := Pkg.reexamine blendRun core 2 (fun _ _ => true) n s.pkg }
  else .next s

/-! ## Texture filter (15 R359-R361) -/

/-- A texture descriptor. -/
structure Tex where
  base : DWord
  resmap : DWord
  miss : DWord
  w : Nat
  h : Nat
  border : Nat
  misscap : Nat
  ident : Nat
  version : Word
  ven : Bool

/-- A texture descriptor from its bytes; none when a field is out of range. -/
def readTex (bs : List Byte) : Option Tex :=
  let a (k : Nat) : DWord := BitVec.ofNat 64 (recNat bs k 8)
  let t : Tex := ⟨a 0, a 8, a 16, recNat bs 0x18 2, recNat bs 0x1A 2, recNat bs 0x1C 4, recNat bs 0x20 4,
    recNat bs 0x24 4, BitVec.ofNat 32 (recNat bs 0x28 4), bit (recNat bs 0x2C 4) 0⟩
  if t.base.toNat % 65536 ≠ 0 ∨ t.miss.toNat % 8 ≠ 0 ∨ t.w = 0 ∨ t.h = 0 ∨ recNat bs 0x2C 4 / 2 ≠ 0 ∨
      recNat bs 0x30 8 ≠ 0 ∨ recNat bs 0x38 8 ≠ 0 then none
  else some t

/-- A texel index after addressing: 0 wrap, 1 clamp, 2 border (none). -/
def texIndex (mode : Nat) (i : Int) (n : Nat) : Option Nat :=
  if 0 ≤ i ∧ i < n then some i.toNat
  else if mode = 0 then some (i % n).toNat
  else if mode = 1 then some (if i < 0 then 0 else n - 1)
  else none

/-- One axis of the filter: the texel indexes and their weights in 1/256; none when the coordinate is not finite. -/
def texAxis (bilinear : Bool) (v n : Nat) : Option (List (Int × Nat)) :=
  match f32Int v with
  | none => none
  | some x =>
    if !bilinear then some [(floorAt (x * n) (-149), 256)]
    else
      -- u n - 1/2 in units of 2^-150
      let y := x * n * 2 - 2 ^ 149
      let i0 := floorAt y (-150)
      let fx := (roundAt .rne false (y - i0 * 2 ^ 150).toNat (-142) false 0).1
      some [(i0, 256 - fx), (i0 + 1, fx)]

/-- A texel to fetch: its address and granule, or BORDER (none), and its weight in 1/65536. -/
def texels (t : Tex) (mode : Nat) (us vs : List (Int × Nat)) : List (Option (DWord × Nat) × Nat) :=
  vs.flatMap (fun v => us.map (fun u =>
    (match texIndex mode u.1 t.w, texIndex mode v.1 t.h with
     | some x, some y =>
       let o := 4 * (y * t.w + x)
       some (t.base + BitVec.ofNat 64 o, o / 65536)
     | _, _ => none, u.2 * v.2)))

/-- A read of a texel: under VEN a versioned page answers with the selected version. -/
def Job.texel (j : Job) (t : Tex) (p : Pkg) (va : DWord) : Piece :=
  if !t.ven then j.read p va 4
  else
    match p.xlateMaster (dieOfCore j.core) j.ctx va .load with
    | (p, .error c) => .failed p ⟨c, va, 0⟩
    | (p, .ok x) =>
      if x.ver.isNone then j.read p va 4
      else
        match p.versionPa x t.version with
        | .error c => .failed p ⟨c, va, verAux c x⟩
        | .ok a =>
          if p.barred (dieOfCore j.core) a then .wait p
          else if p.poisoned a then .fail p ⟨0x1C, va, 0⟩
          else .ok (p.dirRead (dieOfCore j.core) a) (p.readMem a 4)

/-- Fetch the texels: their colours, and the granules that are missing in the order in which they are met. The
error is a fault, or the package of a read that waits. -/
def Job.fetch (j : Job) (t : Tex) : List (Option (DWord × Nat) × Nat) → Pkg → List (Nat × Nat) → List Nat →
    Except (Except Pkg (Pkg × Charge)) (Pkg × List (Nat × Nat) × List Nat)
  | [], p, cs, ms => .ok (p, cs.reverse, ms)
  | (none, w) :: rest, p, cs, ms => j.fetch t rest p ((t.border, w) :: cs) ms
  | (some (va, g), w) :: rest, p, cs, ms =>
    match j.read p (t.resmap + BitVec.ofNat 64 (g / 8)) 1 with
    | .fail p x => .error (.ok (p, x))
    | .wait q => .error (.error q)
    | .ok p rb =>
      if !bit (ofBytes rb) (g % 8) then
        j.fetch t rest p ((t.border, w) :: cs) (if ms.contains g then ms else ms ++ [g])
      else
        match j.texel t p va with
        | .fail p x => .error (.ok (p, x))
        | .wait q => .error (.error q)
        | .ok p bs => j.fetch t rest p ((ofBytes bs, w) :: cs) ms

/-- Append the missing granules to the list (15 R361). -/
def Job.noteMisses (j : Job) (t : Tex) : List Nat → Pkg → Piece
  | [], p => .ok p []
  | g :: gs, p =>
    match j.read p t.miss 4 with
    | .ok p bs =>
      let k := ofBytes bs
      (match j.write p t.miss (bytesOf 4 (k + 1)) with
       | .ok p _ =>
         if k < t.misscap then
           (match j.write p (t.miss + BitVec.ofNat 64 (8 + 8 * k)) (bytesOf 4 g ++ bytesOf 4 t.ident) with
            | .ok p _ => j.noteMisses t gs p
            | r => r)
         else j.noteMisses t gs p
       | r => r)
    | r => r

/-- Channel c of the filtered colour as FP32. -/
def filtered (cs : List (Nat × Nat)) (c : Nat) : Word :=
  let sum := cs.foldl (fun n x => n + x.2 * bits x.1 (8 * c + 7) (8 * c)) 0
  wordOf (f32.roundRat .rne sum 0 (65536 * 255))

/-- SAMPLE. -/
def sampleRun (j : Job) (p : Pkg) : Verdict :=
  let va := j.call.pair 2
  let filt := bit (j.call.word 6) 0
  let mode := bits (j.call.word 6) 2 1
  if mode = 3 ∨ va.toNat % 64 ≠ 0 then .reject
  else
    (j.read p va 64).andThen (fun p bs =>
      match readTex bs with
      | none => .reject
      | some t =>
        let one : List (Nat × Nat) := [(t.border, 65536)]
        let out (p : Pkg) (st : BitVec 8) (cs : List (Nat × Nat)) : Verdict :=
          .ret p st ((List.range 4).map (filtered cs))
        match texAxis filt (j.call.word 4) t.w, texAxis filt (j.call.word 5) t.h with
        | some us, some vs =>
          (match j.fetch t (texels t mode us vs) p [] [] with
           | .error (.ok (p, x)) => .fault p x
           | .error (.error q) => .wait q
           | .ok (p, cs, []) => out p 0 cs
           | .ok (p, cs, ms) => (j.noteMisses t ms p).andThen (fun p _ => out p stMiss cs))
        | _, _ => out p 0 one)

/-- SAMPLE (and every call of the texture filter that R347 does not list). -/
def execSample (core i : Nat) (s : State) : Host.Outcome State Fault Refusal := unitEvent 4 (fun _ => true) sampleRun core i s

/-! ## Tessellator (15 R362) -/

/-- Segments of a factor: 0 for one that culls the patch. -/
def tessN (v : Nat) : Nat :=
  match f32.decode v with
  | .nan _ => 0
  | .inf neg => if neg then 0 else 64
  | .fin neg m e => if neg ∨ m = 0 then 0 else min 64 (max 1 ((-(floorAt (-(m : Int)) e)).toNat))

/-- The bytes of a point. -/
def pointBytes (i nu j nv : Nat) : List Byte :=
  bytesOf 4 (f32.roundRat .rne i 0 nu) ++ bytesOf 4 (f32.roundRat .rne j 0 nv)

/-- Points and triangles of a quad patch. -/
def quadPatch (nu nv : Nat) : List Byte × List (Nat × Nat × Nat) :=
  ((List.range (nv + 1)).flatMap (fun j => (List.range (nu + 1)).flatMap (fun i => pointBytes i nu j nv)),
   (List.range nv).flatMap (fun j => (List.range nu).flatMap (fun i =>
     let a := j * (nu + 1) + i
     [(a, a + 1, a + nu + 2), (a, a + nu + 2, a + nu + 1)])))

/-- Points and triangles of a triangular patch. -/
def triPatch (n : Nat) : List Byte × List (Nat × Nat × Nat) :=
  let idx (i j : Nat) : Nat := j * (n + 1) + i - j * (j - 1) / 2
  ((List.range (n + 1)).flatMap (fun j => (List.range (n - j + 1)).flatMap (fun i => pointBytes i n j n)),
   (List.range n).flatMap (fun j => (List.range (n - j)).flatMap (fun i =>
     (idx i j, idx (i + 1) j, idx i (j + 1)) ::
       (if i + j + 2 ≤ n then [(idx (i + 1) j, idx (i + 1) (j + 1), idx i (j + 1))] else []))))

/-- Write a patch when it fits. -/
def Job.patch (j : Job) (p : Pkg) (pts idx : DWord) (cap : Nat) (x : List Byte × List (Nat × Nat × Nat)) : Verdict :=
  let np := x.1.length / 8
  let nt := x.2.length
  if bits cap 15 0 < np ∨ bits cap 31 16 < nt then .reject
  else
    (j.write p pts x.1).andThen (fun p _ =>
      (j.write p idx (x.2.flatMap (fun t => bytesOf 2 t.1 ++ bytesOf 2 t.2.1 ++ bytesOf 2 t.2.2))).andThen (fun p _ =>
        .ret p 0 [BitVec.ofNat 32 (nt * 65536 + np)]))

/-- A tessellator call. -/
def tessRun (j : Job) (p : Pkg) : Verdict :=
  let quad := j.call.type == 2
  let k := if quad then 4 else 3
  let pts := j.call.pair k
  let idx := j.call.pair (k + 2)
  let nu := tessN (j.call.word 2)
  let nv := if quad then tessN (j.call.word 3) else nu
  if pts.toNat % 8 ≠ 0 ∨ idx.toNat % 2 ≠ 0 then .reject
  else if nu = 0 ∨ nv = 0 then .ret p 0 [0]
  else j.patch p pts idx (j.call.word (k + 4)) (if quad then quadPatch nu nv else triPatch nu)

/-- TRI (and every tessellator call that R347 does not list). -/
def execTri (core i : Nat) (s : State) : Host.Outcome State Fault Refusal := unitEvent 3 (· != 2) tessRun core i s

/-- QUAD. -/
def execQuad (core i : Nat) (s : State) : Host.Outcome State Fault Refusal := unitEvent 3 (· == 2) tessRun core i s

/-! ## Rays (15 R363-R367) -/

/-- A ray is invalid (15 R367): words o of the origin, d of the direction, t of TMIN. -/
def Call.rayBad (c : Call) (o d t : Nat) : Bool :=
  let f (k : Nat) : Fp := f32.decode (c.word k)
  (List.range 3).any (fun i => (f (o + i)).isNan || (f (o + i)).isInf || (f (d + i)).isNan) ||
  (List.range 3).all (fun i => (f (d + i)).isZero) ||
  (f t).isNan || (f (t + 1)).isNan || (f32.cmp .gt (c.word t) (c.word (t + 1))).1

/-- (b - o) / d rounded to FP32, for d not zero: an infinite d gives zero, an infinite b an infinity. -/
def slabEnd (rm : RM) (b o d : Nat) : Nat :=
  match f32.decode b, f32Int o, f32.decode d with
  | _, _, .inf _ => 0
  | .inf neg, _, .fin dn _ _ => f32.infBits (neg != dn)
  | .fin _ _ _, some oi, .fin dn m e =>
    (match f32Int b with
     | some bi => f32.roundRat rm ((if dn then -1 else 1) * (bi - oi)) (-149 - e) m
     | none => 0)
  | _, _, _ => 0

/-- The near and far ends of the slab of an axis: none when the child misses. -/
def slab (lo hi o d : Nat) : Option (Nat × Nat) :=
  if (f32.decode d).isZero then
    (if (f32.cmp .le lo o).1 && (f32.cmp .le o hi).1 then some (f32.infBits true, f32.infBits false) else none)
  else
    let a (rm : RM) : Nat := slabEnd rm lo o d
    let b (rm : RM) : Nat := slabEnd rm hi o d
    -- a negative direction meets the high bound first
    if (f32.decode d).neg then some (b .rd, a .ru) else some (a .rd, b .ru)

/-- Greater of two FP32 values, the first when equal. -/
def maxF (x y : Nat) : Nat := if f32.key x < f32.key y then y else x
/-- Smaller of two FP32 values, the first when equal. -/
def minF (x y : Nat) : Nat := if f32.key y < f32.key x then y else x

/-- A child of a node that is present: bounds (lo, hi) per axis, and its entry when the ray hits it. -/
def childEntry (c : Call) (bounds : List (Nat × Nat)) : Option Nat :=
  let tmin := c.word 14
  let tmax := c.word 15
  if bounds.any (fun b => f32Nan b.1 || f32Nan b.2) then some tmin
  else if bounds.any (fun b => (f32.cmp .gt b.1 b.2).1) then none
  else
    let ss := bounds.zipIdx.map (fun b => slab b.1.1 b.1.2 (c.word (8 + b.2)) (c.word (11 + b.2)))
    if ss.any Option.isNone then none
    else
      let es := ss.filterMap id
      let entry := es.foldl (fun m x => maxF m x.1) tmin
      let exit := es.foldl (fun m x => minF m x.2) tmax
      if f32.key entry ≤ f32.key exit then some entry else none

/-- A Q8 bound: origin + q × 2^e, rounded outward. -/
def q8Bound (rm : RM) (origin q : Nat) (e : Int) : Nat :=
  match f32.decode origin with
  | .fin neg m oe =>
    let s := exactSum [(neg, m, oe), (false, q, e)]
    if s.1 = 0 then 0 else (f32.round .ieee rm (decide (s.1 < 0)) s.1.natAbs s.2 false).1
  | .inf _ => origin
  | .nan _ => 0x7FC00000

/-- The bounds of child c of a node of C children. -/
def nodeBounds (bs : List Byte) (nc : Nat) (q8 : Bool) (c : Nat) : List (Nat × Nat) :=
  (List.range 3).map (fun a =>
    if q8 then
      let org := recNat bs (0x10 + 4 * nc + 4 * a) 4
      let e : Int := (bs.getD (0x10 + 4 * nc + 12 + a) 0).toInt
      let q (k : Nat) : Nat := (bs.getD (0x20 + 4 * nc + 6 * c + k) 0).toNat
      (q8Bound .rd org (q a) e, q8Bound .ru org (q (3 + a)) e)
    else
      let k := 0x10 + 4 * nc + 24 * c + 4 * a
      (recNat bs k 4, recNat bs (k + 12) 4))

/-- The return record of a BOX call whose hits are sorted. -/
def boxReturn (bs : List Byte) (hits : List (Nat × Nat)) : List Word :=
  let metas := hits.zipIdx.foldl (fun n h => n + bits (recNat bs 0 4) (4 * h.1.1 + 3) (4 * h.1.1) * 16 ^ h.2) 0
  let offs := (List.range 8).map (fun k => match hits[k]? with
    | some h => BitVec.ofNat 32 (recNat bs (0x10 + 4 * h.1) 4)
    | none => 0)
  let ent (k : Nat) : Nat := match hits[k]? with
    | some h => (bf16.convert .ieee .rd (f32.decode h.2)).1
    | none => 0
  BitVec.ofNat 32 hits.length :: BitVec.ofNat 32 metas :: offs ++
    (List.range 4).map (fun k => BitVec.ofNat 32 (ent (2 * k) + 65536 * ent (2 * k + 1)))

/-- BOX. -/
def boxRun (j : Job) (p : Pkg) : Verdict :=
  let c := j.call
  let nodeW := (c.pair 2).toNat
  let ftab := c.pair 6
  if bits nodeW 5 3 ≠ 0 ∨ (c.pair 4).toNat % 64 ≠ 0 ∨ ftab.toNat % 8 ≠ 0 then .reject
  else if c.rayBad 8 11 14 then .ret p stRay (List.replicate 14 0)
  else
    (j.read p (ftab + BitVec.ofNat 64 (8 * (nodeW % 8))) 8).andThen (fun p fb =>
      let fe := ofBytes fb
      if fe / 8 ≠ 0 ∨ fe % 4 = 3 then .reject
      else
        let nc := 2 ^ (fe % 4 + 1)
        let q8 := bit fe 2
        let size := 0x10 + 4 * nc + (if q8 then 16 + 6 * nc else 24 * nc)
        (j.read p (BitVec.ofNat 64 (nodeW - nodeW % 8)) size).andThen (fun p bs =>
          let valid := recNat bs 4 4
          if 2 ^ nc ≤ valid ∨ recNat bs 8 8 ≠ 0 ∨ (q8 ∧ bs.getD (0x10 + 4 * nc + 15) 0 ≠ 0) then .reject
          else
            let hits := (List.range nc).filterMap (fun k =>
              if bit valid k then (childEntry c (nodeBounds bs nc q8 k)).map (fun e => (k, e)) else none)
            .ret p 0 (boxReturn bs (sortBy (fun a b => decide (f32.key a.2 ≤ f32.key b.2)) hits))))

/-- BOX (and every call of the box tester that R347 does not list). -/
def execBox (core i : Nat) (s : State) : Host.Outcome State Fault Refusal := unitEvent 5 (fun _ => true) boxRun core i s

/-- A point or direction in units of 2^-149. -/
structure V3 where
  x : Int
  y : Int
  z : Int

/-- Difference. -/
def V3.sub (a b : V3) : V3 := ⟨a.x - b.x, a.y - b.y, a.z - b.z⟩
/-- Cross product. -/
def V3.cross (a b : V3) : V3 := ⟨a.y * b.z - a.z * b.y, a.z * b.x - a.x * b.z, a.x * b.y - a.y * b.x⟩
/-- Dot product. -/
def V3.dot (a b : V3) : Int := a.x * b.x + a.y * b.y + a.z * b.z

/-- A vector of three finite encodings. -/
def vec3 (f : Nat → Nat) : Option V3 :=
  match f32Int (f 0), f32Int (f 1), f32Int (f 2) with
  | some x, some y, some z => some ⟨x, y, z⟩
  | _, _, _ => none

/-- TMIN ≤ n / d ≤ TMAX for d positive, in exact arithmetic. -/
def inRange (c : Call) (n d : Int) : Bool :=
  let le (lo : Bool) (v : Nat) : Bool :=
    match f32.decode v with
    | .inf neg => if lo then neg else !neg
    | .nan _ => false
    | .fin _ _ _ => match f32Int v with
      | some x => if lo then decide (x * d ≤ n * 2 ^ 149) else decide (n * 2 ^ 149 ≤ x * d)
      | none => false
  le true (c.word 10) && le false (c.word 11)

/-- The return record of a hit: t, u and v over a positive denominator. -/
def hitReturn (back : Bool) (t u v d : Int) : List Word :=
  BitVec.ofNat 32 (if back then 3 else 1) ::
    [t, u, v].map (fun n => wordOf (f32.roundRat .rne n 0 d.natAbs))

/-- The sign of N · D where a component of D is infinite: a positive infinity and no negative one. -/
def infBack (n : V3) (ds : List Fp) : Bool :=
  let terms := ([n.x, n.y, n.z].zip ds).filter (fun t => t.2.isInf && t.1 != 0)
  let signs := terms.map (fun t => decide (t.1 < 0) != t.2.neg)
  signs.contains false && !signs.contains true

/-- HIT in exact arithmetic (15 R366). -/
def hitTest (c : Call) (a b e : V3) (o : V3) : List Word :=
  let miss := List.replicate 4 (0 : Word)
  let e1 := b.sub a
  let e2 := e.sub a
  let n := e1.cross e2
  let s := o.sub a
  let cull := bit (c.word 12) 0
  if n.dot n = 0 then miss
  else
    match vec3 (fun i => c.word (7 + i)) with
    | some d =>
      let pv := d.cross e2
      let det := e1.dot pv
      if det = 0 then miss
      else
        let sg : Int := if det < 0 then -1 else 1
        let q := s.cross e1
        let u := sg * s.dot pv
        let v := sg * d.dot q
        let t := sg * e2.dot q
        let dn := sg * det
        let back := decide (0 < n.dot d)
        if u < 0 ∨ v < 0 ∨ dn < u + v ∨ !inRange c t dn ∨ (back ∧ cull) then miss else hitReturn back t u v dn
    | none =>
      let nn := n.dot n
      let u := (s.cross e2).dot n
      let v := (e1.cross s).dot n
      let back := infBack n ((List.range 3).map (fun i => f32.decode (c.word (7 + i))))
      if s.dot n ≠ 0 ∨ u < 0 ∨ v < 0 ∨ nn < u + v ∨ !inRange c 0 1 ∨ (back ∧ cull) then miss
      else hitReturn back 0 u v nn

/-- HIT. -/
def hitRun (j : Job) (p : Pkg) : Verdict :=
  let c := j.call
  if (c.pair 2).toNat % 4 ≠ 0 then .reject
  else if c.rayBad 4 7 10 then .ret p stRay (List.replicate 4 0)
  else
    (j.read p (c.pair 2) 36).andThen (fun p bs =>
      let v (k : Nat) : Option V3 := vec3 (fun i => recNat bs (12 * k + 4 * i) 4)
      match v 0, v 1, v 2, vec3 (fun i => c.word (4 + i)) with
      | some a, some b, some e, some o => .ret p 0 (hitTest c a b e o)
      | _, _, _, _ => .ret p 0 (List.replicate 4 0))

/-- HIT (and every call of the triangle tester that R347 does not list). -/
def execHit (core i : Nat) (s : State) : Host.Outcome State Fault Refusal := unitEvent 6 (fun _ => true) hitRun core i s

end Sys2Proof.Machine
end

