-- ==== Sys2Proof/Machine/Prefix.lean ====
section
/-!
DEFINITION. Prefix words and words that are not instructions (07_encoding.md R159-R163,
24_instruction_exceptions.md R433, R436).
-/

namespace Sys2Proof.Machine

/-- A prefix word joins the run of the executing split: the PC stays at the run's first word. A fourth word
ends the run with its fault (07 R162): cause 0x01 where a payload was bad, else 0x02. -/
def prefixWord (f : Pfx → Pfx) (s : State) : Host.Outcome State Fault Refusal :=
  match s.cur with
  | none => .fault .noIssuer
  | some i =>
    match s.pkg.warp? i.core i.slot i.w with
    | none => .fault .noIssuer
    | some w =>
      let sp := w.split i.sp
      if sp.mask = 0 then .fault .noIssuer
      else
        let x := f sp.pfx
        if 3 ≤ sp.pfx.words then
          .next { s with pkg := s.pkg.decodeTrap i (if x.bad then 0x01 else 0x02) }
        else
          .next { s with pkg := s.pkg.modWarp i.core i.slot i.w (fun w =>
            w.modSplit i.sp (fun t => { t with pfx := { x with words := sp.pfx.words + 1 }, held := none })) }

/-- `pfx.lit` (07 R162): the first chunk is sign-extended, a later one shifts the literal left by 23 bits. -/
def execPfxLit (l : BitVec 23) (s : State) : Host.Outcome State Fault Refusal :=
  prefixWord (fun x => { x with lit := some (match x.lit with
    | none => l.signExtend 64
    | some v => (v <<< 23) ||| l.setWidth 64) }) s

/-- `pfx.off` (07 R162). -/
def execPfxOff (o : BitVec 23) (s : State) : Host.Outcome State Fault Refusal :=
  prefixWord (fun x => { x with off := some (o.signExtend 64), misplaced := x.misplaced || x.off.isSome }) s

/-- `pfx.mod` (07 R160). -/
def execPfxMod (scv : Option (BitVec 3)) (sat : Bool) (nb : Option PReg) (rm : Option RM) (s : State) :
    Host.Outcome State Fault Refusal :=
  prefixWord (fun x => { x with md := some ⟨scv, sat, nb, rm⟩, misplaced := x.misplaced || x.md.isSome }) s

/-- `pfx.hint` (07 R161). -/
def execPfxHint (prv : Bool) (pri : BitVec 3) (likely yld : Bool) (s : State) :
    Host.Outcome State Fault Refusal :=
  prefixWord (fun x => { x with hint := some ⟨prv, pri, likely, yld⟩, misplaced := x.misplaced || x.hint.isSome }) s

/-- The major is a warp's only (07 R170). -/
def warpOnlyMajor (m : Nat) : Bool :=
  decide (0x15 ≤ m ∧ m ≤ 0x19) || decide (0x20 ≤ m ∧ m ≤ 0x37) || m == 0x3A || m == 0x43 || m == 0x54 ||
    m == 0x55 || decide (0x5A ≤ m ∧ m ≤ 0x5C) || decide (0x60 ≤ m ∧ m ≤ 0x63) || m == 0x67 || m == 0x73

/-- The major is the armature's only (07 R170). -/
def armOnlyMajor (m : Nat) : Bool := decide (0x68 ≤ m ∧ m ≤ 0x6C)

/-- A word that the decoder refuses (24 R433, R436): a prefix with a bad payload stays in its run, which then
ends with cause 0x01 at the latest; any other word fails step 2 on the wrong executor (among them `wpop`, which stands in
a mixed major), else step 3. -/
def execIllegalEncoding (v : Word) (s : State) : Host.Outcome State Fault Refusal :=
  let m := bits v.toNat 31 25
  if m = 0 then prefixWord (fun x => { x with bad := true }) s
  else
    match s.cur with
    | none => .fault .noIssuer
    | some i =>
      match s.pkg.warp? i.core i.slot i.w with
      | none => .fault .noIssuer
      | some w =>
        if (w.split i.sp).mask = 0 then .fault .noIssuer
        else
          let wrong := if i.w = armNo then warpOnlyMajor m || (m == 0x72 && bits v.toNat 7 0 == 2) else armOnlyMajor m
          .next { s with pkg := s.pkg.decodeTrap i (if wrong then 0x06 else 0x01) }

end Sys2Proof.Machine
end

