-- ==== Sys2Proof/Machine/Slots.lean ====
section
/-!
DEFINITION. The issue-slot tree: which leaf a quadrant's slot or the armature port's slot belongs to
(17_observation.md R382-R385), the counters of atomic regions (26_scheduling_engine_failures.md R480), and the passing
of time.
-/

namespace Sys2Proof.Machine

/-- The stall leaf of a wait (R382); the armature's waits for the matrix unit and for the feed are code 8 (R384). -/
def WaitKind.leaf : WaitKind → Nat
  | .mem | .cow _ | .back _ => 4
  | .claim _ => 9
  | .bar _ _ | .cbar _ _ | .abar _ _ | .wsync => 6
  | .queue _ | .push _ | .work => 5
  | .feed | .matrix => 8
  | .commit _ => 10
  | .event _ _ _ | .sleep _ | .store | .count _ | .engine | .drain _ => 7

/-- The stall leaf of a split that did not issue. A READY split that holds its word without a wait found a register that a
pod-remote load will write; one that keeps its place in a work feed is counted there. -/
def Split.leaf (halted : Bool) (s : Split) : Option Nat :=
  match s.st with
  | .free => none
  | .stopped => some 11
  | .parked => some (if halted then 11 else 6)
  | .ready => some (if halted then 11 else match s.held, s.wait with
      | some _, none => 4
      | some _, some x => if x.kind == .work then 5 else 3
      | none, _ => 3)
  | .blocked => some (if halted then 11 else match s.wait with
      | some x => x.kind.leaf
      | none => 3)

/-- The leaves of a warp's splits. -/
def Warp.leaves (w : Warp) : List Nat := w.splits.filterMap (Split.leaf (w.halt != .running))

/-- The leaf that a port's slot without an issue goes to (R383); 12 when nothing is resident. An armature that waits in `feed`
counts under code 8, as it would for an entry of the feed queue (R384; log 100, DEDUCED). -/
def Pkg.slotLeaf (p : Pkg) (k : Core) (port : Nat) : Nat :=
  let here := k.blocks.flatMap (fun b =>
    (List.filter (fun w => portOf w.1 w.2.slot == port) b.2.warps).map (fun w =>
      (b.2, if port = 4 then w.2.leaves.map (fun n => if n = 5 then 8 else n) else w.2.leaves)))
  let on := here.filter (fun x => !x.2.isEmpty)
  if port ≠ 4 ∧ on.any (fun x => p.saving x.1) then 13
  else if on = [] then (if port ≠ 4 ∧ k.resv.isSome then 14 else 12)
  else ([11, 10, 9, 6, 5, 7, 8, 4, 3].find? (fun n => on.any (fun x => x.2.contains n))).getD 3

/-- The slots of a step go to the leaves of the cores that hold something. -/
def Pkg.countSlots (p : Pkg) (n : Nat → DWord) : Pkg :=
  { p with cores := (p.cores.map (fun e =>
      (e.1, (List.range 5).foldl (fun k port => k.slots port (p.slotLeaf e.2 port) (n (dieOfCore e.1)).toNat) e.2))) }

/-- An issue takes one of those slots: leaf 1, or 2 for a prefix word; the armature port counts both under 1. -/
def Pkg.countIssue (p : Pkg) (i : Issuer) (word : Word) : Pkg :=
  match p.warp? i.core i.slot i.w with
  | none => p
  | some w =>
    let port := portOf i.w w.slot
    p.modCore i.core (fun k => k.takeSlot port (if port ≠ 4 ∧ word.toNat / 2 ^ 25 = 0 then 2 else 1))

/-- TOTAL of a core: cycles since the counters were cleared, up to a freeze. -/
def Pkg.slotTotal (p : Pkg) (c : Nat) : DWord :=
  let k := p.core c
  (k.frozen.getD (p.die (dieOfCore c)).cyc) - k.ctrStart

/-- A counter of a port as it is read (R382, R384). -/
def Pkg.slotCounter (p : Pkg) (c port leaf : Nat) : DWord :=
  let k := p.core c
  let others := ((List.range 15).filter (fun n => n != 0 && n != 12)).foldl
    (fun (a : DWord) n => a + k.ctrs.getD (port * 16 + n) 0) 0
  let total := p.slotTotal c + BitVec.ofNat 64 (k.ahead.getD port 0)
  if leaf = 0 then total
  else if leaf = 12 then total - others
  else if leaf = 15 then 0
  else k.ctrs.getD (port * 16 + leaf) 0

/-- CLEAR of the counters of a core (R385). -/
def Pkg.clearSlots (p : Pkg) (core : Nat) : Pkg :=
  let now := (p.core core).frozen.getD (p.die (dieOfCore core)).cyc
  p.modCore core (fun k => { k with ctrs := [], spare := [], ahead := [], ctrStart := now })

/-- COUNTER_CLEAR (R385): every counter of the core. -/
def execCounterClear (core : Nat) (s : State) : Host.Outcome State Fault Refusal :=
  .next { s with pkg := s.pkg.clearSlots core }

/-- FREEZE of the counters of a core is written (R385): they stop or go on together. -/
def Pkg.freezeSlots (p : Pkg) (core : Nat) (on : Bool) : Pkg :=
  let now := (p.die (dieOfCore core)).cyc
  p.modCore core (fun k =>
    match k.frozen, on with
    | none, true => { k with frozen := some now }
    | some t, false => { k with frozen := none, ctrStart := k.ctrStart + (now - t) }
    | _, _ => k)

/-- COUNTER_FREEZE (R385). -/
def execCounterFreeze (core : Nat) (on : Bool) (s : State) : Host.Outcome State Fault Refusal :=
  .next { s with pkg := s.pkg.freezeSlots core on }

/-- Add a region's end to a die's counters (26 R480), under the number of its word: COMMITS 0, REPAIRED 1, ABORT
with reason c under c + 1. -/
def regionWord (m : KMap Word) (st : Word) : KMap Word :=
  let inc (k : Nat) (m : KMap Word) : KMap Word := m.setD k (m.getD k 0 + 1) 0
  if st.getLsbD 8 then (if st.getLsbD 9 then inc 1 (inc 0 m) else inc 0 m) else inc (st.toNat % 256 + 1) m

/-- Count the regions that ended, on the die of their core (26 R480). -/
def Pkg.countRegions (p : Pkg) : Pkg :=
  let logs := p.cores.flatMap (fun e => e.2.blocks.flatMap (fun b => b.2.warps.flatMap (fun w =>
    w.2.arLog.map (fun st => (dieOfCore e.1, st)))))
  if logs = [] then p
  else
    let p := logs.foldl (fun p x => p.modDie x.1 (fun k => { k with rctr := regionWord k.rctr x.2 })) p
    { p with cores := (p.cores.map (fun e => (e.1, { e.2 with blocks := (e.2.blocks.map (fun b =>
        (b.1, { b.2 with warps := (b.2.warps.map (fun w => (w.1, { w.2 with arLog := [] }))) }))) }))) }

/-- What a clock can fall behind from place `x` of a microsecond to place `y` of the same or, less a whole one, of the next: all
of the time, and at most 131.25 cycles in a microsecond (01 R18), in twentieths of a cycle. -/
def lagStep (x y : Nat) : Int :=
  if x ≤ y then min 2625 (42 * (y - x) : Nat) else min 2625 (42 * (1000 + y - x) : Nat) - 2625

/-- The most that a clock is behind at nanosecond t of its run. -/
def Die.lagMost (k : Die) (t : Nat) : Int :=
  k.lagBounds.foldl (fun m e => min m (e.2 + 2625 * (t / 1000 : Nat) + lagStep e.1 (t % 1000))) (42 * t)

/-- The clock of a die runs for n nanoseconds (01 R18, R20): stretched by a free amount, so that it never runs backwards or faster
than 2.1 cycles per ns and makes at least 1,968.75 cycles in any microsecond. The cycle counter of a die in reset stands. -/
def Die.pass (k : Die) (n want : Nat) : Die :=
  let t := k.ran + n
  let lag := max k.lag (min (k.lag + want) (k.lagMost t).toNat)
  let here : Int := lag - 2625 * (t / 1000 : Nat)
  let past : Nat := (42 * t - lag) / 20 - (42 * k.ran - k.lag) / 20
  { k with
    cyc := if k.inReset then k.cyc else k.cyc + BitVec.ofNat 64 past
    ran := t, lag := lag
    lagBounds := KMap.insert (t % 1000) (min here (k.lagBounds.getD (t % 1000) here)) k.lagBounds }

/-- Time passes for a step (01 R18-R20, log 5), and the step is counted, once the issue of the step before has passed
over the others of its port (02 R57). -/
def Pkg.tickOn (p : Pkg) : Pkg :=
  let p := p.passOver
  let ns := Config.elapsedNs p.tick
  let q : Pkg := { p.countRegions with
    dies := (p.countRegions.dies.map (fun e => (e.1, e.2.pass ns.toNat (Config.stretch p.tick e.1)))) }
  { q.countSlots (fun d => (q.die d).cyc - (p.die d).cyc) with tick := p.tick + 1, ptime := p.ptime + ns }

end Sys2Proof.Machine
end

