-- ==== Sys2Proof/Machine/Fetch.lean ====
section
/-!
DEFINITION. What an issue decision does before an instruction runs: parking and merging, traps that are due,
breakpoints, the bounds of a halt, and the fetch of the next word (02_execution_model.md R31-R33,
17_observation.md R391-R394, 23_faults_traps_stops.md R417-R420, 24_instruction_exceptions.md R433 step 1).
-/

namespace Sys2Proof.Machine

/-- Fetch a word of code for a warp of a block: from the fused code of a spliced pair without translation
(14 R341), else through the translation with X permission in the block's context; the error is the cause, 0 while the home
die does not serve. -/
def Pkg.fetch (p : Pkg) (c b w : Nat) (pc : DWord) : Except Nat (Pkg × Word) :=
  match p.block? c b with
  | none => .error 0x09
  | some bl =>
    match p.fused bl w with
    | some x => (match fusedAt x pc with | some f => .ok (p, f.word) | none => .error 0x09)
    | none =>
      match p.xlate c bl.ctx pc .fetch with
      | .error x => .error x
      | .ok (p, x) =>
        match p.plainPa x with
        | none => .error 0x09
        | some a =>
          if p.homeDown a then .error 0
          else if p.poisoned a then .error 0x1C
          else
            let p := p.recallStash (a / 256) false
            .ok (p, BitVec.ofNat 32 (p.readNat a 4))

/-- Prefix words at an address, at most n of them: what a run holds before its instruction (07 R162). -/
def Pkg.prefixes (p : Pkg) (c b w : Nat) (pc : DWord) : Nat → Nat
  | 0 => 0
  | n + 1 =>
    match p.fetch c b w pc with
    | .ok (_, x) => if x.toNat / 2 ^ 25 = 0 then 1 + p.prefixes c b w (pc + 4) n else 0
    | .error _ => 0

/-- A breakpoint of the core matches the split's next address (17 R390-R391, 14 R343): a copied or replacing
word of fused code by its original PC. -/
def Pkg.breaks (p : Pkg) (c b w : Nat) (s : Split) : Bool :=
  match p.block? c b with
  | none => false
  | some bl =>
    let fused := p.fused bl w
    let own : Bool := match fused with
      | some x => (match fusedAt x s.pc with
        | some f => f.kind == .copied || f.kind == .replaced
        | none => false)
      | none => true
    let at_ := if fused.isSome then (p.origPc bl w s.pc).1 else s.pc
    !s.noBreak && own && s.pfx.words == 0 && (p.core c).bps.any (fun e =>
      let a := pair (e.2.getD 0 0) (e.2.getD 1 0)
      let ctl := e.2.getD 2 0
      ctl.getLsbD 31 && decide (ctl.toNat % 65536 = bl.ctx.asid) && (a >>> 2) == (at_ >>> 2))

/-- Take the traps that parking brought due, and that of a split that a second fault met while it ran (23 R417-R418). -/
def Pkg.trapParked (p : Pkg) (c b w : Nat) : Pkg :=
  match p.warp? c b w with
  | none => p
  | some wp =>
    if wp.halt = .stopped then p
    else match wp.splits.findIdx? (fun s => s.pend.isSome && (s.st == .parked || s.st == .blocked || s.mask == 0 || s.pend.any Pend.lost)) with
    | some sp => p.takeTrap c b w sp
    | none => p

/-- The MERGE records of entries that took lanes beside their own (17 R386-R388). -/
def Pkg.traceMerge (p old : Pkg) (c b w : Nat) : Pkg :=
  match old.warp? c b w, p.warp? c b w, p.block? c b with
  | some x, some y, some bl =>
    (List.range 4).foldl (fun p i =>
      if (x.split i).mask != 0 && (x.split i).mask != (y.split i).mask && Mask.minus (x.split i).mask (y.split i).mask == 0 then
        p.emit c b 1 0x03 i (recWarp w) (y.split i).mask 0 (p.origPc bl w (y.split i).pc).1
      else p) p
  | _, _, _ => p

/-- A warp's halt allows another instruction (23 R420): at most 8 after the halt reached a warp, within 64 cycles of its
die; an armature only completes the instruction it is in. -/
def HaltState.allows (h : HaltState) (arm mid : Bool) (now : DWord) : Bool :=
  match h with
  | .running => true
  | .reached n t => mid || (!arm && decide (n < 8) && decide ((now - t).toNat ≤ 64))
  | .stopped => false

/-- A breakpoint faults every lane of the split before its instruction (17 R391): lanes in a region abort first
with reason HALT and stop at their abort PC (10 R254). What is skipped is the whole prefix run with its instruction
(23 R428). -/
def Pkg.breakTrap (p : Pkg) (i : Issuer) : Pkg :=
  match p.warp? i.core i.slot i.w with
  | none => p
  | some w =>
    let s := w.split i.sp
    let more := p.prefixes i.core i.slot i.w s.pc 3
    let skip (pc : DWord) : DWord := pc + BitVec.ofNat 64 (4 * (p.prefixes i.core i.slot i.w pc 3 + 1))
    let ls := (lanesOf s.mask).filter (fun l => (w.regions.find? l).isSome)
    if ls = [] then p.decodeTrap i 0x20 0 more
    else
      (p.modWarp i.core i.slot i.w (fun w =>
        (w.abortLanes i.sp (ls.map (fun l => (l, arStatus 0 0 false false 0x0E))) s.pc s.pc (skip s.pc)).charge s.mask
          (fun m pc => ⟨0x20, pc, skip pc, 0, m, 0, false⟩))).takeTrap
        i.core i.slot i.w i.sp

/-! ## The order of issue (02 R57, 07 R161) -/

/-- An issue decision is an opportunity for its split: the splits of the port that yielded take note. -/
def Pkg.opportunity (p : Pkg) (i : Issuer) (port : Nat) : Pkg :=
  ((p.readyOn i.core port).filter (fun x => x.split.yielded)).foldl
    (fun p x => p.modSplitAt i.core x.slot x.w x.sp (fun s => { s with seen := (i.slot, i.w, i.sp) :: s.seen })) p

/-- The slots that splits were passed over leave no slot to spare (02 R57): for some k, k + 1 of them must issue within the next
k + 1 slots to keep the bound of 64. -/
def boundTight (passed : List Nat) : Bool :=
  (List.range 64).any (fun k => decide (k + 1 ≤ (passed.filter (fun n => decide (63 ≤ n + k))).length))

/-- The contexts that the armature port serves before a slot's (11 R256). -/
def Core.armDist (k : Core) (slot : Nat) : Nat := (slot + 8 - k.armTurn % 8) % 8

/-- The split may issue now. On a quadrant (02 R57, 07 R161), where the bound leaves no slot to spare the split that waited
longest issues; else every other READY split had its opportunity since it yielded, and none that could issue and has not
yielded is of a higher priority. On the armature port (11 R256) it is the first in turn of those that could issue. -/
def Pkg.inTurn (p : Pkg) (i : Issuer) (w : Warp) (s : Split) : Bool :=
  let port := portOf i.w w.slot
  let others := (p.readyOn i.core port).filter (fun x => !(x.slot == i.slot && x.w == i.w && x.sp == i.sp))
  let able := others.filter (fun x => p.couldIssue i.core x)
  if port = 4 then able.all (fun x => decide ((p.core i.core).armDist i.slot ≤ (p.core i.core).armDist x.slot))
  else if boundTight (s.passed :: able.map (fun x => x.split.passed)) then able.all (fun x => decide (x.split.passed ≤ s.passed))
  else
    (!s.yielded || others.all (fun x => s.seen.contains (x.slot, x.w, x.sp))) &&
    able.all (fun x => x.split.yielded || decide (w.pri ≤ x.warp.pri))

/-- The armature port goes on with the next context (11 R256). -/
def Pkg.turnArm (p : Pkg) (i : Issuer) : Pkg :=
  if i.w = armNo then p.modCore i.core (fun k => { k with armTurn := (i.slot + 1) % 8 }) else p

/-- The word is issued; a split that only waits takes no slot. -/
def Pkg.offer (p : Pkg) (i : Issuer) (s : Split) (x : Word) : Pkg × Option Word :=
  (if s.st == .blocked then p
   else ((p.turnArm i).modSplitAt i.core i.slot i.w i.sp (fun s => { s with yielded := false, seen := [] })).countIssue i x, some x)

/-- Parking and merging of a warp (02 R31-R32), with the records of what they did and the steps that end in them. -/
def Pkg.settleWarp (p : Pkg) (i : Issuer) : Pkg :=
  let q := p.modWarp i.core i.slot i.w Warp.settle
  let q := (List.range 4).foldl (fun q sp => q.stepOver p { i with sp := sp }) q
  (q.traceMerge p i.core i.slot i.w).trapParked i.core i.slot i.w

/-- The issue decision for a split (02 R31-R33): the package after it, and the word to run when one issues. A
BLOCKED split runs the word it waits in again. Nothing issues on a die in reset, of a block that is being saved
(02 R52), while the package is held (27 R491), or out of turn (02 R57); a READY split waits while dirty bytes of its core
cannot be written back (04 R97, 25 R458). -/
def Pkg.present (p : Pkg) (i : Issuer) : Pkg × Option Word :=
  if (p.die (dieOfCore i.core)).inReset then (p, none)
  else
    let p := p.settleWarp i
    match p.block? i.core i.slot, p.warp? i.core i.slot i.w with
    | some bl, some w =>
      let s := w.split i.sp
      let mid := s.pfx.words != 0
      let p := p.opportunity i (portOf i.w w.slot)
      if s.st == .ready && p.l1Barred i.core then (p, none)
      else if !s.inCow && (p.hold || p.saving bl || !(s.stepping || w.halt.allows (i.w == armNo) mid (p.cycOf i.core))) then (p, none)
      else
        match s.st, s.held with
        | .blocked, some x => p.offer i s x
        | .ready, some x => if p.inTurn i w s then p.offer i s x else (p, none)
        | .ready, none =>
          if p.breaks i.core i.slot i.w s then (p.breakTrap i, none)
          else if !p.inTurn i w s then (p, none)
          else
            let p := if mid then p else p.modWarp i.core i.slot i.w (fun w =>
              { w with halt := match w.halt with | .reached n t => .reached (n + 1) t | h => h })
            (match p.fetch i.core i.slot i.w (s.pc + BitVec.ofNat 64 (4 * s.pfx.words)) with
             | .error 0 => (p, none)
             | .error c => (p.decodeTrap i c (s.pc + BitVec.ofNat 64 (4 * s.pfx.words)), none)
             | .ok (p, x) =>
               (p.modWarp i.core i.slot i.w (fun w => w.modSplit i.sp (fun s => { s with held := some x }))).offer i s x)
        | _, _ => (p, none)
    | _, _ => (p, none)

end Sys2Proof.Machine
end

