-- ==== Sys2Proof/Machine/Region.lean ====
section
/-!
DEFINITION. Stash windows (10_isa_memory.md R245-R246, 04_memory_hierarchy.md R100-R103) and symbolic atomic
regions: opening, commit, abort and status (10_isa_memory.md R248-R255).
-/

namespace Sys2Proof.Machine

/-! ## Stash windows -/

/-- Translate the pages of a range, in order: each page's translation and the entry that gave it (10 R245). A failed
translation is the error, before any page's kind is looked at. -/
def Pkg.stashXlate (p : Pkg) (c : Nat) (ctx : Ctx) (va : DWord) : Nat → Nat → Except Nat (Pkg × List (Nat × Xl))
  | 0, _ => .ok (p, [])
  | n + 1, i =>
    match p.xlate c ctx (va + BitVec.ofNat 64 (4096 * i)) .load with
    | .error x => .error x
    | .ok (p, x) =>
      match p.stashXlate c ctx va n (i + 1) with
      | .error x => .error x
      | .ok (p, r) => .ok (p, (i, x) :: r)

/-- A window as it is mapped, every sector unfilled: its physical pages, their translations and the pages that forbid
stores; or the cause (10 R245): translation of any page, then a page kind that a window may not hold (04 R100). -/
def Pkg.stashMap (p : Pkg) (c : Nat) (ctx : Ctx) (va : DWord) (off len : Nat) : Except Nat (Pkg × Stash) :=
  match p.stashXlate c ctx va (len / 4096) 0 with
  | .error x => .error x
  | .ok (p, xs) =>
    if xs.any (fun x => x.2.loc.isNone || x.2.nc || x.2.ver.isSome) then .error 0x0A
    else
      let at_ (i : Nat) : DWord := va + BitVec.ofNat 64 (4096 * i)
      let ro := (xs.map Prod.fst).filter (fun i => match p.xlate c ctx (at_ i) .store with
        | .error _ => true
        | .ok _ => false)
      let pages := xs.foldl (fun m x => match x.2.loc with | some a => KMap.insert x.1 a m | none => m) []
      let ents := xs.foldl (fun m x => match p.tlbEntry c ctx (at_ x.1).toNat with
        | .ok (_, t) => KMap.insert x.1 t m
        | .error _ => m) []
      .ok (p, ⟨va, off, len, pages, ents, ro, [], [], []⟩)

/-- Two ranges share a byte; an empty one shares none. -/
def overlaps (a n b m : Nat) : Bool := decide (0 < n ∧ 0 < m ∧ a < b + m ∧ b < a + n)

/-- `stash.map` (10 R245, 04 R100). The form writes, and faults on, the lanes whose guard is true (07 R154, log 81). -/
def execStashMap (g : Guard) (d a : Operand) (s : State) : Host.Outcome State Fault Refusal :=
  perform { Form.w g [(.dst .w32, d), (.src .w128, a)] with once := true } (fun e p =>
    match e.warp p, e.block p with
    | some w, some b =>
      let ws := e.rdWords w 4 a e.lead
      let va := pair (ws.getD 0 0) (ws.getD 1 0)
      let off := (ws.getD 2 0).toNat
      let len := (ws.getD 3 0).toNat
      let clash := b.stash.any (fun x => overlaps off len x.2.off x.2.len ||
        overlaps va.toNat len x.2.va.toNat x.2.len)
      match (List.range 8).find? (fun i => (b.stash.find? i).isNone) with
      | none => Res.fail p e.act 0x10
      | some id =>
        if clash then Res.fail p e.act 0x10
        else if off % 4096 ≠ 0 ∨ va.toNat % 4096 ≠ 0 ∨ len % 4096 ≠ 0 ∨ len = 0 ∨ b.spSize < off + len then
          Res.fail p e.act 0x0B
        else
          match p.stashMap e.is.core b.ctx va off len with
          | .error 0 => Res.wait e.orig .mem
          | .error c => Res.fail p e.act c va
          | .ok (p, x) =>
            e.writeAll (p.modBlock e.is.core e.is.slot (fun b => { b with stash := KMap.insert id x b.stash })) d
              (e.lanes.map (fun l => (l, [BitVec.ofNat 32 id])))
    | _, _ => Res.ok p) s

/-- Write a window's dirty sectors back, each a write of the block's die (04 R101). -/
def Pkg.stashClean (p : Pkg) (c b id : Nat) : Pkg :=
  match p.block? c b with
  | none => p
  | some bl =>
    match bl.stash.find? id with
    | none => p
    | some s => s.dirty.foldl (fun p sec =>
        (p.stashWriteBack c b id sec).dirWrite (dieOfCore c) (s.paOf (s.off + 64 * sec))) p

/-- A dirty sector of a window cannot be written back now. -/
def Pkg.stashBarred (p : Pkg) (c b id : Nat) : Bool :=
  ((p.block? c b).bind (fun bl => bl.stash.find? id)).any (fun s =>
    s.dirty.any (fun sec => p.barred (dieOfCore c) (s.paOf (s.off + 64 * sec))))

/-- Free a window: filled sectors keep the window's values (10 R246). -/
def Pkg.stashFree (p : Pkg) (c b id : Nat) : Pkg :=
  (p.stashClean c b id).modBlock c b (fun bl => { bl with stash := KMap.erase id bl.stash })

/-- A form that names a window in a (10 R245). -/
def stashForm (cls : Option Nat) (act : Pkg → Nat → Nat → Nat → Pkg) (g : Guard) (a : Operand) (s : State) :
    Host.Outcome State Fault Refusal :=
  perform { Form.w g [(.src .w32, a)] with once := true } (fun e p =>
    match e.warp p, e.block p with
    | some w, some b =>
      let id := (e.rd32 w a e.lead).toNat
      match cls with
      | some k =>
        if e.classFull w k then Res.wait e.orig (.count k)
        else if (b.stash.find? id).isNone then Res.fail p e.act 0x10
        else if p.stashBarred e.is.core e.is.slot id then Res.wait e.orig .mem
        else Res.ok (e.countOp (act { p with nextId := p.nextId + 1 } e.is.core e.is.slot id) k p.nextId true true)
      | none =>
        if (b.stash.find? id).isNone then Res.fail p e.act 0x10
        else Res.ok (act p e.is.core e.is.slot id)
    | _, _ => Res.ok p) s

/-- `stash.unmap` (10 R245). -/
def execStashUnmap (g : Guard) (a : Operand) (s : State) : Host.Outcome State Fault Refusal :=
  stashForm (some 5) Pkg.stashFree g a s

/-- `stash.wb` (10 R245). -/
def execStashWb (g : Guard) (a : Operand) (s : State) : Host.Outcome State Fault Refusal :=
  stashForm (some 5) Pkg.stashClean g a s

/-- Invalidate every sector of a window: the bytes under it that were there before come back until the next
touch refills it; dirty data is lost (10 R246). -/
def Pkg.stashForget (p : Pkg) (c b id : Nat) : Pkg :=
  match p.block? c b with
  | none => p
  | some bl =>
    match bl.stash.find? id with
    | none => p
    | some s => s.filled.foldl (fun p sec => p.stashDrop c b id sec) p

/-- `stash.inv` (10 R245). -/
def execStashInv (g : Guard) (a : Operand) (s : State) : Host.Outcome State Fault Refusal :=
  stashForm none Pkg.stashForget g a s

/-! ## Opening a region (10 R248) -/

/-- Open lane regions of a core. -/
def Pkg.openRegions (p : Pkg) (c : Nat) : Nat :=
  (p.core c).blocks.foldl (fun n b => b.2.warps.foldl (fun n w => n + w.2.regions.length) n) 0

/-- A region as it opens, with its abort PC. -/
def Region.fresh (w : Warp) (l : Nat) (abortPc : DWord) : Region :=
  ⟨abortPc, [], w.predBits l, [], [], [], [], [], 0⟩

/-- `ar.begin` (10 R248): a lane with an open region aborts it (NEST); lanes beyond 512 open regions of the core
abort at once (CAP_LOG). A handler warp does not run it (23 R427). -/
def execArBegin (g : Guard) (t : BitVec 13) (s : State) : Host.Outcome State Fault Refusal :=
  perform { Form.w g [] with region := true, handler := false } (fun e p =>
    match e.warp p with
    | none => Res.ok p
    | some w =>
      let n0 := p.openRegions e.is.core
      let out := e.lanes.foldl (fun (x : Warp × Nat × List LFault) l =>
        if (w.regions.find? l).isSome then
          (x.1, x.2.1, x.2.2 ++ [LFault.abortOf l (arStatus 0 0 false false 0x0C)])
        else
          let w' := { x.1 with regions := KMap.insert l (Region.fresh w l (e.target t)) x.1.regions
                               arStat := KMap.erase l x.1.arStat }
          if x.2.1 < 512 then (w', x.2.1 + 1, x.2.2)
          else (w', x.2.1, x.2.2 ++ [LFault.abortOf l (arStatus 0 0 false false 0x06)])) (w, n0, [])
      ⟨e.modWarp p (fun _ => out.1), out.2.2, .seq⟩) s

/-! ## Commit (10 R253) -/

/-- Re-read every logged load, each with the stores logged before it laid over memory. -/
def Pkg.reread (p : Pkg) (g : Region) : List DWord :=
  g.loads.foldl (fun vals ld =>
    vals ++ [BitVec.ofNat 64 (ofBytes (g.seen vals ld.after ld.va.toNat (p.readMem ld.pa ld.bytes)))]) []

/-- A constraint holds for fresh values (10 R251). -/
def ArCon.holds (c : ArCon) (vals : List DWord) : Bool :=
  let v := c.tag.eval vals
  let a := if c.left then v else c.other
  let b := if c.left then c.other else v
  let r := match c.kind, c.tag.wide with
    | .float, true => (f64.cmp c.cmp a.toNat b.toNat).1
    | .float, false => (f32.cmp c.cmp a.toNat b.toNat).1
    | k, true => cmpInt (k == .int) c.cmp a b
    | k, false => cmpInt (k == .int) c.cmp (a.setWidth 32) (b.setWidth 32)
  r == c.answer

/-- Translate every store of the log for given values: local addresses, or why the region aborts and at which address. -/
def Env.storePas (e : Env) (p : Pkg) (vals : List DWord) :
    List ArStore → Except (Option Nat × DWord) (Pkg × List (Nat × List Byte))
  | [] => .ok (p, [])
  | s :: t =>
    match e.regionPage p (s.addr vals) s.bytes .store with
    | .error x => .error (x, s.addr vals)
    | .ok (p, pa) =>
      match e.storePas p vals t with
      | .error x => .error x
      | .ok (p, r) => .ok (p, (pa, s.bytesAt vals) :: r)

/-- What a commit try ends in. -/
inductive Commit where
  | done (p : Pkg)
  | again (p : Pkg) (g : Region)
  | abort (p : Pkg) (status : Word)
  | wait

/-- Translate every logged load again: after an invalidation no commit reads through the old translation (04 R110). -/
def Env.loadPas (e : Env) (p : Pkg) : List ArLoad → Except (Option Nat × DWord) (Pkg × List ArLoad)
  | [] => .ok (p, [])
  | x :: t =>
    match e.regionPage p x.va x.bytes .load with
    | .error c => .error (c, x.va)
    | .ok (p, pa) =>
      match e.loadPas p t with
      | .error c => .error c
      | .ok (p, r) => .ok (p, { x with pa := pa } :: r)

/-- The lock of a region: the lines of every logged load and of every store address as now computed, ascending, and the
region with its loads' present addresses (10 R253). -/
def Env.lockOf (e : Env) (p : Pkg) (g : Region) : Except (Option Nat × DWord) (Pkg × List Nat × Region) :=
  match e.loadPas p g.loads with
  | .error c => .error c
  | .ok (p, loads) =>
    match e.storePas p (loads.map (fun x => x.cur)) g.stores with
    | .error c => .error c
    | .ok (p, st) =>
      let lines : List Nat := loads.map (fun x => x.pa / 256) ++ st.map (fun x => x.1 / 256)
      .ok (p, sortBy (fun a b => decide (a ≤ b)) lines.dedup, { g with loads := loads })

/-- A region that an access stops at commit: a page it may not hold, or a fault, which its die counts (25 R448); cause 0 waits. -/
def Env.commitStop (e : Env) (p : Pkg) (l : Nat) : Option Nat × DWord → Commit
  | (none, _) => .abort p (arStatus 0 0 false false 0x08)
  | (some 0, _) => .wait
  | (some c, va) => .abort (p.countTf (dieOfCore e.is.core) (e.ctx p).asid [LFault.of l c va]) (arStatus c 0 false false 0x09)

/-- One try of the commit engine for a lane: lock, re-read, check, and store (10 R253). -/
def Env.tryCommit (e : Env) (p : Pkg) (l : Nat) (g : Region) : Commit :=
  match e.lockOf p g with
  | .error c => e.commitStop p l c
  | .ok (p, lock, g) =>
    let p := lock.foldl (fun p line => p.toL2 e.is.core (256 * line) true) p
    let fresh := p.reread g
    match g.cons.findIdx? (fun c => !c.holds fresh) with
    | some i => .abort p (arStatus 0 i false false 0x01)
    | none =>
      match e.storePas p fresh g.stores with
      | .error c => e.commitStop p l c
      | .ok (p, now) =>
        if now.all (fun x => lock.contains (x.1 / 256)) then
          let p := now.foldl (fun p x => p.writeMem x.1 x.2) p
          let repaired := (g.loads.zip fresh).any (fun x => x.1.value != x.2)
          .done (e.modWarp p (fun w =>
            let w := g.tags.foldl (fun w t =>
              if t.2.wide then w.wr64 t.1 l (t.2.eval fresh) else w.wr t.1 l ((t.2.eval fresh).setWidth 32)) w
            { w with regions := KMap.erase l w.regions
                     arStat := w.arStat.setD l (arStatus 0 0 repaired true 0) 0
                     arLog := w.arLog ++ [arStatus 0 0 repaired true 0] }))
        else if g.tries + 1 = 4 then .abort p (arStatus 0 0 false false 0x0D)
        else .again p { g with
          tries := g.tries + 1
          loads := (g.loads.zip fresh).map (fun x => { x.1 with cur := x.2 }) }

/-! An `ar.end` that waits keeps where the lanes go on whose regions it has aborted (they leave when every lane has ended) and,
for a contended line, its deadline and the lines it was granted: how many words, the words, and a lane and its abort PC each. -/

/-- The wait of `ar.end` at a contended line, between two tries or between two lanes. -/
def commitWait (at_ : Option (Nat × List DWord)) (out : List (Nat × DWord)) : Wait :=
  let ws := match at_ with | some x => x.2 | none => []
  ⟨.commit (at_.map Prod.fst), 0, false,
    [BitVec.ofNat 64 ws.length] ++ ws ++ out.flatMap (fun x => [BitVec.ofNat 64 x.1, x.2]), none⟩

/-- What an `ar.end` that goes on kept: its place at a contended line and the lanes that aborted. -/
def Env.commitKept (e : Env) : Option (Option (Nat × List DWord) × List (Nat × DWord)) :=
  match e.resume with
  | some ⟨.commit k, _, _, n :: ws, _⟩ =>
    some (k.map (fun l => (l, ws.take n.toNat)), unpackPairs (ws.drop n.toNat))
  | _ => none

/-- Lanes commit one at a time: each until its region ends, waits for a line or is between two tries (10 R253). A lane whose
commit aborts closes its region there. Between two lanes others may go on, as a free value says (06 R152, 22 R410). The result
is the package, the lanes that aborted with their abort PCs, and the wait. -/
def Env.commitAll (e : Env) (p : Pkg) (kept : Option (Nat × List DWord)) (out : List (Nat × DWord)) :
    List Nat → Pkg × List (Nat × DWord) × Option Wait
  | [] => (p, out, none)
  | l :: t =>
    match (e.warp p).bind (fun w => w.regions.find? l) with
    | none => e.commitAll p kept out t
    | some g =>
      let pause : Bool := Config.choice p.tick (64 + l) % 2 != 0 &&
        (e.warp p).any (fun w => t.any (fun k => (w.regions.find? k).isSome))
      let r : Pkg × List (Nat × DWord) × Option Wait :=
        match e.lockOf p g with
        | .error c =>
          (match e.commitStop p l c with
           | .abort p st => (e.modWarp p (fun w => w.closeRegion l g st), out ++ [(l, g.abortPc)], none)
           | _ => (p, out, some (commitWait none out)))
        | .ok (_, lock, _) =>
          if lock.any (fun n => p.homeDown (256 * n)) then (p, out, some (commitWait none out))
          else
            match e.turn p kept lock with
            | (p, some x) => (p, out, some (commitWait (some x) out))
            | (p, none) =>
              match e.tryCommit p l g with
              | .done p => (p, out, none)
              | .abort p st => (e.modWarp p (fun w => w.closeRegion l g st), out ++ [(l, g.abortPc)], none)
              | .wait => (p, out, some (commitWait none out))
              | .again p g =>
                (e.modWarp p (fun w => { w with regions := KMap.insert l g w.regions }), out, some (commitWait none out))
      match r with
      | (p, out, some x) => (p, out, some x)
      | (p, out, none) => if pause then (p, out, some (commitWait none out)) else e.commitAll p none out t

/-- The lanes that aborted, by abort PC, in order of their lowest lane. -/
def groupPcs (out : List (Nat × DWord)) : List (DWord × Mask) :=
  (sortBy (fun (a b : Nat × DWord) => decide (a.1 ≤ b.1)) out).foldl (fun gs x =>
    if gs.any (fun g => g.1 == x.2) then gs.map (fun g => if g.1 == x.2 then (g.1, g.2 ||| laneBit x.1) else g)
    else gs ++ [(x.2, laneBit x.1)]) []

/-- `ar.end` is over: the lanes that aborted go on at their abort PCs, the others after it (10 R254). -/
def Env.commitOver (e : Env) (p : Pkg) (out : List (Nat × DWord)) : Res :=
  match out.filter (fun x => e.exec.getLsbD x.1) with
  | [] => Res.ok p
  | mine =>
    let p := e.modWarp p (fun w =>
      ((w.modSplit e.is.sp (fun s => s.advance e.npc)).sendGroups e.is.sp (groupPcs mine) e.npc e.pc e.npc).stopLanes
        (if e.stepping then e.exec else 0))
    if (e.warp p).any (fun w => (w.split e.is.sp).pend.isSome) then ⟨(e.issued p).trapIf e.is, [], .stall⟩ else ⟨p, [], .own⟩

/-- `ar.end` (10 R253): lanes with open regions commit one at a time, ascending; the split blocks until each has
committed or aborted. At cluster scope or wider it first waits for the accesses of its threads in flight (06 R135). -/
def execArEnd (g : Guard) (sc : Scope) (s : State) : Host.Outcome State Fault Refusal :=
  perform { Form.w g [] with region := true, handler := false } (fun e p =>
    if e.commitKept.isNone && e.mustDrain p sc then Res.wait e.orig .mem
    else
      let p := if e.commitKept.isNone then e.releaseL1 p (wideScope sc) else p
      let k := e.commitKept.getD (none, [])
      match e.commitAll p k.1 k.2 e.lanes with
      | (p, _, some x) => ⟨p, [], .block x⟩
      | (p, out, none) => e.commitOver (e.acquireL1 p (wideScope sc)) out) s

/-! ## Abort and status (10 R254-R255) -/

/-- `ar.abort`: every lane with an open region aborts with reason EXPLICIT, a[7:0] in INDEX. -/
def execArAbort (g : Guard) (a : Operand) (s : State) : Host.Outcome State Fault Refusal :=
  perform { Form.w g [(.src .w32, a)] with region := true } (fun e p =>
    match e.warp p with
    | none => Res.ok p
    | some w =>
      ⟨p, (e.lanes.filter (fun l => (w.regions.find? l).isSome)).map (fun l =>
        LFault.abortOf l (arStatus 0 ((e.rd32 w a l).toNat % 256) false false 0x0A)), .seq⟩) s

/-- `ar.status` (10 R255). -/
def execArStatus (g : Guard) (d : Operand) (s : State) : Host.Outcome State Fault Refusal :=
  laneForm { Form.w g [(.dst .w32, d)] with region := true } d (fun _ w l => [w.arStat.getD l 0]) s

end Sys2Proof.Machine
end

