-- ==== Sys2Proof/Machine/Events.lean ====
section
/-!
DEFINITION. Named events (13_front_end.md R316-R318, 26_scheduling_engine_failures.md R468) and the `ev.*`
forms (12_isa_engines_system.md R300).
-/

namespace Sys2Proof.Machine

/-- Key of an event: ASID and name. -/
def evKey (asid name : Nat) : Nat := asid * 65536 + name

/-- An event; one that is not live has count 0 and no waiter. -/
def Pkg.event (p : Pkg) (k : Nat) : Event := p.events.getD k ⟨0, [], false, 0⟩

/-- Live events in the scheduler table. -/
def Pkg.evLive (p : Pkg) : Nat := (List.filter (fun e => !e.2.spilled) p.events).length

/-- Overflow entries that an event takes (13 R318): its count when it is spilled, and its waiters that have no
inline slot. -/
def Event.entries (e : Event) : Nat :=
  if e.spilled then (if e.count = 0 then 0 else 1) + e.waiters.length else e.waiters.length - 16

/-- Overflow entries in use by an address space. -/
def Pkg.evUsed (p : Pkg) (asid : Nat) : Nat :=
  p.events.foldl (fun n e => if e.1 / 65536 = asid then n + e.2.entries else n) 0

/-- The X-die that performs event operations (13 R316). -/
def Pkg.evDie (p : Pkg) : Nat := if (p.xreset.find? 0).isSome then 1 else 0

/-- The overflow services that are not asked for yet: those of the address spaces that have spilled events. -/
def Pkg.overflowDue (p : Pkg) : List Nat :=
  ((List.filter (fun e => e.2.spilled) p.events).map (fun e => e.1 / 65536)).dedup.filter (fun a =>
    !(p.fwq.getD p.evDie []).any (fun e => e.overflow && e.q == a))

/-- Where an entry of the scheduler table is free, the firmware is asked to serve the overflow of each address space that has
spilled events (26 R468). Requests that its event queue has no room for stay with the scheduler until it has (13 R315). -/
def Pkg.raiseOverflow (p : Pkg) : Pkg :=
  let fw := p.fwq.getD p.evDie []
  let new := (if p.evLive < 8192 then p.overflowDue else []).take (4096 - fw.length)
  if new = [] then p else { p with fwq := KMap.insert p.evDie (fw ++ new.map (fun a => ⟨a, true, 0, none⟩)) p.fwq }

/-- The event queue of the firmware pool has room for the services that are due; otherwise their source stalls (13
R315). -/
def Pkg.overflowRoom (p : Pkg) : Bool :=
  p.overflowDue.isEmpty || decide ((p.fwq.getD p.evDie []).length + p.overflowDue.length ≤ 4096)

/-- The overflow entries of an address space, in order of name (13 R318): the name, the count or a waiter's target, and
whether it is a waiter. -/
def Pkg.overflowEntries (p : Pkg) (asid : Nat) : List (Nat × Nat × Bool) :=
  p.events.flatMap (fun e =>
    if e.1 / 65536 = asid then
      let ws := (if e.2.spilled then e.2.waiters else e.2.waiters.drop 16).map (fun w => (e.1 % 65536, w.2, true))
      if e.2.spilled && e.2.count != 0 then (e.1 % 65536, e.2.count.toNat, false) :: ws else ws
    else [])

/-- The bytes of an overflow entry at an address; the identity of a waiter is free (log 26). -/
def overflowBytes (tick a : Nat) (x : Nat × Nat × Bool) : List Byte :=
  bytesOf 4 x.1 ++ bytesOf 4 x.2.1 ++
  (if x.2.2 then (List.range 8).map (fun i => Config.freeByte tick (a + 8 + i)) else List.replicate 8 0) ++ List.replicate 16 0

/-- Firmware stores bytes at a physical address; those outside package memory are lost. -/
def Pkg.storeBytes (p : Pkg) (pa : Nat) (bs : List Byte) : Pkg :=
  bs.zipIdx.foldl (fun p b => match p.local? (pa + b.2) with | some a => p.engineStore a [b.1] | none => p) p

/-- The overflow table of a context follows its entries, from the table's start on, when they are not those of `o` any
more; the places of entries that are gone become zero (13 R318, log 26). -/
def Pkg.writeOverflow (p o : Pkg) (ctx : Ctx) : Pkg :=
  let new := p.overflowEntries ctx.asid
  let old := o.overflowEntries ctx.asid
  if ctx.evovfN = 0 ∨ new = old then p
  else (List.range (max new.length old.length)).foldl (fun q j =>
    let a := ctx.evovf + 32 * j
    q.storeBytes a (match new[j]? with | some x => overflowBytes p.tick a x | none => List.replicate 32 0)) p

/-- The overflow tables of the queues' contexts follow their entries. -/
def Pkg.syncOverflow (p o : Pkg) : Pkg := o.queues.foldl (fun p k => p.writeOverflow o k.2.cx) p

/-- Keep an event after an operation: one that is not live any more is freed; one that newly is takes a place
in the scheduler table, or in the overflow table when that is full. None when there is no room there (13 R318), or none
for the services that a freed place asks for (R315). -/
def Pkg.evStore (p : Pkg) (ctx : Ctx) (k : Nat) (e : Event) : Option Pkg :=
  if e.count = 0 ∧ e.waiters = [] then
    match p.events.find? k with
    | none => some p
    | some o =>
      let q : Pkg := { p with events := KMap.erase k p.events }
      if o.spilled then some (q.writeOverflow p ctx)
      else if q.overflowRoom then some (q.raiseOverflow.writeOverflow p ctx)
      else none
  else
    let e : Event := match p.events.find? k with
      | some o => { e with spilled := o.spilled, born := o.born }
      | none => { e with spilled := decide (8192 ≤ p.evLive), born := p.nextId }
    let q : Pkg := { p with events := KMap.insert k e p.events, nextId := p.nextId + 1 }
    if q.evUsed ctx.asid ≤ ctx.evovfN ∨ q.evUsed ctx.asid ≤ p.evUsed ctx.asid then
      some (({ q with liveHigh := max q.liveHigh q.evLive } : Pkg).writeOverflow p ctx)
    else none

/-- An event changed: the saved blocks that wait on it can be restored (02 R58). -/
def Pkg.evChanged (p : Pkg) (ws : List (EvWaiter × Nat)) : Pkg :=
  ws.foldl (fun p w => match w.1 with
    | .saved l ix _ _ => p.modLaunch l (fun x => { x with saved := x.saved.modify ix (fun v => { v with waiting := false }) })
    | _ => p) p

/-- A waiter of an event goes on (13 R316). -/
def Pkg.evRelease (p : Pkg) (asid name : Nat) (w : EvWaiter) : Pkg :=
  let sel : WaitKind → Bool := fun k => match k with | .event a n _ => a == asid && n == name | _ => false
  match w with
  | .split c b w sp => p.modWarp c b w (fun x => x.modSplit sp (Split.release sel))
  | .packet q n => p.modQueue q (fun k => { k with packets := k.packets.modify n (fun x => { x with done := true }) })
  | .launch l _ => p.modLaunch l (fun x => { x with waited := p.ptime })
  | .saved l ix w sp => p.modLaunch l (fun x => { x with saved := x.saved.modify ix (fun v =>
      { v with block := { v.block with
          warps := v.block.warps.modify w (fun x => x.modSplit sp (Split.release sel)) } }) })

/-- Add to an event, saturating, and release the waiters whose target is reached; none when there is no room. -/
def Pkg.evSignal (p : Pkg) (ctx : Ctx) (name inc : Nat) : Option Pkg :=
  let k := evKey ctx.asid name
  let e := p.event k
  let n := min (e.count.toNat + inc) 0xFFFFFFFF
  let met := e.waiters.filter (fun w => decide (w.2 ≤ n))
  (p.evStore ctx k { e with count := BitVec.ofNat 32 n, waiters := e.waiters.filter (fun w => decide (n < w.2)) }).map
    (fun p => met.foldl (fun p w => p.evRelease ctx.asid name w.1) (if n = e.count.toNat then p else p.evChanged e.waiters))

/-- What registering a waiter answers. -/
inductive EvWait where
  | met
  | waits (p : Pkg)
  | full

/-- Wait for an event to reach a target. -/
def Pkg.evAwait (p : Pkg) (ctx : Ctx) (name target : Nat) (w : EvWaiter) : EvWait :=
  let k := evKey ctx.asid name
  let e := p.event k
  if target ≤ e.count.toNat then .met
  else
    match p.evStore ctx k { e with waiters := e.waiters ++ [(w, target)] } with
    | some p => .waits p
    | none => .full

/-- Withdraw waiters from every event (26 R468); counts do not change. -/
def Pkg.evWithdraw (p : Pkg) (sel : EvWaiter → Bool) : Pkg :=
  let es : KMap Event := p.events.map (fun e => (e.1, { e.2 with waiters := e.2.waiters.filter (fun w => !sel w.1) }))
  let q : Pkg := { p with events := List.filter (fun e => e.2.count != 0 || !e.2.waiters.isEmpty) es }
  q.raiseOverflow.syncOverflow p

/-- Some event holds a waiter that a test picks. -/
def Pkg.evWaiting (p : Pkg) (sel : EvWaiter → Bool) : Bool :=
  p.events.any (fun e => e.2.waiters.any (fun w => sel w.1))

/-! ## The instructions (12 R300) -/

/-- A form of major 0x71 that accepts SCV, with its least scope (07 R160). -/
def Form.scoped (f : Form) : Form := { f with scv := some 4 }

/-- The executing split waits for an entry of the event tables. -/
def Env.evStalled (e : Env) : Bool :=
  match e.resume with
  | some ⟨.event _ _ _, _, _, _ :: _, _⟩ => true
  | _ => false

/-- A form of major 0x71: one value of d and the event name, from the lowest lane; reserved name bits are
cause 0x01 (24 R442). -/
def evForm (f : Form) (d a : Operand) (body : Env → Pkg → Warp → Word → Nat → Res) (s : State) :
    Host.Outcome State Fault Refusal :=
  perform { f with once := true } (fun e p =>
    match e.warp p with
    | none => Res.ok p
    | some w =>
      let n := (e.rd32 w a e.lead).toNat
      if bits n 31 16 ≠ 0 then Res.fail p e.act 0x01 else body e p w (e.rd32 w d e.lead) n) s

/-- A release at device scope waits for the pod-remote accesses of the thread and writes L1 back (06 R135,
04 R91). -/
def Env.deviceRelease (e : Env) (p : Pkg) (k : Pkg → Res) : Res :=
  if e.outstanding p true true then Res.wait e.orig .mem else k (e.releaseL1 p true)

/-- `ev.signal`: waits while an entry that it needs is full. -/
def execEvSignal (g : Guard) (d a : Operand) (s : State) : Host.Outcome State Fault Refusal :=
  evForm (Form.wa g [(.src .w32, d), (.src .w32, a)]).scoped d a (fun e p _ v n =>
    e.deviceRelease p (fun p =>
      match p.evSignal (e.ctx p) n v.toNat with
      | some p => Res.ok p
      | none =>
        ⟨if e.evStalled then e.orig else { e.orig with evStalls := e.orig.evStalls + 1 }, [],
          .block ⟨.event (e.ctx p).asid n 0, 0, false, [0], none⟩⟩)) s

/-- `ev.wait`. -/
def execEvWait (g : Guard) (d a : Operand) (s : State) : Host.Outcome State Fault Refusal :=
  evForm (Form.wa g [(.src .w32, d), (.src .w32, a)]).scoped d a (fun e p _ v n =>
    let go : Res := Res.ok (e.acquireL1 p true)
    let enter : Res :=
      match p.evAwait (e.ctx p) n v.toNat (.split e.is.core e.is.slot e.is.w e.is.sp) with
      | .met => go
      | .waits p => ⟨p, [], .block (.of (.event (e.ctx p).asid n v.toNat))⟩
      | .full => ⟨if e.evStalled then p else { p with evStalls := p.evStalls + 1 }, [],
          .block ⟨.event (e.ctx p).asid n v.toNat, 0, false, [0], none⟩⟩
    match e.resume with
    | some ⟨.event x y z, m, r, [], k⟩ => if r then go else ⟨e.orig, [], .block ⟨.event x y z, m, r, [], k⟩⟩
    | _ => enter) s

/-- `ev.test`. -/
def execEvTest (g : Guard) (d a : Operand) (s : State) : Host.Outcome State Fault Refusal :=
  evForm (Form.wa g [(.upd .w32, d), (.src .w32, a)]).scoped d a (fun e p _ v n =>
    let ok := decide (v.toNat ≤ (p.event (evKey (e.ctx p).asid n)).count.toNat)
    e.writeAll (e.acquireL1 p ok) d (e.lanes.map (fun l => (l, [boolWord ok])))) s

/-- `ev.reset`: waiters keep waiting. -/
def execEvReset (g : Guard) (a : Operand) (s : State) : Host.Outcome State Fault Refusal :=
  evForm (Form.wa g [(.src .w32, a)]) .zero a (fun e p _ _ n =>
    let k := evKey (e.ctx p).asid n
    let old := p.event k
    match p.evStore (e.ctx p) k { old with count := 0 } with
    | some p => Res.ok (if old.count = 0 then p else p.evChanged old.waiters)
    | none => ⟨e.orig, [], .block ⟨.event (e.ctx p).asid n 0, 0, false, [0], none⟩⟩) s

end Sys2Proof.Machine
end

