-- ==== Sys2Proof/Machine/Queues.lean ====
section
/-!
DEFINITION. Binding and control of queues, and sending and receiving of records
(12_isa_engines_system.md R276-R286).
-/

namespace Sys2Proof.Machine

/-! ## Binding and control (12 R276-R277) -/

/-- The binding that a word gives for a class; fields that the class does not use are ignored. -/
def bindOf (cls : Nat) (v : Word) : Bind :=
  ⟨cls, if cls = 8 then bits v.toNat 15 13 else 0, if cls = 8 then bits v.toNat 12 8 else 0,
    if cls = 7 then bits v.toNat 7 0 else 0⟩

/-- A queue has calls outstanding or return records waiting. -/
def Warp.queueBusy (w : Warp) (q : Nat) : Bool :=
  w.calls.any (fun c => c.q == q || c.retq == some q) || decide (0 < w.retCount q)

/-- A form of a warp's queues that acts once and no handler may run (23 R427). -/
def queueForm (g : Guard) (ops : List (Pos × Operand)) : Form :=
  { Form.w g ops with once := true, handler := false }

/-- `qbind` (12 R276): a bound queue that is busy keeps its binding. -/
def execQbind (g : Guard) (q : QReg) (a : Operand) (c : Fin 9) (s : State) : Host.Outcome State Fault Refusal :=
  perform (queueForm g [(.src .w32, a)]) (fun e p =>
    match e.warp p with
    | none => Res.ok p
    | some w =>
      if (w.bind? q.val).isSome && w.queueBusy q.val then Res.fail p e.act 0x15
      else Res.ok (e.modWarp p (fun w =>
        { w with binds := KMap.insert q.val (bindOf c.val (e.rd32 w a e.lead)) w.binds }))) s

/-- `qunbind` (12 R277). -/
def execQunbind (g : Guard) (q : QReg) (s : State) : Host.Outcome State Fault Refusal :=
  perform (queueForm g []) (fun e p =>
    match e.warp p with
    | none => Res.ok p
    | some w =>
      if (w.bind? q.val).isNone || w.queueBusy q.val then Res.fail p e.act 0x15
      else Res.ok (e.modWarp p (fun w => { w with binds := KMap.erase q.val w.binds }))) s

/-- `qdepth` (12 R277): each lane's own return records. -/
def execQdepth (g : Guard) (d : Operand) (q : QReg) (s : State) : Host.Outcome State Fault Refusal :=
  perform { queueForm g [(.dst .w32, d)] with once := false } (fun e p =>
    match e.warp p with
    | none => Res.ok p
    | some w =>
      if (w.bind? q.val).isNone then Res.fail p e.act 0x15
      else e.writeAll p d (e.lanes.map (fun l => (l, [BitVec.ofNat 32 (w.retsOf q.val l).length])))) s

/-- Records that one `qsend` could place now (12 R277, R286). -/
def Pkg.queueSpace (p : Pkg) (i : Issuer) (w : Warp) (q : Nat) (b : Bind) : Nat :=
  if b.cls = 8 then
    match p.warp? i.core i.slot b.peer with
    | none => 0
    | some pw =>
      let flying := (List.filter (fun e => e.2.cls == 8 && e.2.slot == i.slot &&
        ((p.warp? i.core i.slot e.2.w).bind (fun x => x.bind? e.2.q)) == some b) (p.core i.core).calls).length
      64 - (pw.retCount b.peerq + flying)
  else min (64 - ((p.core i.core).unitQueue b.cls).length) (w.retSpace q)

/-- `qspace` (12 R277). -/
def execQspace (g : Guard) (d : Operand) (q : QReg) (s : State) : Host.Outcome State Fault Refusal :=
  perform (queueForm g [(.dst .w32, d)]) (fun e p =>
    match e.warp p with
    | none => Res.ok p
    | some w =>
      match w.bind? q.val with
      | none => Res.fail p e.act 0x15
      | some b =>
        let n := p.queueSpace e.is w q.val b
        e.writeAll p d (e.lanes.map (fun l => (l, [BitVec.ofNat 32 n])))) s

/-- `qdrain` (12 R277, R285): the faults of calls accepted through the queue are taken here. -/
def execQdrain (g : Guard) (q : QReg) (s : State) : Host.Outcome State Fault Refusal :=
  perform (queueForm g []) (fun e p =>
    match e.warp p with
    | none => Res.ok p
    | some w =>
      if (w.bind? q.val).isNone then Res.fail p e.act 0x15
      else if w.calls.any (fun c => c.q == q.val) then Res.wait e.orig (.drain q.val)
      else
        let x := w.takeCalls (fun f => f.q == q.val)
        e.chargeCalls (e.modWarp p (fun _ => x.2)) x.1) s

/-! ## Sending (12 R280, R283, R286) -/

/-- Where a `qsend` stands after some lanes: the package, accepted lanes, faults, and whether a lane had to wait. -/
structure Sends where
  pkg : Pkg
  sent : Mask
  faults : List LFault
  stuck : Bool

/-- Set or clear NBP of a lane, where the form is non-blocking (07 R160). -/
def Env.nbSet (e : Env) (p : Pkg) (l : Nat) (b : Bool) : Pkg :=
  match e.md.bind PfxMod.nb with
  | some k => e.modWarp p (fun w => w.setPred k l b)
  | none => p

/-- The form is non-blocking. -/
def Env.nonBlocking (e : Env) : Bool := (e.md.bind PfxMod.nb).isSome

/-- One lane of a `qsend`: the header checks, the register block, and acceptance; under NB a lane above one that is not
accepted is checked and not accepted (12 R283). -/
def Env.sendLane (e : Env) (x : Sends) (op q : Nat) (a : Operand) (l : Nat) : Sends :=
  match e.warp x.pkg with
  | none => x
  | some w =>
    let fault (c : Nat) : Sends := { x with faults := x.faults ++ [LFault.of l c] }
    let base := match a with | .reg n => n.val | _ => 0
    match w.bind? q with
    | none => fault 0x15
    | some _ =>
      let len := bits (w.rd base l).toNat 15 8
      if len < 2 ∨ 16 < len ∨ bits (w.rd (base + 1) l).toNat 15 4 ≠ 0 then fault 0x16
      else if min w.alloc 112 < base + len then fault 0x05
      else if (List.range len).any (fun i => w.rpoison.contains (32 * (base + i) + l)) then fault 0x1C
      else
        match x.pkg.acceptCall e.is op l q (e.rdWords w len a l) with
        | .ok p =>
          if x.stuck then { x with pkg := e.nbSet x.pkg l false }
          else { x with pkg := e.nbSet p l true, sent := x.sent ||| laneBit l }
        | .fault c => fault c
        | .wait => { x with stuck := true, pkg := e.nbSet x.pkg l false }

/-- `qsend` (12 R280): lanes are accepted in ascending order; a lane that finds no room waits, or ends a
non-blocking send, which accepts nothing while class 3 is full (06 R141). -/
def execQsend (g : Guard) (a : Operand) (q : QReg) (s : State) : Host.Outcome State Fault Refusal :=
  perform { Form.w g [(.call, a)] with nb := true, handler := false } (fun e p =>
    match e.warp p with
    | none => Res.ok p
    | some w =>
      let resumed : Option (Mask × Nat) := match e.resume with
        | some ⟨.queue _, m, _, op :: _, _⟩ => some (m, op.toNat)
        | _ => none
      let start : Mask × Nat := resumed.getD (0, p.nextId)
      if resumed.isNone && !e.nonBlocking && e.classFull w 3 then Res.wait e.orig (.count 3)
      else
        let p := if resumed.isNone then { p with nextId := p.nextId + 1 } else p
        let x := (e.lanes.filter (fun l => !start.1.getLsbD l)).foldl
          (fun x l => if x.stuck && !e.nonBlocking then x else e.sendLane x start.2 q.val a l)
          (⟨p, start.1, [], e.nonBlocking && w.sendsFull⟩ : Sends)
        if !e.nonBlocking && (x.stuck || (x.sent != 0 && w.sendsFull)) then
          ⟨x.pkg, x.faults, .block ⟨.queue q.val, x.sent, false, [BitVec.ofNat 64 start.2], none⟩⟩
        else ⟨if x.sent = 0 then x.pkg else e.modWarp x.pkg (fun w => w.countSend start.2), x.faults, .seq⟩) s

/-! ## Receiving (12 R281, R283) -/

/-- Pop a lane's oldest return record whole: its sixteen words, the warp after, and the fault it carries. -/
def Warp.popRec (w : Warp) (q l : Nat) : Option (List Word × Warp × Option Charge) :=
  match w.retsOf q l with
  | [] => none
  | r :: t =>
    let x := w.takeCall r.call
    some ((List.range 16).map (fun i => r.words.getD i 0),
      { x.2 with rets := w.rets.setD (32 * q + l) t [] }, x.1)

/-- `qrecv` (12 R281): a popped record with a fault faults its lane after it is written. -/
def execQrecv (g : Guard) (d : Operand) (q : QReg) (s : State) : Host.Outcome State Fault Refusal :=
  perform { Form.w g [(.blockDst 16, d)] with nb := true, handler := false } (fun e p =>
    match e.warp p with
    | none => Res.ok p
    | some w =>
      if (w.bind? q.val).isNone then Res.fail p e.act 0x15
      else
        let got := e.lanes.filter (fun l => !(w.retsOf q.val l).isEmpty)
        if !e.nonBlocking && got.length < e.lanes.length then Res.wait e.orig (.queue q.val)
        else
          let r := got.foldl (fun (x : Warp × List LFault) l =>
            match x.1.popRec q.val l with
            | none => x
            | some (ws, w', f) =>
              let base := match d with | .reg n => n.val | _ => 0
              (w'.wrList base l ws, match f with
                | some c => x.2 ++ [LFault.of l c.cause c.addr c.aux]
                | none => x.2)) (w, [])
          let p := e.modWarp p (fun _ => r.1)
          let p := e.lanes.foldl (fun p l =>
            if r.2.any (fun f => f.lane == l) then p else e.nbSet p l (got.contains l)) p
          ⟨p, r.2, .seq⟩) s

end Sys2Proof.Machine
end

