-- ==== Sys2Proof/Machine/System.lean ====
section
/-!
DEFINITION. Traversal stacks, traps, launching and feeding, the register pool, trace marks, clocks and versions
(12_isa_engines_system.md R297-R305, 02_execution_model.md R39-R46).
-/

namespace Sys2Proof.Machine

/-! ## Traversal stacks (12 R297-R298) -/

/-- `stk.init`: base a, capacity d. -/
def execStkInit (g : Guard) (d a : Operand) (s : State) : Host.Outcome State Fault Refusal :=
  perform { Form.w g [(.src .w32, d), (.src .w32, a)] with once := true } (fun e p =>
    match e.warp p, e.block p with
    | some w, some b =>
      let base := e.rd32 w a e.lead
      let cap := (e.rd32 w d e.lead).toNat
      if bits base.toNat 31 21 ≠ 0 ∨ base.toNat % 256 ≠ 0 ∨ cap < 1 ∨ 64 < cap ∨ b.spSize < base.toNat + cap * 256 then
        Res.fail p e.act 0x0B
      else Res.ok (e.modWarp p (fun w =>
        { w with stkBase := base, stkCap := cap, stkDepth := [], stkTop := [], stkOvf := 0 }))
    | _, _ => Res.ok p) s

/-- Offset of entry k of a lane. -/
def Warp.stkAddr (w : Warp) (k l : Nat) : Nat := w.stkBase.toNat + (k * 32 + l) * 8

/-- The entry of a lane's stack that a push writes, or that a read meets. -/
def Warp.stkEntry (w : Warp) (push : Bool) (l : Nat) : Nat :=
  w.stkAddr (if push then w.stkTop.getD l 0 else (w.stkTop.getD l 0 + w.stkCap - 1) % w.stkCap) l

/-- A form that acts on each lane's stack, writing the stack for a push; with CAP 0 it is cause 0x0B. It waits where a lane's
access to a stash window must. -/
def stkForm (push : Bool) (f : Form) (lane : Env → Acts → Warp → Nat → Acts) (s : State) : Host.Outcome State Fault Refusal :=
  perform f (fun e p =>
    match e.warp p with
    | none => Res.ok p
    | some w =>
      if w.stkCap = 0 then Res.fail p e.act 0x0B
      else if e.lanes.any (fun l => e.spBusy p (BitVec.ofNat 32 (w.stkEntry push l)) 8 push) then Res.wait e.orig .mem
      else
        let x := e.lanes.foldl (fun (x : Acts) l =>
          match e.warp x.pkg with | some w => lane e x w l | none => x) (Acts.start p)
        ⟨x.pkg, x.faults, .seq⟩) s

/-- `stk.push`: a full stack loses its bottom entry. -/
def execStkPush (g : Guard) (a : Operand) (s : State) : Host.Outcome State Fault Refusal :=
  stkForm true (Form.w g [(.src .w64, a)]) (fun e x w l =>
    let top := w.stkTop.getD l 0
    let dep := w.stkDepth.getD l 0
    match x.pkg.spWrite e.is.core e.is.slot (w.stkAddr top l) (bytesOf 8 (e.rd64 w a l).toNat) with
    | .error c => x.fault (LFault.of l c (BitVec.ofNat 64 (w.stkAddr top l)))
    | .ok p => x.did (e.modWarp p (fun w => { w with
        stkTop := w.stkTop.setD l ((top + 1) % w.stkCap) 0
        stkDepth := if dep < w.stkCap then w.stkDepth.setD l (dep + 1) 0 else w.stkDepth
        stkOvf := if dep < w.stkCap then w.stkOvf else w.stkOvf ||| laneBit l })) []) s

/-- Read a lane's top entry; `pop` removes it. -/
def stkRead (pop : Bool) (g : Guard) (d : Operand) (s : State) : Host.Outcome State Fault Refusal :=
  stkForm false (Form.w g [(.dst .w64, d)]) (fun e x w l =>
    let dep := w.stkDepth.getD l 0
    let top := (w.stkTop.getD l 0 + w.stkCap - 1) % w.stkCap
    if dep = 0 then x.did (e.modWarp x.pkg (fun w => match w.regOf d l with
      | some r => w.wr64 r l 0xFFFFFFFFFFFFFFFF | none => w)) []
    else
      match x.pkg.spRead e.is.core e.is.slot (w.stkAddr top l) 8 with
      | .error c => x.fault (LFault.of l c (BitVec.ofNat 64 (w.stkAddr top l)))
      | .ok (p, bs) => x.did (e.modWarp p (fun w =>
          let w := match w.regOf d l with | some r => w.wr64 r l (BitVec.ofNat 64 (ofBytes bs)) | none => w
          if pop then { w with stkTop := w.stkTop.setD l top 0, stkDepth := w.stkDepth.setD l (dep - 1) 0 } else w)) []) s

/-- `stk.pop`. -/
def execStkPop (g : Guard) (d : Operand) (s : State) : Host.Outcome State Fault Refusal := stkRead true g d s

/-- `stk.top`. -/
def execStkTop (g : Guard) (d : Operand) (s : State) : Host.Outcome State Fault Refusal := stkRead false g d s

/-- `stk.depth`: OVF in bit 31. -/
def execStkDepth (g : Guard) (d : Operand) (s : State) : Host.Outcome State Fault Refusal :=
  perform (Form.w g [(.dst .w32, d)]) (fun e p =>
    match e.warp p with
    | none => Res.ok p
    | some w =>
      if w.stkCap = 0 then Res.fail p e.act 0x0B
      else e.writeAll p d (e.lanes.map (fun l =>
        (l, [BitVec.ofNat 32 (w.stkDepth.getD l 0 + (if w.stkOvf.getLsbD l then 2 ^ 31 else 0))])))) s

/-! ## Traps (12 R299, 23 R413-R414) -/

/-- `trap` (a queue code is cause 0x01, 24 R439): every lane faults with its operand in ADDR and the function code in AUX. -/
def execTrap (g : Guard) (a : Operand) (c : BitVec 8) (s : State) : Host.Outcome State Fault Refusal :=
  perform { Form.wa g [(.src .w32, a)] with once := true } (fun e p =>
    match e.warp p with
    | none => Res.ok p
    | some w => ⟨p, e.lanes.map (fun l => LFault.of l 0x1F ((e.rd32 w a l).setWidth 64) (c.setWidth 16)), .seq⟩) s

/-- `brkpt`. -/
def execBrkpt (g : Guard) (s : State) : Host.Outcome State Fault Refusal :=
  perform (Form.wa g []) (fun e p => Res.fail p e.act 0x20 0 0xFF) s

/-! ## Launching (12 R301, 02 R39-R40) -/

/-- Records in the pending-launch store (02 R40). -/
def Pkg.storeUsed (p : Pkg) : Nat := (List.filter (fun e => e.2.stored) p.launches).length

/-- Register the event waits of a launch that have no place yet; those that are met need none. -/
def Pkg.registerWaits (p : Pkg) (id : Nat) : Pkg :=
  match p.launch? id with
  | none => p
  | some l =>
    l.waitsTodo.foldl (fun p i =>
      let done (p : Pkg) : Pkg := p.modLaunch id (fun l => { l with waitsTodo := l.waitsTodo.filter (· != i) })
      match recWait l.record i with
      | none => done p
      | some (n, t) =>
        match p.evAwait l.ctx n t (.launch id i) with
        | .met => done p
        | .waits p => done p
        | .full => p) p

/-- A launch asks for its event waits for the first time: those that find no room are counted (26 R469). -/
def Pkg.enterWaits (p : Pkg) (id : Nat) : Pkg :=
  let p := p.registerWaits id
  match p.launch? id with
  | some l => { p with evStalls := p.evStalls + BitVec.ofNat 32 l.waitsTodo.length }
  | none => p

/-- Every event wait of a launch is met. -/
def Pkg.waitsMet (p : Pkg) (id : Nat) (l : Launch) : Bool :=
  l.waitsTodo.isEmpty && !p.evWaiting (fun w => match w with | .launch x _ => x == id | _ => false)

/-- The valid event waits of a record. -/
def recWaits (r : List Byte) : List Nat := (List.range 4).filter (fun i => (recWait r i).isSome)

/-- A child launch enters the pending-launch store (02 R39-R40). -/
def Pkg.enterChild (p : Pkg) (parent : Nat) (pl : Launch) (r : List Byte) : Pkg :=
  let id := p.nextLaunch
  let l : Launch := { Launch.fresh r pl.q none (some parent) (pl.depth + 1) (p.queue pl.q).prio pl.ctx p.ptime with
    stored := true, waitsTodo := recWaits r }
  let p : Pkg := { p with nextLaunch := id + 1, launches := KMap.insert id l p.launches }
  { p with plHigh := max p.plHigh p.storeUsed }.enterWaits id

/-- What reading bytes of global memory as a load of a lane meets. -/
inductive LaneRead where
  | ok (p : Pkg) (bs : List Byte)
  | fail (p : Pkg) (cause : Nat) (aux : BitVec 16)
  | wait (p : Pkg)

/-- Read n bytes, aligned to n, as a load of a lane (12 R301-R302). -/
def Env.readAs (e : Env) (p : Pkg) (va : DWord) (n : Nat) : LaneRead :=
  match e.reach p va n .load with
  | .error 0 => .wait p
  | .error c => .fail p c 0
  | .ok (p, x) =>
    match x.loc with
    | none =>
      (match p.remote (splitMaster e.is.core e.is.slot e.is.w e.is.sp) x.pa n with
       | .value p bs => .ok p bs
       | .fail p c => .fail p c (engineAux c x)
       | .wait p => .wait p)
    | some _ =>
      match p.plainPa x with
      | none => .fail p 0x09 0
      | some a =>
        if p.barred (dieOfCore e.is.core) a then .wait p
        else if (List.range ((n + 63) / 64)).any (fun i => p.poisoned (a + 64 * i)) then .fail p 0x1C 0
        else
          (List.range ((n + 63) / 64)).foldl (fun (r : LaneRead) i =>
            match r with
            | .ok p bs =>
              let y := p.load e.is.core (x.policy .default) (a + 64 * i) (min 64 (n - 64 * i))
              .ok y.1 (bs ++ y.2)
            | r => r) (.ok p [])

/-- Where a `launch` stands after some lanes: those that are done, whether accepted or (under NB) turned away, and the lane
that it waits for, with whether that lane's full store was counted. -/
structure Launches where
  pkg : Pkg
  taken : Mask
  faults : List LFault
  stuck : Option (Nat × Bool)

/-- One lane of a `launch`: its record is checked also where the store is full. `counted` is the lane whose full store
was counted before. A watchpoint looks at the read of the record (17 R391). -/
def Env.launchLane (e : Env) (w : Warp) (b : Block) (pl : Launch) (a : Operand) (counted : Option Nat)
    (x : Launches) (l : Nat) : Launches :=
  match x.stuck with
  | some _ => x
  | none =>
    let va := e.rd64 w a l
    let fault (p : Pkg) (c : Nat) (aux : BitVec 16) : Launches := { x with pkg := p, faults := x.faults ++ [LFault.of l c va aux] }
    if 10 ≤ pl.depth then fault x.pkg 0x19 0
    else
      match e.readAs x.pkg va 128 with
      | .wait q => { x with stuck := some (l, counted == some l), pkg := x.pkg.waiting q }
      | .fail p c aux => fault p c aux
      | .ok p r =>
        match recordFault r with
        | some _ => fault p 0x19 0
        | none =>
          if 4096 ≤ p.storeUsed then
            let p := if counted = some l then p else { p with plFull := p.plFull + 1 }
            if e.nonBlocking then
              { x with pkg := e.nbSet p l false, taken := x.taken ||| laneBit l, faults := x.faults ++ e.watch p l va 128 true false }
            else { x with pkg := p, stuck := some (l, true) }
          else
            { x with
              pkg := e.nbSet (p.enterChild b.launch pl r) l true, taken := x.taken ||| laneBit l
              faults := x.faults ++ e.watch p l va 128 true false }

/-- `launch` (12 R301): each accepted launch is a release at device scope. Under NB it still waits for the pod-remote
accesses that the release completes, and for a record that lies in another package (log 96, DESIGN CHOICE). -/
def execLaunch (g : Guard) (a : Operand) (s : State) : Host.Outcome State Fault Refusal :=
  perform { Form.wa g [(.addr, a)] with nb := true, handler := false } (fun e p =>
    match e.warp p, e.block p with
    | some w, some b =>
      match p.launch? b.launch with
      | none => Res.ok p
      | some pl =>
        let resumed : Option (Mask × Option Nat) := match e.resume with
          | some ⟨.store, m, _, [l, k], _⟩ => some (m, if k = 0 then none else some l.toNat)
          | _ => none
        let start := resumed.getD (0, none)
        if resumed.isNone && e.outstanding p true true then Res.wait e.orig .store
        else
          let p := e.releaseL1 p true
          let x := (e.lanes.filter (fun l => !start.1.getLsbD l)).foldl
            (fun x l => e.launchLane w b pl a start.2 x l) (⟨p, start.1, [], none⟩ : Launches)
          match x.stuck with
          | some (l, k) =>
            ⟨x.pkg, x.faults, .block ⟨.store, x.taken, false, [BitVec.ofNat 64 l, if k then 1 else 0], none⟩⟩
          | none => ⟨x.pkg, x.faults, .seq⟩
    | _, _ => Res.ok p) s

/-! ## Work feeds (02 R46, 12 R302, 26 R472) -/

/-- A launch is a running worker with a work feed. -/
def Launch.worker (l : Launch) : Bool :=
  recFeed l.record && (l.st == .placing || l.st == .resident || l.st == .saved)

/-- The running worker of a context whose ring has a base. -/
def Pkg.workerAt (p : Pkg) (asid : Nat) (ring : DWord) : Option (Nat × Launch) :=
  List.find? (fun e => e.2.worker && e.2.ctx.asid == asid && recNat e.2.record 0x70 8 == ring.toNat) p.launches

/-- The address of the n-th record of a worker's ring. -/
def Launch.slotVa (l : Launch) (n : Nat) : DWord :=
  BitVec.ofNat 64 (recNat l.record 0x70 8 + 64 * (n % recFeedSize l.record))

/-- The ring of a worker is full. -/
def Launch.ringFull (l : Launch) : Bool := decide (recFeedSize l.record ≤ l.feedTail - l.feedHead)

/-- Append a record to a worker's ring; the front end writes it in the worker's context. -/
def Pkg.feedAppend (p : Pkg) (id : Nat) (l : Launch) (r : List Byte) : Piece :=
  match p.engineWrite (opMaster xdie id) l.ctx 0 false (l.slotVa l.feedTail) r with
  | .ok p _ => .ok (p.modLaunch id (fun l => { l with feedTail := l.feedTail + 1 })) []
  | .fail p c => .fail p c
  | .wait p => .wait p

/-- `feed`: the worker is looked up first, then the record is read as a load of the warp. -/
def execFeed (g : Guard) (a : Operand) (s : State) : Host.Outcome State Fault Refusal :=
  perform { Form.wa g [(.src .w128, a)] with once := true, nb := true, handler := false } (fun e p =>
    match e.warp p with
    | none => Res.ok p
    | some w =>
      let ws := e.rdWords w 4 a e.lead
      let ring := pair (ws.getD 0 0) (ws.getD 1 0)
      let va := pair (ws.getD 2 0) (ws.getD 3 0)
      let all (p : Pkg) (b : Bool) : Pkg := e.lanes.foldl (fun p l => e.nbSet p l b) p
      match p.workerAt (e.ctx p).asid ring with
      | none => Res.fail p e.act 0x1A
      | some (id, l) =>
        match e.readAs p va 64 with
        | .wait q => Res.wait (e.orig.waiting q) .work
        | .fail p c aux => Res.fail p e.act c va aux
        | .ok p r =>
          let seen := e.lanes.flatMap (fun k => e.watch p k va 64 true false)
          if l.ringFull then
            if e.nonBlocking then ⟨all p false, seen, .seq⟩ else Res.wait e.orig .work
          else
            match p.feedAppend id l r with
            | .ok p _ => ⟨all p true, seen, .seq⟩
            | .fail p c => Res.fail p e.act c.cause c.addr c.aux
            | .wait q => Res.wait (e.orig.waiting q) .work) s

/-- The words that 64 bytes spell. -/
def recordWords (bs : List Byte) : List Word :=
  (List.range 16).map (fun i => BitVec.ofNat 32 (recNat bs (4 * i) 4))

/-- A non-blocking `wpop` has a record to come and has not issued: it stays READY, its cycle counts as blocked in `wpop`. -/
def Env.notYet (e : Env) (p : Pkg) : Res :=
  ⟨(e.modWarp p (fun w => w.modSplit e.is.sp (fun s => { s with wait := some (Wait.of .work) }))).modCore e.is.core
    (fun k => k.giveSlot (portOf e.is.w (((e.warp p).map Warp.slot).getD 0)) 1), [], .stall⟩

/-- `wpop`: records go to warps in the order in which they asked, also while the ring cannot be read; a non-blocking one
for which there is a record issues once those before it have theirs. -/
def execWpop (g : Guard) (d : Operand) (s : State) : Host.Outcome State Fault Refusal :=
  perform { Form.w g [(.blockDst 16, d)] with once := true, nb := true, handler := false } (fun e p =>
    match e.block p with
    | none => Res.ok p
    | some b =>
      match p.launch? b.launch with
      | none => Res.ok p
      | some l =>
        let me : Nat × Nat × Nat × Nat := (e.is.core, e.is.slot, e.is.w, e.is.sp)
        let all (p : Pkg) (b : Bool) : Pkg := e.lanes.foldl (fun p l => e.nbSet p l b) p
        let later (p : Pkg) : Res :=
          let p := p.modLaunch b.launch (fun l =>
            { l with feedWaiters := if l.feedWaiters.contains me then l.feedWaiters else l.feedWaiters ++ [me] })
          if e.nonBlocking then e.notYet p else Res.wait p .work
        let ahead := match l.feedWaiters.findIdx? (· == me) with
          | some k => k
          | none => l.feedWaiters.length
        if !recFeed l.record then Res.fail p e.act 0x1A
        else if l.feedTail - l.feedHead ≤ ahead ∧ e.nonBlocking then Res.ok (all p false)
        else if ahead ≠ 0 ∨ l.feedTail - l.feedHead ≤ ahead then later e.orig
        else
          let out (p : Pkg) : Pkg := p.modLaunch b.launch (fun l => { l with feedWaiters := l.feedWaiters.filter (· != me) })
          match p.engineRead (masterOf xdie (3, splitMaster e.is.core e.is.slot e.is.w e.is.sp)) b.ctx (l.slotVa l.feedHead) 64 true with
          | .wait q => later (e.orig.waiting q)
          | .fail p c => Res.fail (out p) e.act c.cause c.addr c.aux
          | .ok p bs =>
            let p := (out p).modLaunch b.launch (fun l => { l with feedHead := l.feedHead + 1 })
            let base := match d with | .reg n => n.val | _ => 0
            let p := e.modWarp p (fun w => forLanes e.act (fun k w => w.wrList base k (recordWords bs)) w)
            Res.ok (all p true)) s

/-! ## The register pool (02 R43, 12 R303) -/

/-- Serve the claim at the head of a core's queue when the pool holds its registers. -/
def Pkg.serveClaim (p : Pkg) (c : Nat) : Pkg :=
  match (p.core c).claims with
  | [] => p
  | q :: t =>
    if 128 * q.units ≤ (p.core c).poolFree then
      let p := p.modCore c (fun k => { k with claims := t, poolUsed := k.poolUsed + 128 * q.units })
      p.modWarp c q.slot q.w (fun w => { w with alloc := w.alloc + 4 * q.units }.modSplit q.sp
        (Split.release (fun k => match k with | .claim _ => true | _ => false)))
    else p

/-- Serve claims in arrival order while they fit. -/
def Pkg.serveClaims (p : Pkg) (c : Nat) : Pkg :=
  (List.range (p.core c).claims.length).foldl (fun p _ => p.serveClaim c) p

/-- The acted lanes are exactly the live lanes of the warp (02 R43). -/
def Env.wholeWarp (e : Env) (w : Warp) : Bool := e.act == w.live

/-- Registers at or above an allocation cease to exist. -/
def Warp.shrink (w : Warp) (n : Nat) : Warp :=
  { w with
    alloc := n
    regs := List.filter (fun e => decide (e.1 < 32 * n)) w.regs
    rpoison := w.rpoison.filter (fun r => decide (r < 32 * n)) }

/-- `pool.give`. -/
def execPoolGive (g : Guard) (u : BitVec 6) (s : State) : Host.Outcome State Fault Refusal :=
  perform { Form.w g [] with once := true, handler := false } (fun e p =>
    match e.warp p with
    | none => Res.ok p
    | some w =>
      let n := w.alloc - 4 * u.toNat
      if !e.wholeWarp w ∨ w.alloc < 4 + 4 * u.toNat then Res.fail p e.act 0x18
      else if w.busy.any (fun r => decide (32 * n ≤ r)) then Res.wait e.orig .mem
      else
        let p := e.modWarp p (fun w => w.shrink n)
        let p := p.modCore e.is.core (fun k => { k with poolUsed := k.poolUsed - 128 * u.toNat })
        Res.ok (p.serveClaims e.is.core)) s

/-- `pool.take`: a claim that waits keeps its place; one that a halt withdrew enters again at the tail (23 R422). Where the claim
is served by this very try, the instruction is over. -/
def execPoolTake (g : Guard) (u : BitVec 6) (s : State) : Host.Outcome State Fault Refusal :=
  perform { Form.w g [] with once := true, handler := false } (fun e p =>
    match e.warp p with
    | none => Res.ok p
    | some w =>
      let n := u.toNat
      let mine (q : Claim) : Bool := q.slot == e.is.slot && q.w == e.is.w && q.sp == e.is.sp
      let queued (p : Pkg) : Pkg := p.modCore e.is.core (fun k =>
        if k.claims.any mine then k else { k with claims := k.claims ++ [⟨e.is.slot, e.is.w, e.is.sp, n⟩] })
      match e.resume with
      | some ⟨.claim _, _, r, _, _⟩ =>
        if r then Res.ok p
        else
          let q := (queued e.orig).serveClaims e.is.core
          if (q.core e.is.core).claims.any mine then Res.wait q (.claim n) else Res.ok q
      | _ =>
        if !e.wholeWarp w then Res.fail p e.act 0x17
        else if 256 < w.alloc + 4 * n then Res.fail p e.act 0x05
        else if carveRegs (p.core e.is.core).carve < 128 * n then Res.fail p e.act 0x17
        else if (p.core e.is.core).claims.isEmpty && decide (128 * n ≤ (p.core e.is.core).poolFree) then
          Res.ok ((e.modWarp p (fun w => { w with alloc := w.alloc + 4 * n })).modCore e.is.core
            (fun k => { k with poolUsed := k.poolUsed + 128 * n }))
        else Res.wait (queued e.orig) (.claim n)) s

/-! ## Trace marks and clocks (12 R304, 17 R388) -/

/-- `trace.mark`: one MARK record where the launch's flags enable marks. -/
def execTraceMark (g : Guard) (a : Operand) (s : State) : Host.Outcome State Fault Refusal :=
  perform { Form.wa g [(.src .w32, a)] with once := true } (fun e p =>
    match e.warp p, e.block p with
    | some w, some b => Res.ok (p.emit e.is.core e.is.slot 0 0x01 e.is.sp (recWarp e.is.w) e.exec
        (e.rd32 w a e.lead) (p.origPc b e.is.w e.pc).1)
    | _, _ => Res.ok p) s

/-- `clk`: the cycle counter of the core's die. -/
def execClk (g : Guard) (d : Operand) (s : State) : Host.Outcome State Fault Refusal :=
  perform (Form.wa g [(.dst .w64, d)]) (fun e p =>
    let v := (p.die (dieOfCore e.is.core)).cyc
    e.writeAll p d (e.lanes.map (fun l => (l, wordsOf .w64 v)))) s

/-- `ptime`. -/
def execPtime (g : Guard) (d : Operand) (s : State) : Host.Outcome State Fault Refusal :=
  perform (Form.wa g [(.dst .w64, d)]) (fun e p =>
    e.writeAll p d (e.lanes.map (fun l => (l, wordsOf .w64 p.ptime)))) s

/-! ## Versions (12 R305, 05 R122-R125) -/

/-- `ver.set`: the value of the highest-numbered lane. -/
def execVerSet (g : Guard) (a : Operand) (s : State) : Host.Outcome State Fault Refusal :=
  perform { Form.wa g [(.src .w32, a)] with once := true } (fun e p =>
    match e.warp p with
    | none => Res.ok p
    | some w => Res.ok (e.modWarp p (fun w' => { w' with wver := e.rd32 w a e.last }))) s

/-- `ver.get`. -/
def execVerGet (g : Guard) (d : Operand) (s : State) : Host.Outcome State Fault Refusal :=
  laneForm { Form.wa g [(.dst .w32, d)] with once := true } d (fun _ w _ => [w.wver]) s

/-- The region that a version form names: reserved bits are cause 0x01, a closed region 0x0C. -/
def Env.regionOf (e : Env) (p : Pkg) (w : Warp) (a : Operand) : Except Nat (Nat × VRegion) :=
  let n := (e.rd32 w a e.lead).toNat
  if n / 16 ≠ 0 then .error 0x01
  else
    match p.regions.find? (regionKey (e.ctx p).asid n) with
    | some r => .ok (regionKey (e.ctx p).asid n, r)
    | none => .error 0x0C

/-- A version form fails: AUX of cause 0x0C is the region number (23 R414). -/
def Env.verFail (e : Env) (p : Pkg) (w : Warp) (a : Operand) (c : Nat) : Res :=
  Res.fail p e.act c 0 (if c = 0x0C then BitVec.ofNat 16 ((e.rd32 w a e.lead).toNat % 16) else 0)

/-- Ask the snapshot engine for an action: class 6. -/
def Env.askSnap (e : Env) (p : Pkg) (k action : Nat) (v : Word) : Pkg :=
  let op := p.nextId
  let p : Pkg := { p with
    nextId := op + 1
    snaps := p.snaps ++ [⟨k, action, v, false, e.is.core, e.is.slot, e.is.w, op⟩] }
  e.modWarp p (fun w => w.beginOp 6 op false)

/-- `ver.pub`. -/
def execVerPub (g : Guard) (d a : Operand) (s : State) : Host.Outcome State Fault Refusal :=
  perform { Form.wa g [(.src .w32, d), (.src .w32, a)] with once := true } (fun e p =>
    match e.warp p with
    | none => Res.ok p
    | some w =>
      match e.regionOf p w a with
      | .error c => e.verFail p w a c
      | .ok (k, _) =>
        let v := e.rd32 w d e.lead
        if v = 0xFFFFFFFF then e.verFail p w a 0x0C
        else if e.classFull w 6 then Res.wait e.orig (.count 6)
        else e.deviceRelease p (fun p => Res.ok (e.askSnap p k 1 v))) s

/-- `ver.rack`: a floor above P, or any while nothing is published, is cause 0x0C unless it raises nothing. -/
def execVerRack (g : Guard) (d a : Operand) (s : State) : Host.Outcome State Fault Refusal :=
  perform { Form.wa g [(.src .w32, d), (.src .w32, a)] with once := true } (fun e p =>
    match e.warp p with
    | none => Res.ok p
    | some w =>
      match e.regionOf p w a with
      | .error c => e.verFail p w a c
      | .ok (k, r) =>
        let v := e.rd32 w d e.lead
        if r.floor < v ∧ (!r.pvalid ∨ r.pub < v) then e.verFail p w a 0x0C
        else if e.classFull w 6 then Res.wait e.orig (.count 6)
        else Res.ok (e.askSnap p k 2 v)) s

/-- `ver.query`: P, or all ones before the first publication, and F; an acquire at device scope. -/
def execVerQuery (g : Guard) (d a : Operand) (s : State) : Host.Outcome State Fault Refusal :=
  perform { Form.wa g [(.dst .w64, d), (.src .w32, a)] with once := true } (fun e p =>
    match e.warp p with
    | none => Res.ok p
    | some w =>
      match e.regionOf p w a with
      | .error c => e.verFail p w a c
      | .ok (_, r) =>
        e.writeAll (e.acquireL1 p true) d (e.lanes.map (fun l =>
          (l, [if r.pvalid then r.pub else 0xFFFFFFFF, r.floor])))) s

end Sys2Proof.Machine
end

