-- ==== Sys2Proof/Machine/Service.lean ====
section
/-!
DEFINITION. What completes or wakes an instruction from outside its warp: completed accesses, page walks, back-offs,
copies-on-write, sleeps, the overflow service, TLB invalidation, and the traffic of the UALink ports
(04_memory_hierarchy.md R97, R109-R110, 16_links_and_host.md R370-R371, 25_memory_failures.md R445, R459,
26_scheduling_engine_failures.md R468, 27_containment_recovery.md R488).
-/

namespace Sys2Proof.Machine

/-! ## Completions and wake-ups -/

/-- ACCESS_COMPLETE (06 R141): the oldest counted operation of class 0, 1 or 5 that was performed leaves its counter. -/
def execAccessComplete (core slot w cls : Nat) (s : State) : Host.Outcome State Fault Refusal :=
  if cls ≠ 0 ∧ cls ≠ 1 ∧ cls ≠ 5 then .next s
  else .next { s with pkg := s.pkg.modWarp core slot w (fun x => (x.settleOne cls).forget cls) }

/-- PAGE_WALK_DONE: the oldest walk of a die is over, for every access that waits for its page: its translation is filled and the
prefetch goes on; one that fails is dropped (25 R445, R451). -/
def execPageWalkDone (die : Nat) (s : State) : Host.Outcome State Fault Refusal :=
  match (s.pkg.die die).walks with
  | [] => .next s
  | x :: t =>
    let same (y : Walk) : Bool := y.ctx.asid == x.ctx.asid && y.va.toNat / 4096 == x.va.toNat / 4096
    let p := s.pkg.modDie die (fun k => { k with walks := t.filter (fun y => !same y) })
    .next { s with pkg := (x :: t.filter same).foldl Pkg.tryPrefetch p }

/-- COPY_ON_WRITE (05 R118): the oldest request of a page that waits is copied, unless a request of the snapshot engine for
its region comes first (R127). The page stays locked until the store that asked is performed. -/
def execCopyOnWrite (s : State) : Host.Outcome State Fault Refusal :=
  let p := s.pkg
  match p.cows.findIdx? (fun q => !q.copied && p.cowFirst q) with
  | none => .next s
  | some i =>
    if p.dies.any (fun d => d.2.inReset || d.2.rebuild) then .next s
    else
      match p.cows[i]? with
      | none => .next s
      | some q => .next { s with pkg := { p.copyOnWrite q with cows := p.cows.set i { q with copied := true } } }

/-- SLEEP_EXPIRE (08 R205): `ptime` has reached the deadline of a sleeping split. -/
def execSleepExpire (core slot w sp : Nat) (s : State) : Host.Outcome State Fault Refusal :=
  let due : WaitKind → Bool := fun k => match k with | .sleep t => decide (t.toNat ≤ s.pkg.ptime.toNat) | _ => false
  .next { s with pkg := s.pkg.modWarp core slot w (fun x => x.modSplit sp (Split.release due)) }

/-- PTIME_LO_READ (01 R12): the high word is latched. -/
def execPtimeLoRead (s : State) : Host.Outcome State Fault Refusal :=
  .next { s with mgmt := { s.mgmt with
    ptimeHi := half s.pkg.ptime 1, answer := some (bytesOf 4 (half s.pkg.ptime 0).toNat) } }

/-! ## Events -/

/-- The event that the query registers name (27 R489). -/
def State.queried (s : State) : Event := s.pkg.event (evKey s.mgmt.evqAsid.toNat s.mgmt.evqName.toNat)

/-- EVENT_QUERY (27 R489): a read of EVQ_COUNT, which changes nothing. -/
def execEventQuery (s : State) : Host.Outcome State Fault Refusal :=
  .next { s with mgmt := { s.mgmt with answer := some (bytesOf 4 s.queried.count.toNat) } }

/-- EVENT_BLOCK_CLEAR (26 R469). -/
def execEventBlockClear (s : State) : Host.Outcome State Fault Refusal :=
  .next { s with pkg := { s.pkg with evStalls := 0, liveHigh := 0 } }

/-- The oldest spilled event of an address space moves into the scheduler table, when that has room. -/
def Pkg.unspill (p : Pkg) (asid : Nat) : Pkg :=
  let es := List.filter (fun e => e.2.spilled && e.1 / 65536 == asid) p.events
  match es.foldl (fun (a : Option (Nat × Event)) e => match a with
      | some b => if e.2.born < b.2.born then some e else some b
      | none => some e) none with
  | none => p
  | some (k, e) =>
    if 8192 ≤ p.evLive then p
    else
      let q : Pkg := { p with events := KMap.insert k { e with spilled := false } p.events }
      { q with liveHigh := max q.liveHigh q.evLive }

/-- Firmware serves the overflow of an address space (26 R468): spilled events move back, oldest first, while there is
room. -/
def Pkg.serveOverflow (p : Pkg) (asid : Nat) : Pkg :=
  ((List.filter (fun e => e.2.spilled && e.1 / 65536 == asid) p.events).foldl (fun p _ => p.unspill asid) p).syncOverflow p

/-- Drop the first entry of a firmware event queue that a test picks; the services that wait for room enter (13 R315). -/
def Pkg.dropFw (p : Pkg) (x : Nat) (sel : FwEntry → Bool) : Pkg :=
  ({ p with fwq := p.fwq.modify x (fun l => l.eraseP sel) } : Pkg).raiseOverflow

/-- The firmware pool of an X-die works: its image verified and the X-die is not in reset (16 R380). -/
def State.fwAlive (s : State) (x : Nat) : Bool := !s.mgmt.dead.contains x && (s.pkg.xreset.find? x).isNone

/-! ## TLB invalidation (04 R109-R110) -/

/-- A translation is matched by an invalidation. -/
def tlbMatched (r : Nat × Nat × DWord) (e : TlbEntry) : Bool :=
  match r.1 with
  | 0 => true
  | 1 => !e.glob && e.asid == r.2.1
  | 2 => e.covers r.2.1 r.2.2.toNat (r.2.2.toNat + 1)
  | _ => e.glob

/-- An access of an address space through an address may have used a matched translation. -/
def tlbMayMatch (r : Nat × Nat × DWord) (asid va : Nat) : Bool :=
  match r.1 with
  | 1 => asid == r.2.1
  | 2 => va / 2 ^ 30 == r.2.2.toNat / 2 ^ 30
  | _ => true

/-- TLB_INVALIDATE: a write of the control word; GO starts an invalidation unless one is in progress. -/
def State.tlbWrite (s : State) (v : Word) : State :=
  let m := { s.mgmt with tlbKind := bits v.toNat 17 16, tlbAsid := bits v.toNat 15 0 }
  { s with mgmt := { m with tlbRun := match m.tlbRun with
      | some r => some r
      | none => if bit v.toNat 31 then some (m.tlbKind, m.tlbAsid, m.tlbVa) else none } }

/-- TLB_INVALIDATE. -/
def execTlbInvalidate (v : Word) (s : State) : Host.Outcome State Fault Refusal := .next (s.tlbWrite v)

/-- Pages of a stash window that an invalidation covers are written back and dropped; the next touch retranslates. -/
def Pkg.stashForgetPages (p : Pkg) (r : Nat × Nat × DWord) : Pkg :=
  let all := p.cores.flatMap (fun e => e.2.blocks.flatMap (fun f => f.2.stash.map (fun g => (e.1, f.1, g.1, g.2))))
  all.foldl (fun p x =>
    let s : Stash := x.2.2.2
    let hit (pg : Nat) : Bool := (s.ents.find? pg).any (tlbMatched r)
    let p := s.filled.foldl (fun p sec =>
      if hit (sec / 64) then (p.stashWriteBack x.1 x.2.1 x.2.2.1 sec).stashDrop x.1 x.2.1 x.2.2.1 sec else p) p
    p.modBlock x.1 x.2.1 (fun bl => { bl with stash := bl.stash.modify x.2.2.1 (fun (s : Stash) =>
      { s with
        pages := List.filter (fun e => !hit e.1) s.pages
        ents := List.filter (fun e => !tlbMatched r e.2) s.ents }) })) p

/-- The package once an invalidation is complete (04 R110): walks that could produce a matched translation have
finished, no TLB holds one, and stash windows gave up covered pages. -/
def Pkg.tlbFlush (p : Pkg) (r : Nat × Nat × DWord) : Pkg :=
  let ws := p.dies.flatMap (fun d => d.2.walks)
  let p : Pkg := { p with dies := (p.dies.map (fun d => (d.1, { d.2 with walks := [] }))) }
  ((ws.foldl Pkg.tryPrefetch p).tlbDrop (tlbMatched r)).stashForgetPages r

/-- A pod-remote access of the package used a translation that may be matched; an engine's may be any. -/
def Pkg.tlbBusyPods (p : Pkg) (r : Nat × Nat × DWord) : Bool :=
  p.pods.any (fun x => tlbMayMatch r x.2.asid x.2.addr.toNat) ||
  p.sent.any (fun x => decide (p.ptime.toNat < x.2.1.toNat + 20000))

/-- TLB_INVALIDATE_DONE: every access that used a matched translation has completed and BUSY returns to 0. -/
def execTlbInvalidateDone (s : State) : Host.Outcome State Fault Refusal :=
  match s.mgmt.tlbRun with
  | none => .next s
  | some r =>
    if s.pkg.tlbBusyPods r then .next s
    else .next { s with pkg := s.pkg.tlbFlush r, mgmt := { s.mgmt with tlbRun := none } }

/-! ## Pod-remote responses (16 R371, 25 R453, R459) -/

/-- Fault one lane of a warp where it now stands, in a split or on the divergence stack, for an instruction that it issued
earlier (23 R416): a region it has opened since aborts. A lane that no entry holds, because it has exited, is recorded with the
lowest entry in use (log 37). -/
def Warp.chargeLane (w : Warp) (l : Nat) (pd : Pend) : Warp :=
  let m := laneBit l
  let w := match w.regions.find? l with
    | some r => w.closeRegion l r (arStatus pd.cause 0 false false 0x09)
    | none => w
  if w.splits.any (fun s => s.mask &&& m != 0) || w.dstack.any (fun e => e.mask &&& m != 0) then w.charge m (fun _ _ => pd)
  else
    match w.splits.findIdx? (fun (s : Split) => s.st != .free) with
    | some k => w.modSplit k (fun s => { s with pend := joinPend s.pend (some { pd with lanes := m }) })
    | none => w

/-- The wait class of a pod-remote access. -/
def Pod.cls (x : Pod) : Nat := if x.kind = 0 ∨ (x.kind = 2 ∧ x.dst.isSome) then 0 else 1

/-- A pod-remote access is over: what it awaited is free, its operation is done with its last lane. -/
def Pkg.endPod (p : Pkg) (id : Nat) (x : Pod) (f : Warp → Warp) : Pkg :=
  let p : Pkg := { p with pods := KMap.erase id p.pods }
  p.modWarp x.core x.slot x.w (fun w =>
    let w := f { w with busy := w.busy.filter (fun r => !x.awaited.contains r) }
    if p.pods.any (fun y => y.2.core == x.core && y.2.slot == x.slot && y.2.w == x.w && y.2.op == x.op) then w
    else w.doneOp x.cls x.op [])

/-- A pod-remote access ends in a fault of its lane; of a warp that has exited, it falls on the exit. -/
def Pkg.failPod (p : Pkg) (id : Nat) (x : Pod) (cause : Nat) : Pkg :=
  let aux : BitVec 16 := if cause = 0x27 then BitVec.ofNat 16 (x.pa / 2 ^ 46) else 0
  let p := p.countTf (dieOfCore x.core) x.asid [LFault.of x.lane cause x.addr]
  let p := p.endPod id x (fun w =>
    if w.live = 0 then w else w.chargeLane x.lane ⟨cause, x.pc, x.skip, x.addr, laneBit x.lane, aux, false⟩)
  match p.warp? x.core x.slot x.w with
  | some w =>
    if w.live = 0 then p.chargeExit x.core x.slot x.w [⟨cause, x.addr, aux⟩] else p.trapParked x.core x.slot x.w
  | none => p

/-- The words that a response writes: a load's by its width, an atomic's old value. -/
def Pod.words (x : Pod) (data : List Byte) : List Word :=
  match x.aop with
  | some o => oldWords o (ofBytes (data.take (atomBytes o)))
  | none => loadWords x.width (data.take (widthBytes x.width))

/-- Bytes that a pod-remote access touches. -/
def Pod.bytes (x : Pod) : Nat := match x.aop with | some o => atomBytes o | none => widthBytes x.width

/-- An access that was performed touched a watched byte: its lane faults (17 R391). -/
def Pkg.watchPod (p : Pkg) (x : Pod) : Pkg :=
  let hit := (x.kind != 1 && p.watched x.core x.asid x.addr x.bytes false) ||
    (x.kind != 0 && p.watched x.core x.asid x.addr x.bytes true)
  match p.warp? x.core x.slot x.w with
  | some w =>
    if !hit then p
    else if w.live = 0 then p.chargeExit x.core x.slot x.w [⟨0x21, x.addr, 0⟩]
    else (p.modWarp x.core x.slot x.w (fun w => w.chargeLane x.lane ⟨0x21, x.pc, x.skip, x.addr, laneBit x.lane, 0, false⟩)).trapParked
      x.core x.slot x.w
  | none => p

/-- A checked `ldv` that brought its value sets its predicate (05 R120). -/
def Pod.passed (x : Pod) (w : Warp) : Warp := match x.chk with | some k => w.setPred k x.lane true | none => w

/-- A response that brings its value: a register takes it, or the queue that an `ldv` names, once there is room (12 R282). A
record that the word completes counts in class 3, once for the instruction. -/
def Pkg.answerPod (p : Pkg) (id : Nat) (x : Pod) (data : List Byte) : Pkg :=
  match x.queue with
  | none => (p.endPod id x (fun w => x.passed (match x.dst with
      | some (d, _) => w.wrList d x.lane (x.words data)
      | none => w))).watchPod x
  | some q =>
    let v := (x.words data).getD 0 0
    let i : Issuer := ⟨x.core, x.slot, x.w, 0⟩
    let fills := (p.warp? x.core x.slot x.w).any (fun w => w.fills q x.lane v)
    let counted := (p.warp? x.core x.slot x.w).any (fun w => w.ops.any (fun o => o.cls == 3 && o.id == x.op))
    if fills && !counted && (p.warp? x.core x.slot x.w).any Warp.sendsFull then p
    else
      match p.pushQ i x.op x.lane q v with
      | .ok p => (p.endPod id x (fun w => x.passed (if fills && !counted then w.countSend x.op else w))).watchPod x
      | .fault c => (p.dropSend i x.lane q).failPod id x c
      | .wait => p

/-- POD_RESPONSE: a response arrives for an access that was sent, within 20 µs and while the ports carry traffic (16 R369,
R371). -/
def execPodResponse (id : Nat) (kind : PodReply) (data : List Byte) (s : State) : Host.Outcome State Fault Refusal :=
  match s.pkg.pods.find? id with
  | none => .next s
  | some x =>
    if x.port.isNone || !s.pkg.link.linken || decide (x.sent.toNat + 20000 ≤ s.pkg.ptime.toNat) then .next s
    else
      match kind with
      | .done => .next { s with pkg := s.pkg.answerPod id x data }
      | .error => .next { s with pkg := s.pkg.countTimeout.failPod id x 0x27 }
      | .denied => .next { s with pkg := s.pkg.failPod id x 0x0A }
      | .poison => .next { s with pkg := (s.pkg.podPoison (dieOfCore x.core) x.pa).failPod id x 0x1C }

/-- POD_TIMEOUT: 20 µs without a response; a line whose request was sent is held. -/
def execPodTimeout (id : Nat) (s : State) : Host.Outcome State Fault Refusal :=
  match s.pkg.pods.find? id with
  | none => .next s
  | some x =>
    if s.pkg.ptime.toNat < x.sent.toNat + 20000 then .next s
    else
      .next { s with pkg := (s.pkg.silence x.pa x.port).failPod id x 0x27 }

/-- POD_LATE_RESPONSE: the response to one of the requests that hold a line is discarded; the line goes on after the last. -/
def execPodLateResponse (line : Nat) (s : State) : Host.Outcome State Fault Refusal :=
  .next { s with pkg := { s.pkg with
    heldLines := s.pkg.heldLines.setD line ((s.pkg.heldLines.getD line []).drop 1) [] } }

/-- PORTUP of a port changes (16 R370): a request that left on it holds its line until it has fallen and risen (25 R459). -/
def Pkg.setPort (p : Pkg) (k : Nat) (up : Bool) : Pkg :=
  let bitK : Word := BitVec.twoPow 32 k
  { p with
    link := { p.link with portUp := if up then p.link.portUp ||| bitK else p.link.portUp &&& ~~~bitK }
    heldLines :=
      if up then List.filter (fun e => !e.2.isEmpty) (p.heldLines.map (fun e => (e.1, e.2.filter (fun x => x != (k, true)))))
      else p.heldLines.map (fun e => (e.1, e.2.map (fun x => if x.1 = k then (k, true) else x))) }

/-- PORT_STATE_CHANGE; the ports of an X-die in reset stay down (27 R500). -/
def execPortStateChange (k : Nat) (up : Bool) (s : State) : Host.Outcome State Fault Refusal :=
  if 16 ≤ k ∨ (up ∧ (s.pkg.xreset.find? (k / 8)).isSome) then .next s
  else .next { s with pkg := s.pkg.setPort k up }

/-! ## Inbound requests (27 R484-R488, 04 R99) -/

/-- An enabled window covers a request, and permits it. -/
def Mgmt.permits (m : Mgmt) (r : Inbound) : Bool :=
  !m.check || m.windows.any (fun w =>
    let base := w.2.1.toNat / 4096 * 4096
    bit w.2.2.toNat 31 && decide (base ≤ r.addr ∧ r.addr + r.len ≤ base + 4096 * bits w.2.2.toNat 29 0) &&
      (!(r.wr || r.atom.isSome) || bit w.2.2.toNat 30))

/-- The 64-byte sectors that a request touches. -/
def Inbound.sectors (r : Inbound) : List Nat :=
  (List.range ((r.addr + r.len + 63) / 64 - r.addr / 64)).map (fun i => r.addr / 64 + i)

/-- The 256-byte lines that a request touches. -/
def Inbound.lines (r : Inbound) : List Nat := (r.sectors.map (fun x => x / 4)).dedup

/-- An inbound atomic at its home die: the memory after and the old value (04 R99). -/
def Pkg.inboundAtom (p : Pkg) (r : Inbound) (o : AtomOp) : Pkg × List Byte :=
  let n := atomBytes o
  let old := p.readNat r.addr n
  let x := ofBytes (r.data.take n)
  let y := ofBytes ((r.data.drop n).take n)
  ((p.writeMem r.addr (bytesOf n (atomNew o old x y))).dirWrite (homeDie r.addr) r.addr, bytesOf n old)

/-- A requester that is no split. -/
def noSplit : Nat × Nat × Nat × Nat := (384, 0, 0, 0)

/-- Perform an inbound request of package `src` at the home die: the answer, or none for an error response; no answer yet
while the home die does not serve, a write waits for a die that does not yield the line yet, or an atomic for a contended line
(04 R97), which it then does in `inWait`. -/
def Pkg.inbound (p : Pkg) (src : Nat) (r : Inbound) : Pkg × Option (Option (List Byte)) :=
  if memSize < r.addr + r.len then (p, some none)
  else if r.lines.any (fun l => p.homeDown (256 * l)) then (p, none)
  else if r.sectors.any p.poison.contains then (p, some none)
  else
    let wr := r.wr || r.atom.isSome
    let clean (p : Pkg) : Pkg := r.lines.foldl (fun p l => p.recallStash l wr) p
    let own (p : Pkg) : Pkg := { p with dir := r.lines.foldl (fun m l => KMap.erase l m) p.dir }
    match r.atom with
    | some o =>
      let d := homeDie r.addr
      let line := r.addr / 256
      let wait (p : Pkg) (t : DWord) : Pkg := { p with inWait := p.inWait ++ [(src, r, t)] }
      if p.inWait.any (fun x => x.1 == src && x.2.1 == r) then (p, none)
      else
        match p.contended d line with
        | some t => (wait (p.double d line) t, none)
        | none =>
          if p.batchElse d line then (wait p p.ptime, none)
          else
            let x := (clean ((p.noWait d line).startBatch d line noSplit)).inboundAtom r o
            (x.1, some (some x.2))
    | none =>
      if r.wr && r.lines.any (p.batchElse 4) then (p, none)
      else if r.wr then ((own (clean p)).writeMem r.addr (r.data.take r.len), some (some []))
      else (clean p, some (some ((clean p).readMem r.addr r.len)))

/-- Answer a request of a package that is not frozen: a violation freezes the requester. -/
def State.serveInbound (s : State) (src : Nat) (r : Inbound) : State :=
  if !s.mgmt.permits r then
    let s := { s with pkg := { s.pkg with shunned := s.pkg.shunned.filter (· != src) } }
    let s := s.freezeMaster ⟨5, 2, src, 0, s.pkg.link.pkgid * 2 ^ 46 + r.addr⟩ (some r)
    { s with mgmt := { s.mgmt with answer := none } }
  else if s.pkg.shunned.contains src then { s with mgmt := { s.mgmt with answer := none } }
  else
    match s.pkg.inbound src r with
    | (p, none) => { s with pkg := p }
    | (p, some a) => { s with pkg := p, mgmt := { s.mgmt with answer := a } }

/-! ## The end of a back-off (04 R97) -/

/-- The deadline that a waiting split keeps for its line. -/
def Wait.deadline (x : Wait) : DWord :=
  match x.kind with
  | .commit _ => x.data.getD 1 0
  | _ => x.data.getD 0 0

/-- A split that waits for a line has reached its deadline. -/
def Pkg.dueWaiter (p : Pkg) (x : Nat × Nat × Nat × Nat) : Bool :=
  ((p.warp? x.1 x.2.1 x.2.2.1).bind (fun w => (w.split x.2.2.2).wait)).any (fun w => decide (w.deadline.toNat ≤ p.ptime.toNat))

/-- An inbound atomic that waited is performed and answered, also where its requester was frozen since (27 R485). -/
def State.inboundTurn (s : State) (x : Nat × Inbound × DWord) : State :=
  let s : State := { s with pkg := { s.pkg with inWait := s.pkg.inWait.filter (· != x) } }
  match x.2.1.atom with
  | none => s
  | some o =>
    let r := (s.pkg.recallStash (x.2.1.addr / 256) true).inboundAtom x.2.1 o
    { s with pkg := r.1, mgmt := { s.mgmt with answer := some r.2 } }

/-- ATOMIC_BACKOFF_EXPIRE: the interval of a line has elapsed for a request of a die, and the line is granted to the die in M;
the atomics that are queued there, up to 32, are performed before the die yields it. Those of other packages go first; those
of splits issue again as the line's batch. -/
def execAtomicBackoffExpire (die line : Nat) (s : State) : Host.Outcome State Fault Refusal :=
  let p := s.pkg
  let ins := p.inWait.filter (fun x => x.2.1.addr / 256 == line && homeDie x.2.1.addr == die)
  let on := p.waitersOn die line
  let b := p.backAt die line
  let due := on.any p.dueWaiter || ins.any (fun x => b.ins || decide (x.2.2.toNat ≤ p.ptime.toNat))
  if !due || p.batchElse die line || p.homeDown (256 * line) then .next s
  else
    let q := (p.recallStash line true).dirWrite die (256 * line)
    let q := q.setBack die line { b with batch := if p.batchLeft die line then b.batch else on.take (32 - ins.length), ins := false }
    .next ((ins.take 32).foldl State.inboundTurn { s with pkg := q })

/-- UALINK_INBOUND_REQUEST: a request of at most 256 bytes arrives on a port that carries traffic. -/
def execUalinkInboundRequest (src addr len : Nat) (wr : Bool) (atom : Option AtomOp) (data : List Byte) (s : State) :
    Host.Outcome State Fault Refusal :=
  let odd : Bool := match atom with | some o => len != atomBytes o | none => false
  if !s.pkg.link.linken ∨ s.pkg.link.portUp = 0 ∨ 256 < len ∨ len = 0 ∨ 576 ≤ src ∨ src = s.pkg.link.pkgid ∨
      (wr ∧ data.length < len) ∨ odd then .next s
  else if s.pkg.isFrozen 5 src then .next { s with mgmt := { s.mgmt with answer := none } }
  else .next (s.serveInbound src ⟨addr, len, wr, atom, data⟩)

end Sys2Proof.Machine
end

