-- ==== Sys2Proof/Machine/Packets.lean ====
section
/-!
DEFINITION. The command front ends: fetching, starting and completing packets, the firmware pool, and what each type of
packet does but SNAPSHOT and TRACE (13_front_end.md R306-R324, 02_execution_model.md R46,
26_scheduling_engine_failures.md R461-R465, R472).
-/

namespace Sys2Proof.Machine

/-! ## Fields of a packet (13 R307, R324) -/

/-- TYPE of a packet. -/
def Packet.type (x : Packet) : Nat := bits (recNat x.bytes 0 1) 6 0

/-- DEP of a packet's bytes. -/
def packetDep (bs : List Byte) : Bool := bit (recNat bs 1 1) 0

/-- The words of the payload that hold fields, with the bits that are listed: the others are reserved. -/
def payloadMask (type o : Nat) : Nat :=
  let all := 2 ^ 32 - 1
  match type with
  | 2 => if o = 0x10 ∨ o = 0x14 ∨ 0x40 ≤ o then all else 0
  | 3 | 4 => if o = 0x10 then 0xFFFF else if o = 0x14 then all else 0
  | 5 => if o ≤ 0x24 then all else 0
  | 6 => if o = 0x10 then 0x30F else if o = 0x14 then all else 0
  | 8 => if o = 0x10 then 3 else if o = 0x18 ∨ o = 0x1C ∨ o = 0x20 then all else 0
  | _ => 0

/-- The first faulty field of a payload: a reserved bit of a word with fields is that word's, another byte its own. -/
def payloadFault (type : Nat) (bs : List Byte) : Option Nat :=
  (List.range 28).findSome? (fun k =>
    let o := 0x10 + 4 * k
    let m := payloadMask type o
    if recNat bs o 4 &&& (2 ^ 32 - 1 - m) = 0 then none
    else if m ≠ 0 then some o
    else ((List.range 4).find? (fun i => recNat bs (o + i) 1 ≠ 0)).map (fun i => o + i))

/-- A packet that is over: its status and DETAIL (13 R323, 26 R461). -/
def Packet.finished (status : Nat) (detail : Nat) (x : Packet) : Packet :=
  { x with performed := true, done := true, status := status, detail := BitVec.ofNat 32 detail }

/-- Change a packet. -/
def Pkg.modPacket (p : Pkg) (q n : Nat) (f : Packet → Packet) : Pkg :=
  p.modQueue q (fun k => { k with packets := k.packets.modify n f })

/-! ## Starting (13 R313-R314) -/

/-- The X-die that serves a queue (13 R306). -/
def queueDie (q : Nat) : Nat := q / 512

/-- A started packet holds back every later one (13 R313): a WAIT that is not released, a FEED that waits for room. -/
def Packet.holdsBack (x : Packet) : Bool :=
  !x.done && (match x.type with
    | 4 => true
    | 2 => !x.performed
    | _ => false)

/-- The next packet of a queue can start, but for the event waits of a LAUNCH. -/
def Pkg.mayStart (p : Pkg) (q : Nat) : Bool :=
  let k := p.queue q
  k.enable && k.st == .active && !k.ringFault && !p.hold && (p.xreset.find? (queueDie q)).isNone &&
  decide (k.packets.length < 64) && !k.packets.any (fun x => x.2.holdsBack) &&
  (match k.fetched with
   | none => false
   | some bs =>
     let t := bits (recNat bs 0 1) 6 0
     if t = 3 ∨ t = 6 ∨ t = 7 ∨ packetDep bs then k.packets.isEmpty else true)

/-- The event waits of the next packet, when it is a LAUNCH. -/
def Queue.nextWaits (k : Queue) : List Nat :=
  match k.fetched with
  | some bs => if bits (recNat bs 0 1) 6 0 = 1 then recWaits bs else []
  | none => []

/-- The next packet of a queue can start (13 R313): a LAUNCH once every valid event wait of it is met. -/
def Pkg.startable (p : Pkg) (q : Nat) : Bool :=
  p.mayStart q && ((p.queue q).nextWaits.isEmpty ||
    (match (p.queue q).pre.bind (fun id => (p.launch? id).map (fun l => (id, l))) with
     | some x => p.waitsMet x.1 x.2
     | none => false))

/-- A LAUNCH packet that only its event waits keep from starting asks for them (13 R313, R325). -/
def Pkg.armNext (p : Pkg) (q : Nat) : Pkg :=
  let k := p.queue q
  match k.fetched with
  | none => p
  | some bs =>
    if k.pre.isSome ∨ k.nextWaits.isEmpty ∨ !p.mayStart q then p
    else
      let id := p.nextLaunch
      let l : Launch := { Launch.fresh bs q (some k.nextNo) none 0 (max k.prio (recPrio bs)) k.cx p.ptime with
        waitsTodo := recWaits bs }
      let p : Pkg := { p with nextLaunch := id + 1, launches := KMap.insert id l p.launches }
      (p.modQueue q (fun k => { k with pre := some id })).enterWaits id

/-- The next packet of a queue is given up: its launch leaves with its event waits. -/
def Pkg.dropNext (p : Pkg) (q : Nat) : Pkg :=
  let p := match (p.queue q).pre with
    | none => p
    | some id =>
      let p := p.evWithdraw (fun w => match w with | .launch x _ => x == id | _ => false)
      { p with launches := KMap.erase id p.launches }
  p.modQueue q (fun k => { k with fetched := none, pre := none })

/-- Keep the time from which a packet can start (13 R314): for a LAUNCH with event waits, that of the last of them. -/
def Pkg.markStartable (p : Pkg) (q : Nat) : Pkg :=
  let p := p.armNext q
  let go := p.startable q
  let t := match (p.queue q).pre.bind p.launch? with | some l => l.waited | none => p.ptime
  p.modQueue q (fun k => { k with since := if go then some (k.since.getD t) else none })

/-- The linker is at work on a pair of a queue: a read of its examination waits (14 R333). -/
def Pkg.examining (p : Pkg) (q : Nat) : Bool :=
  p.launches.any (fun e => e.2.q == q && e.2.linking && e.2.st == .waitev && !e.2.ending)

/-- The block belongs to a launch of a queue. -/
def Pkg.ofQueue (p : Pkg) (q : Nat) (b : Block) : Bool := (p.launch? b.launch).any (fun l => l.q == q)

/-- A pre-emption begins (13 R326); the time that the blocks of the queue spend saving is not idle (26 R478). -/
def Pkg.beginSave (p : Pkg) (q : Nat) : Pkg :=
  let blocks (k : Core) : Core := { k with blocks := (k.blocks.map (fun b => (b.1, if p.ofQueue q b.2 then b.2.pause p.ptime else b.2))) }
  ({ p with cores := (p.cores.map (fun k => (k.1, blocks k.2))) } : Pkg).modQueue q
    (fun k => { k with st := .preempting, since := none, preemptDue := false })

/-- A reset or a pre-emption that arrived during an examination takes effect once that has decided (14 R342). -/
def Pkg.settleDue (p : Pkg) (q : Nat) : Pkg :=
  let k := p.queue q
  if p.examining q then p
  else if k.resetDue && (k.st == .active || k.st == .halted) then p.modQueue q (fun k => { k with st := .resetting, since := none })
  else if k.preemptDue && k.st == .active then p.beginSave q
  else p

/-- A queue that was disabled, or whose ring failed, is idle once its packets are over (13 R310, 26 R464). -/
def Pkg.settleQueue (p : Pkg) (q : Nat) : Pkg :=
  let p := p.settleDue q
  let k := p.queue q
  if k.packets.isEmpty ∧ (!k.enable ∨ k.ringFault) ∧ k.st = .active then
    p.modQueue q (fun k => { k with st := .idle, enable := false, preemptDue := false, resumeDue := false })
  else p.markStartable q

/-- The slot at a read index (13 R306). -/
def Queue.slotVa (k : Queue) : DWord := k.base + BitVec.ofNat 64 (128 * k.readIdx)

/-- The fetcher of a queue as a master. -/
def fetchMaster (q : Nat) : Nat := masterOf xdie (0, q)

/-- FETCHER_WAKE (13 R308-R309): the slot at the read index holds a packet when its PHASE is the expected one; it is then
read once. A failed read ends fetching (26 R464). -/
def execFetcherWake (q : Nat) (s : State) : Host.Outcome State Fault Refusal :=
  let p := s.pkg
  let k := p.queue q
  if !k.enable ∨ k.st ≠ .active ∨ k.ringFault ∨ k.fetched.isSome ∨ (p.xreset.find? (queueDie q)).isSome then .next s
  else
    let bad (p : Pkg) : Pkg := (p.modQueue q (fun k => { k with ringFault := true, error := 2 })).settleQueue q
    match p.engineRead (fetchMaster q) k.cx k.slotVa 1 true with
    | .wait r => .next { s with pkg := p.waiting r }
    | .fail p _ => .next { s with pkg := bad p }
    | .ok p b =>
      if bit (ofBytes b) 7 != k.lap then .next { s with pkg := p }
      else
        match Pkg.unitRead (fetchMaster q) k.cx true 3 p k.slotVa 128 [] with
        | .wait r => .next { s with pkg := s.pkg.waiting r }
        | .fail p _ => .next { s with pkg := bad p }
        | .ok p bs => .next { s with pkg := (p.modQueue q (fun k => { k with fetched := some bs })).markStartable q }

/-- The read index moves on (13 R308). -/
def Queue.passSlot (k : Queue) : Queue :=
  if k.readIdx + 1 = 2 ^ k.log2n then { k with readIdx := 0, lap := !k.lap } else { k with readIdx := k.readIdx + 1 }

/-- A packet starts: one with a faulty header is over at once (13 R307); the others raise a step of the firmware pool
(13 R315). A LAUNCH whose event waits were met brings its launch. -/
def Pkg.startPacket (p : Pkg) (q : Nat) : Pkg :=
  let k := p.queue q
  match k.fetched with
  | none => p
  | some bs =>
    let x : Packet := ⟨bs, p.ptime, false, 0, 0, 0, false, k.pre, false, false⟩
    let bad := headerFaultAt bs (x.type == 1)
    let x : Packet := match bad with | some o => { x.finished 1 o with launch := none } | none => x
    let p := if bad.isSome then p.dropNext q else p
    let d := queueDie q
    let p := p.modQueue q (fun k =>
      { k.passSlot with fetched := none, pre := none, effPrio := k.prio, since := none, nextNo := k.nextNo + 1
                        packets := KMap.insert k.nextNo x k.packets })
    let p : Pkg := { p with turn := KMap.insert d q p.turn }
    if bad.isSome then p else { p with fwq := KMap.insert d (p.fwq.getD d [] ++ [⟨q, false, k.nextNo, none⟩]) p.fwq }

/-- The queue that a front end serves next (13 R314): the lowest effective priority, in turns within one level. -/
def Pkg.nextQueue (p : Pkg) (x : Nat) : Option Nat :=
  let qs := (p.queues.keys.filter (fun q => queueDie q == x)).filter p.startable
  let low := (qs.map (fun q => (p.queue q).effPrio)).foldl min 8
  let level := qs.filter (fun q => (p.queue q).effPrio == low)
  let after := match p.turn.find? x with
    | some t => level.filter (fun q => decide (t < q))
    | none => level
  match after with
  | q :: _ => some q
  | [] => level.head?

/-- PACKET_START (13 R314): a full event queue of the firmware pool stalls it (R315). -/
def execPacketStart (x : Nat) (s : State) : Host.Outcome State Fault Refusal :=
  match s.pkg.nextQueue x with
  | none => .next s
  | some q =>
    if 4096 ≤ (s.pkg.fwq.getD x []).length then .next s
    else .next { s with pkg := (s.pkg.startPacket q).settleQueue q }

/-- PRIORITY_AGING (13 R314): a packet could start for 1,000,000 ticks and has not. -/
def execPriorityAging (q : Nat) (s : State) : Host.Outcome State Fault Refusal :=
  let p := s.pkg
  match p.startable q, (p.queue q).since with
  | true, some t =>
    if p.ptime.toNat < t.toNat + 1000000 then .next s
    else .next { s with pkg := p.modQueue q (fun k => { k with effPrio := k.effPrio - 1, since := some (t + 1000000) }) }
  | _, _ => .next { s with pkg := p.markStartable q }

/-! ## Performing a step (13 R315) -/

/-- Some firmware core of an X-die is not frozen (13 R315, 27 R485). -/
def Pkg.fwFree (p : Pkg) (x : Nat) : Bool := (List.range 12).any (fun c => !p.isFrozen 4 (12 * x + c))

/-- The ordering lock of a queue is held by a frozen firmware core (27 R485). -/
def Pkg.fwLocked (p : Pkg) (q : Nat) : Bool :=
  (p.fwq.getD (queueDie q) []).any (fun e => !e.overflow && e.q == q && e.locked.isSome)

/-- Steps of a queue's packets can be performed; those of one queue in their order, but that a COPY goes on beside later
ones once it has begun (log 47). -/
def State.mayPerform (s : State) (q n : Nat) (x : Packet) : Bool :=
  let k := s.pkg.queue q
  s.fwAlive (queueDie q) && s.pkg.fwFree (queueDie q) && !s.pkg.fwLocked q && k.st != .preempted && k.st != .resetting &&
  (!s.pkg.hold || (x.type == 5 && x.progress != 0)) && !x.performed &&
  k.packets.all (fun y => decide (n ≤ y.1) || y.2.performed || (y.2.type == 5 && y.2.progress != 0))

/-- A packet's step is over for the firmware pool: it is performed, a COPY has begun, or the packet is gone. -/
def Queue.stepOver (k : Queue) (n : Nat) : Bool :=
  match k.packets.find? n with
  | some x => x.performed || (x.type == 5 && x.progress != 0)
  | none => true

/-- The entry of a packet's step leaves the event queue once the step is over; one that stalls keeps it (13 R315). -/
def Pkg.endStep (p : Pkg) (q n : Nat) : Pkg :=
  if (p.queue q).stepOver n then p.dropFw (queueDie q) (fun e => !e.overflow && e.q == q && e.packet == n) else p

/-- Perform a step of a packet of a type that a test picks. -/
def packetStep (sel : Packet → Bool) (run : Pkg → Nat → Nat → Packet → Pkg) (q n : Nat) (s : State) : State :=
  match (s.pkg.queue q).packets.find? n with
  | none => s
  | some x =>
    if !sel x || !s.mayPerform q n x then s
    else
      let p := match payloadFault x.type x.bytes with
        | some o => if x.type = 1 then run s.pkg q n x else s.pkg.modPacket q n (Packet.finished 1 o)
        | none => run s.pkg q n x
      { s with pkg := (p.endStep q n).settleQueue q }

/-- The event that a packet waits for has no room: it is counted once (26 R469). -/
def Pkg.stallPacket (p : Pkg) (q n : Nat) (x : Packet) : Pkg :=
  if x.stalled then p
  else { p with evStalls := p.evStalls + 1 }.modPacket q n (fun x => { x with stalled := true })

/-- NOP. -/
def Pkg.runNop (p : Pkg) (q n : Nat) (_ : Packet) : Pkg := p.modPacket q n (Packet.finished 0 0)

/-- LAUNCH (13 R319-R320): the record is checked, and its launch is there; event waits were met before it started. -/
def Pkg.runLaunch (p : Pkg) (q n : Nat) (x : Packet) : Pkg :=
  match recordFault x.bytes with
  | some o =>
    let p : Pkg := match x.launch with | some id => { p with launches := KMap.erase id p.launches } | none => p
    p.modPacket q n (fun x => { x.finished 1 o with launch := none })
  | none =>
    let k := p.queue q
    let id := x.launch.getD p.nextLaunch
    let l := Launch.fresh x.bytes q (some n) none 0 (max k.prio (recPrio x.bytes)) k.cx x.start
    let p : Pkg := { p with nextLaunch := max p.nextLaunch (id + 1), launches := KMap.insert id l p.launches }
    p.modPacket q n (fun x => { x with performed := true, launch := some id })

/-- FEED (02 R46, 26 R472): a full ring keeps it waiting; a ring that cannot be written is no use to it (log 33). -/
def Pkg.runFeed (p : Pkg) (q n : Nat) (x : Packet) : Pkg :=
  match p.workerAt (p.queue q).cx.asid (BitVec.ofNat 64 (recNat x.bytes 0x10 8)) with
  | none => p.modPacket q n (Packet.finished 4 0)
  | some (id, l) =>
    if l.ringFull then p
    else
      match p.feedAppend id l (x.bytes.drop 0x40) with
      | .ok p _ => p.modPacket q n (Packet.finished 0 0)
      | .fail p _ => p.modPacket q n (Packet.finished 4 0)
      | .wait r => p.waiting r

/-- SIGNAL (13 R316). -/
def Pkg.runSignal (p : Pkg) (q n : Nat) (x : Packet) : Pkg :=
  match p.evSignal (p.queue q).cx (recNat x.bytes 0x10 2) (recNat x.bytes 0x14 4) with
  | some p => p.modPacket q n (Packet.finished 0 0)
  | none => p.stallPacket q n x

/-- WAIT (13 R316): its release ends it. -/
def Pkg.runWait (p : Pkg) (q n : Nat) (x : Packet) : Pkg :=
  match p.evAwait (p.queue q).cx (recNat x.bytes 0x10 2) (recNat x.bytes 0x14 4) (.packet q n) with
  | .met => p.modPacket q n (Packet.finished 0 0)
  | .waits p => p.modPacket q n (fun x => { x with performed := true })
  | .full => p.stallPacket q n x

/-- One aligned 4 bytes of a COPY. -/
def Pkg.copyWord (p : Pkg) (d : Nat) (ctx : Ctx) (x : Packet) : Piece :=
  let i : DWord := BitVec.ofNat 64 x.progress
  let dst : DWord := BitVec.ofNat 64 (recNat x.bytes 0x18 8)
  match p.engineRead d ctx (BitVec.ofNat 64 (recNat x.bytes 0x10 8) + i) 4 with
  | .ok p bs => p.engineWrite d ctx (BitVec.ofNat 32 (recNat x.bytes 0x24 4)) (fillsSector dst (dst + i) 4) (dst + i) bs
  | r => r

/-- Copy up to `k` pieces. -/
def Pkg.copyWords (ctx : Ctx) (q n : Nat) : Nat → Pkg → Packet → Pkg
  | 0, p, x => p.modPacket q n (fun _ => x)
  | k + 1, p, x =>
    if recNat x.bytes 0x20 4 ≤ x.progress then p.modPacket q n (fun _ => x.finished 0 0)
    else
      match p.copyWord (packetMaster q n) ctx x with
      | .ok p _ => Pkg.copyWords ctx q n k p { x with progress := x.progress + 4 }
      | .fail p c => p.modPacket q n (fun _ => x.finished 6 c.cause)
      | .wait r => (p.waiting r).modPacket q n (fun _ => x)

/-- COPY (13 R324): up to `len` further bytes; a misaligned field is cause 0x08. -/
def Pkg.runCopy (len : Nat) (p : Pkg) (q n : Nat) (x : Packet) : Pkg :=
  if recNat x.bytes 0x10 8 % 4 ≠ 0 ∨ recNat x.bytes 0x18 8 % 4 ≠ 0 ∨ recNat x.bytes 0x20 4 % 4 ≠ 0 then
    p.modPacket q n (Packet.finished 6 0x08)
  else Pkg.copyWords (p.queue q).cx q n (len / 4 + 2) p x

/-- FENCE (13 R324): every write of an earlier packet is at L2. -/
def Pkg.runFence (p : Pkg) (q n : Nat) (_ : Packet) : Pkg := p.modPacket q n (Packet.finished 0 0)

/-- NOP_PACKET. -/
def execNopPacket (q n : Nat) (s : State) : Host.Outcome State Fault Refusal :=
  .next (packetStep (fun x => x.type == 0) Pkg.runNop q n s)

/-- LAUNCH_PACKET. -/
def execLaunchPacket (q n : Nat) (s : State) : Host.Outcome State Fault Refusal :=
  .next (packetStep (fun x => x.type == 1) Pkg.runLaunch q n s)

/-- FEED_PACKET. -/
def execFeedPacket (q n : Nat) (s : State) : Host.Outcome State Fault Refusal :=
  .next (packetStep (fun x => x.type == 2) Pkg.runFeed q n s)

/-- SIGNAL_PACKET. -/
def execSignalPacket (q n : Nat) (s : State) : Host.Outcome State Fault Refusal :=
  .next (packetStep (fun x => x.type == 3) Pkg.runSignal q n s)

/-- WAIT_PACKET. -/
def execWaitPacket (q n : Nat) (s : State) : Host.Outcome State Fault Refusal :=
  .next (packetStep (fun x => x.type == 4) Pkg.runWait q n s)

/-- COPY_PACKET. -/
def execCopyPacket (q n len : Nat) (s : State) : Host.Outcome State Fault Refusal :=
  .next (packetStep (fun x => x.type == 5) (Pkg.runCopy len) q n s)

/-- FENCE_PACKET. -/
def execFencePacket (q n : Nat) (s : State) : Host.Outcome State Fault Refusal :=
  .next (packetStep (fun x => x.type == 7) Pkg.runFence q n s)

/-! ## Completion (13 R322, 26 R465) -/

/-- A completion record. -/
def noteBytes (splice status : Nat) (detail : Word) (start end_ : DWord) (blocks faults : Nat) : List Byte :=
  bytesOf 4 (splice * 256 + status) ++ bytesOf 4 detail.toNat ++ bytesOf 8 start.toNat ++ bytesOf 8 end_.toNat ++
  bytesOf 4 (blocks % 2 ^ 32) ++ bytesOf 4 faults ++ List.replicate 32 0

/-- What the write of a completion record meets. -/
inductive Note where
  | ok (p : Pkg)
  | bad (p : Pkg)
  | wait (p : Pkg)

/-- Write a completion record, as a master; a misaligned address takes none (log 40). -/
def Pkg.writeNote (p : Pkg) (d : Nat) (ctx : Ctx) (va : DWord) (bs : List Byte) : Note :=
  if va = 0 then .ok p
  else if va.toNat % 64 ≠ 0 then .bad p
  else
    let spoiled : Bool := match p.xlateEngine ctx va .store with
      | .ok x => (match p.plainPa x with | some a => p.poisoned a | none => false)
      | .error _ => false
    if spoiled then .bad p
    else
      match p.engineWrite d ctx 0 false va bs with
      | .ok p _ => .ok p
      | .fail p _ => .bad p
      | .wait q => .wait q

/-- A queue's error (26 R463). -/
def Pkg.queueError (p : Pkg) (q e : Nat) : Pkg := p.modQueue q (fun k => { k with error := e })

/-- Perform a completion: the record, then the event. What cannot be done yet is owed (13 R318, 25 R459). -/
def Pkg.complete (p : Pkg) (o : Owed) : Pkg :=
  let r : Pkg × Bool := match o.note with
    | none => (p, true)
    | some (va, bs) => match p.writeNote (masterOf xdie (0, 2 ^ 20 + o.q)) o.ctx va bs with
      | .ok p => (p, true)
      | .bad p => (p.queueError o.q 3, true)
      | .wait r => (p.waiting r, false)
  if !r.2 then { r.1 with owed := r.1.owed ++ [o] }
  else
    match o.cev with
    | none => r.1
    | some name =>
      match r.1.evSignal o.ctx name 1 with
      | some p => p
      | none => { r.1 with owed := r.1.owed ++ [{ o with note := none }], evStalls := if o.note.isSome then r.1.evStalls + 1 else r.1.evStalls }

/-- Try again what is owed, in order. -/
def Pkg.payOwed (p : Pkg) (sel : Owed → Bool) : Pkg :=
  (p.owed.filter sel).foldl Pkg.complete { p with owed := p.owed.filter (fun o => !sel o) }

/-- Serve the overflow of an address space, asked of an X-die: with the room that there is, spilled events move back,
completions that are owed signal their event, and launches register the waits that found no room (26 R468). -/
def Pkg.runOverflow (p : Pkg) (x asid : Nat) : Pkg :=
  let p := (p.serveOverflow asid).dropFw x (fun e => e.overflow && e.q == asid && e.locked.isNone)
  let p := p.payOwed (fun o => o.ctx.asid == asid)
  p.launches.keys.foldl (fun p id => p.registerWaits id) p

/-- The overflow service of an address space can be performed: a core that is not frozen takes it, and no frozen one holds it
(27 R485). -/
def State.mayServe (s : State) (asid : Nat) : Bool :=
  let x := s.pkg.evDie
  s.fwAlive x && s.pkg.fwFree x && !(s.pkg.fwq.getD x []).any (fun e => e.overflow && e.q == asid && e.locked.isSome)

/-- OVERFLOW_SERVICE. -/
def execOverflowService (asid : Nat) (s : State) : Host.Outcome State Fault Refusal :=
  if !s.mayServe asid then .next s else .next { s with pkg := s.pkg.runOverflow s.pkg.evDie asid }

/-- What a packet's completion record says (13 R322, 14 R342). -/
def Pkg.packetNote (p : Pkg) (x : Packet) (n : Nat) : List Byte :=
  match x.launch.bind p.launch? with
  | none => noteBytes 0 x.status x.detail x.start p.ptime 0 0
  | some l =>
    let faults := match l.splice with
      | none => l.faults
      | some sp => if sp.packet = n then sp.faults else l.faults - sp.faults
    noteBytes l.spliceSt x.status x.detail x.start p.ptime l.retired faults

/-- A packet leaves its queue. The launch of a spliced pair stays until its consumer's packet has left; the producer's
completes first (14 R342). -/
def Pkg.leavePacket (p : Pkg) (q n : Nat) (x : Packet) : Pkg :=
  let p := p.modQueue q (fun k => { k with packets := KMap.erase n k.packets })
  match x.launch with
  | none => p
  | some id =>
    match (p.launch? id).bind Launch.splice with
    | some sp =>
      if sp.packet = n then { p with launches := KMap.erase id p.launches }
      else p.modPacket q sp.packet (fun y => { y with done := true, status := x.status, detail := x.detail })
    | none => { p with launches := KMap.erase id p.launches }

/-- Complete a packet: its record, its event, and its place in the queue. It waits for a held line and for room in an
overflow table. -/
def Pkg.endPacket (p : Pkg) (q n : Nat) (x : Packet) : Pkg :=
  let k := p.queue q
  let noted : Except Pkg Pkg :=
    if x.noted then .ok p
    else
      match p.writeNote (packetMaster q n) k.cx (recComp x.bytes) (p.packetNote x n) with
      | .ok p => .ok (p.modPacket q n (fun x => { x with noted := true }))
      | .bad p => .ok ((p.queueError q 3).modPacket q n (fun x => { x with noted := true }))
      | .wait r => .error (p.waiting r)
  match noted with
  | .error p => p
  | .ok p =>
    match recCev x.bytes with
    | none => p.leavePacket q n x
    | some name =>
      match p.evSignal k.cx name 1 with
      | some p => p.leavePacket q n x
      | none => p.stallPacket q n x

/-- PACKET_COMPLETE. A pre-empted queue completes the LAUNCH packets whose retirement won over its request (02 R56); what else
is over waits for RESUME. -/
def execPacketComplete (q n : Nat) (s : State) : Host.Outcome State Fault Refusal :=
  let p := s.pkg.payOwed (fun o => o.q == q)
  match (p.queue q).packets.find? n with
  | none => .next { s with pkg := p }
  | some x =>
    if !x.done ∨ ((p.queue q).st = .preempted ∧ x.type ≠ 1) ∨ (p.xreset.find? (queueDie q)).isSome then .next { s with pkg := p }
    else .next { s with pkg := (p.endPacket q n x).settleQueue q }

end Sys2Proof.Machine
end

