-- ==== Sys2Proof/Machine/Linker.lean ====
section
/-!
DEFINITION. The splice linker: the examination of a pair of LAUNCH packets, the fused code, and the decision
(14_splice_linker.md R330-R345).
-/

namespace Sys2Proof.Machine

/-! ## Operands of a word (07 R156-R157, R164-R165) -/

/-- Registers that an operand field of a word reads and writes. -/
structure Use where
  rd : Nat
  wr : Nat
  deriving DecidableEq, Repr

/-- The operand fields d, a and b of a word. -/
structure Uses where
  d : Use
  a : Use
  b : Use
  deriving DecidableEq, Repr

/-- A field that is no operand. -/
def Use.none : Use := ⟨0, 0⟩
/-- A source of n registers. -/
def Use.src (n : Nat) : Use := ⟨n, 0⟩
/-- A destination of n registers. -/
def Use.dst (n : Nat) : Use := ⟨0, n⟩
/-- A field that is read and written. -/
def Use.upd (n : Nat) : Use := ⟨n, n⟩

/-- Operands d, a, b of n registers each. -/
def Uses.alu (n : Nat) : Uses := ⟨.dst n, .src n, .src n⟩
/-- The same with d read as well. -/
def Uses.fma (n : Nat) : Uses := ⟨.upd n, .src n, .src n⟩
/-- Operands d and a. -/
def Uses.un (d a : Nat) : Uses := ⟨.dst d, .src a, .none⟩
/-- A destination alone. -/
def Uses.out (n : Nat) : Uses := ⟨.dst n, .none, .none⟩
/-- Two sources d and a; a count of 0 is none. -/
def Uses.two (d a : Nat) : Uses := ⟨.src d, .src a, .none⟩

/-- Registers of a width code (07 R171). -/
def widthRegs (w : Nat) : Nat := if w = 5 then 2 else if w = 6 then 4 else 1

/-- Operands of the integer majors 0x01-0x1B. -/
def usesInt (maj lo : Nat) : Uses :=
  match maj with
  | 0x02 | 0x0D | 0x0E => .un 1 1
  | 0x03 => .alu 2
  | 0x04 => if lo % 2 = 1 then .fma 1 else .alu 1
  | 0x06 => ⟨.dst 2, .src 1, .src 1⟩
  | 0x10 => .fma 1
  | 0x13 | 0x1A => .out 1
  | 0x14 => if lo = 1 ∨ lo = 13 then .un 2 2 else if 13 < lo then .un 1 2 else .un 1 1
  | 0x15 => if lo = 0 ∨ lo = 1 ∨ lo = 9 then .un 2 1 else if lo = 2 ∨ lo = 5 then .un 2 2
      else if lo = 3 ∨ lo = 4 ∨ lo = 8 then .un 1 2 else .un 1 1
  | 0x18 => if lo = 11 then .out 1 else .un 1 1
  | 0x19 => if lo < 8 then .two 0 1 else .out 1
  | 0x1B => .two 0 1
  | _ => .alu 1

/-- Operands of the floating and predicate majors 0x20-0x3C. -/
def usesFloat (maj lo : Nat) : Uses :=
  match maj with
  | 0x20 | 0x23 | 0x28 => .alu 2
  | 0x21 => if lo % 2 = 1 then .fma 2 else .alu 2
  | 0x22 | 0x29 => .fma 2
  | 0x24 => if lo % 2 = 1 then ⟨.dst 2, .src 2, .src 1⟩ else .alu 2
  | 0x25 => if lo = 9 then .un 1 2 else .un 2 2
  | 0x27 => if lo % 2 = 1 then .fma 1 else .alu 1
  | 0x2C | 0x37 => .un 1 1
  | 0x2D | 0x30 | 0x31 | 0x32 | 0x33 => .fma 1
  | 0x38 => ⟨.none, .src 1, .src 1⟩
  | 0x39 => ⟨.none, .src 2, .src 2⟩
  | 0x3A => if lo % 2 = 1 then ⟨.none, .src 1, .src 1⟩ else ⟨.none, .src 2, .src 2⟩
  | 0x3B => ⟨.none, .none, .none⟩
  | 0x3C => if lo = 1 then .two 0 1 else .out 1
  | _ => .alu 1

/-- Operands of the control and memory majors 0x40-0x5D. -/
def usesMem (maj lo : Nat) : Uses :=
  match maj with
  | 0x43 => if lo = 2 ∨ lo = 3 then .out 1 else .two 0 0
  | 0x44 | 0x47 => .two 0 1
  | 0x50 => .un (widthRegs (lo / 32)) 2
  | 0x51 => .two (widthRegs (lo / 32)) 2
  | 0x52 => .un (widthRegs (lo / 32)) 1
  | 0x53 => .two (widthRegs (lo / 32)) 1
  | 0x54 => ⟨.dst 1, .src 2, .src 1⟩
  | 0x55 => ⟨.dst 2, .src 2, .src 1⟩
  | 0x56 | 0x57 =>
    let o := lo % 32
    let n := if o = 14 then 4 else if o = 1 ∨ o = 3 ∨ o = 12 ∨ o = 13 ∨ o = 17 ∨ o = 18 then 2 else 1
    ⟨⟨n, if o = 13 ∨ o = 14 then n / 2 else n⟩, .src (if maj = 0x56 then 2 else 1), .none⟩
  | 0x58 => if lo / 8 % 4 = 1 then .two (widthRegs (lo % 8)) 2 else .un (widthRegs (lo % 8)) 2
  | 0x5A => if lo = 0 then .un 1 4 else .two 0 1
  | 0x5D => .two 0 2
  | _ => .two 0 0

/-- Operands of the engine and system majors from 0x60. -/
def usesSys (maj lo : Nat) : Uses :=
  match maj with
  | 0x64 => if lo < 6 then .un 1 8 else if lo = 7 then .un 1 1 else .two 0 0
  | 0x66 => .un 1 1
  | 0x67 => if lo = 0 then .two 1 1 else if lo = 1 then .two 0 2 else if lo = 4 then .out 1 else .out 2
  | 0x68 | 0x69 => .two 1 1
  | 0x6A => if lo = 0 then .two 1 0 else .two 1 1
  | 0x6B | 0x70 => .two 0 1
  | 0x71 => if lo = 2 then ⟨.upd 1, .src 1, .none⟩ else if lo = 3 then .two 0 1 else .two 1 1
  | 0x74 => if lo = 0 then .two 0 1 else .out 2
  | 0x75 => if lo = 0 then .two 0 1 else if lo = 1 then .out 1 else if lo = 4 then .un 2 1 else .two 1 1
  | _ => .two 0 0

/-- Operands of a word by its major and low byte. -/
def usesOf (maj lo : Nat) : Uses :=
  if maj = 0 then .two 0 0 else if maj < 0x20 then usesInt maj lo else if maj < 0x40 then usesFloat maj lo
  else if maj < 0x60 then usesMem maj lo else usesSys maj lo

/-- The operand codes of a word with their uses. -/
def codesOf (w : Nat) : List (Nat × Use) :=
  let u := usesOf (bits w 31 25) (bits w 7 0)
  List.filter (fun e => e.2 != Use.none) [(bits w 21 15, u.d), (bits w 14 8, u.a), (bits w 7 1, u.b)]

/-- Registers from a code on that a test of the use counts. -/
def regsOf (f : Use → Nat) (w : Nat) : List Nat :=
  (codesOf w).flatMap (fun e => if e.1 < 112 then (List.range (f e.2)).map (fun i => e.1 + i) else [])

/-- A word writes one of n registers from r. -/
def writesIn (r n : Nat) (w : Nat) : Bool := (regsOf Use.wr w).any (fun x => decide (r ≤ x ∧ x < r + n))

/-- A word reads a register of a quad. -/
def readsQuad (c : Nat) (w : Nat) : Bool := (regsOf Use.rd w).any (fun x => x / 4 == c)

/-- A word writes a register of a quad. -/
def writesQuad (c : Nat) (w : Nat) : Bool := (regsOf Use.wr w).any (fun x => x / 4 == c)

/-! ## Descriptors (14 R330-R331) -/

/-- A tile entry. -/
structure Tile where
  pcoff : Nat
  kind : Nat
  width : Nat
  buf : Nat
  shape : List Nat
  deriving DecidableEq, Repr

/-- A kernel of a pair as the linker reads it: its record, its descriptor, its words and argument words where they can
be read, and whether its code has X permission. -/
structure Kern where
  lrec : List Byte
  desc : Option (List Byte)
  ws : Option (List Nat)
  args : Option (List Word)
  exec : Bool
  deriving DecidableEq, Repr

/-- A field of the descriptor. -/
def Kern.field (k : Kern) (o n : Nat) : Nat := recNat (k.desc.getD []) o n

/-- The descriptor is there. -/
def Kern.present (k : Kern) : Bool := k.field 0 4 == 0x5C11CE01

/-- TRIPARG. -/
def Kern.trip (k : Kern) : Nat := k.field 5 1
/-- NENT; a kernel without a descriptor has no entry. -/
def Kern.nent (k : Kern) : Nat := if k.present then bits (k.field 4 1) 2 0 else 0
/-- First word of the body. -/
def Kern.start (k : Kern) : Nat := k.field 8 4 / 4
/-- The word after the body. -/
def Kern.stop (k : Kern) : Nat := k.field 0x0C 4 / 4
/-- Words of the kernel. -/
def Kern.len (k : Kern) : Nat := k.field 0x10 4 / 4
/-- Registers per thread. -/
def Kern.regs (k : Kern) : Nat := 4 * recNat k.lrec 0x48 1

/-- Tile entry e. -/
def Kern.tile (k : Kern) (e : Nat) : Tile :=
  let w := k.field (0x20 + 16 * e) 4
  ⟨bits w 31 16, bits w 15 14, bits w 13 12, bits w 11 8,
    [bits w 13 12, k.field (0x24 + 16 * e) 4, k.field (0x28 + 16 * e) 4, k.field (0x2C + 16 * e) 4]⟩

/-- The entries of a kind, in order. -/
def Kern.tiles (k : Kern) (kind : Nat) : List Tile := ((List.range k.nent).map k.tile).filter (fun t => t.kind == kind)

/-- No reserved bit is set and every field is in range (reason 0x10). -/
def Kern.descOk (k : Kern) : Bool :=
  k.present && k.field 6 2 == 0 && bits (k.field 4 1) 7 3 == 0 && k.field 0x14 12 == 0 && decide (k.trip < 64) &&
  decide (k.nent ≤ 6) && k.field 8 4 % 4 == 0 && k.field 0x0C 4 % 4 == 0 && k.field 0x10 4 % 4 == 0 &&
  decide (k.field 0x10 4 ≤ 65536) && decide (k.start < k.stop ∧ k.stop ≤ k.len) &&
  (List.range k.nent).all (fun e => k.field (0x20 + 16 * e) 1 == 0 && (k.tile e).kind != 3 && (k.tile e).width != 3)

/-! ## Content rules (14 R336) -/

/-- Word i of a kernel. -/
def Kern.word (k : Kern) (i : Nat) : Nat := (k.ws.getD []).getD i 0

/-- A forbidden form; the consumer forbids more. -/
def forbidden (consumer : Bool) (w : Nat) : Bool :=
  let maj := bits w 31 25
  let lo := bits w 7 0
  [0x41, 0x45, 0x46, 0x5B, 0x5C, 0x60, 0x61, 0x62, 0x63].contains maj ||
  (maj == 0x44 && (lo / 16 == 0 || lo / 16 == 4)) || (maj == 0x42 && [0, 2, 3].contains lo) ||
  (maj == 0x72 && decide (lo < 3)) || (maj == 0x73 && lo / 64 % 2 == 0) ||
  (consumer && (maj == 0x19 || (codesOf w).any (fun e => decide (112 ≤ e.1 ∧ e.1 < 116))))

/-- A word is `exit`. -/
def isExit (w : Nat) : Bool := bits w 31 25 == 0x42 && bits w 7 0 == 1

/-- A word is `bra`. -/
def isBra (w : Nat) : Bool := bits w 31 25 == 0x40

/-- The index of a branch target; none before the kernel. -/
def braTo (i w : Nat) : Option Nat :=
  let t := bits w 21 9
  if t < 4096 then some (i + 1 + t) else if 8192 - t ≤ i + 1 then some (i + 1 + t - 8192) else none

/-- Prologue 0, body 1, epilogue 2. -/
def Kern.seg (k : Kern) (i : Nat) : Nat := if i < k.start then 0 else if i < k.stop then 1 else 2

/-- The control-flow rule: branches stay in their segment, exits in the epilogue, and the body ends in a branch to its
first word. -/
def Kern.flowOk (k : Kern) : Bool :=
  isBra (k.word (k.stop - 1)) && braTo (k.stop - 1) (k.word (k.stop - 1)) == some k.start &&
  (List.range k.len).all (fun i =>
    let w := k.word i
    (!isExit w || k.seg i == 2) &&
    (!isBra w || (match braTo i w with
      | some t => decide (t < k.len) && k.seg t == k.seg i
      | none => false)))

/-- The entry names a proper instruction: a load or store of its width with guard 7 and policy 0. -/
def Kern.tileOk (k : Kern) (t : Tile) : Bool :=
  let w := k.word (k.start + t.pcoff)
  t.kind == 0 || (decide (k.start + t.pcoff + 1 < k.stop) && bits w 31 25 == (if t.kind = 1 then 0x51 else 0x50) &&
    bits w 24 22 == 7 && bits w 7 5 == t.width + 4 && bits w 4 0 == 0)

/-- A `pfx.off` stands directly before a word; that of the body's first word is the last of the prologue. -/
def Kern.offBefore (k : Kern) (i : Nat) : Bool := decide (0 < i) && k.word (i - 1) / 2 ^ 23 == 1

/-- The places of the `pfx.lit` words of the run before a word, in order (07 R162). -/
def Kern.litsBefore (k : Kern) (i : Nat) : List Nat :=
  ((((List.range (min 3 i)).map (fun n => i - 1 - n)).takeWhile (fun j => decide (k.word j < 2 ^ 25))).filter
    (fun j => decide (k.word j < 2 ^ 23))).reverse

/-! ## Matching (14 R335) -/

/-- The buffer argument of an entry. -/
def Kern.bufArg (k : Kern) (t : Tile) : Option (List Word) :=
  match (k.args.getD [])[2 * t.buf]?, (k.args.getD [])[2 * t.buf + 1]? with
  | some a, some b => some [a, b]
  | _, _ => none

/-- The store entry that a load entry matches. -/
def matchOf (p n : Kern) (t : Tile) : Option Tile :=
  (p.tiles 1).find? (fun s => s.shape == t.shape && (p.bufArg s).isSome && p.bufArg s == n.bufArg t)

/-- The loads that match, each with its store: index of the load in the consumer, index of the store in the producer,
the destination and source codes, the width and the buffer of the load, and the literal chunks of a store of `lit`. -/
structure Match where
  load : Nat
  store : Nat
  dst : Nat
  src : Nat
  width : Nat
  buf : Nat
  lits : List Nat
  deriving DecidableEq, Repr

/-- Every matched load. -/
def matchesOf (p n : Kern) : List Match :=
  (n.tiles 2).filterMap (fun t => (matchOf p n t).map (fun s =>
    let i := n.start + t.pcoff
    let j := p.start + s.pcoff
    let src := bits (p.word j) 21 15
    ⟨i, j, bits (n.word i) 21 15, src, t.width, t.buf, if src = 125 then (p.litsBefore j).map p.word else []⟩))

/-- Registers of a matched load. -/
def Match.count (m : Match) : Nat := [1, 2, 4].getD m.width 1

/-- P's data registers stay intact up to the back-branch. -/
def Match.intact (p : Kern) (m : Match) : Bool :=
  decide (112 ≤ m.src) || (List.range (p.stop - 1 - (m.store + 1))).all (fun i => !writesIn m.src m.count (p.word (m.store + 1 + i)))

/-! ## Registers (14 R337, R339) -/

/-- Pairs of a destination register and the data register that it receives. -/
def Match.pairs (m : Match) : List (Nat × Nat) :=
  if m.dst < 112 ∧ m.src < 112 then (List.range m.count).map (fun i => (m.dst + i, m.src + i)) else []

/-- The quad of P that a quad of N is aliased to: only matched loads write it, at least one of them, only the body reads
it, and every register forwards the same place of one quad. -/
def aliasOf (n : Kern) (ms : List Match) (c : Nat) : Option Nat :=
  let mine := ms.filter (fun m => decide (m.dst < 112 ∧ m.dst / 4 = c))
  let ps := (mine.flatMap Match.pairs).filter (fun x => x.1 / 4 == c)
  let writers := (List.range n.len).filter (fun i => writesQuad c (n.word i))
  let readers := (List.range n.len).filter (fun i => readsQuad c (n.word i))
  match ps with
  | [] => none
  | x :: _ =>
    if mine.all (fun m => decide (m.src < 112)) && writers.all (fun i => ms.any (fun m => m.load == i)) &&
        readers.all (fun i => n.seg i == 1) && ps.all (fun y => y.2 / 4 == x.2 / 4 && y.2 % 4 == y.1 % 4) then
      some (x.2 / 4)
    else none

/-- The quads of N that are aliased, each with P's quad. -/
def aliases (n : Kern) (ms : List Match) : List (Nat × Nat) :=
  (List.range (n.regs / 4)).filterMap (fun c => (aliasOf n ms c).map (fun q => (c, q)))

/-- The fused register of a register of N. -/
def mapReg (pp : Nat) (al : List (Nat × Nat)) (r : Nat) : Nat :=
  match al.find? (fun x => x.1 == r / 4) with
  | some x => 4 * x.2 + r % 4
  | none => 4 * (pp / 4 + 1 + (r / 4 - (al.filter (fun x => decide (x.1 < r / 4))).length)) + r % 4

/-- An operand code of N renumbered. -/
def mapCode (f : Nat → Nat) (u : Use) (c : Nat) : Nat := if u ≠ Use.none ∧ c < 112 then f c else c

/-- A word of N renumbered. -/
def renumber (f : Nat → Nat) (w : Nat) : Nat :=
  let u := usesOf (bits w 31 25) (bits w 7 0)
  let b := if u.b = Use.none then bits w 7 0 else 2 * mapCode f u.b (bits w 7 1) + w % 2
  bits w 31 22 * 2 ^ 22 + mapCode f u.d (bits w 21 15) * 2 ^ 15 + mapCode f u.a (bits w 14 8) * 2 ^ 8 + b

/-- Every register that N names directly lies at or below v111 once renumbered. -/
def renumberOk (f : Nat → Nat) (w : Nat) : Bool :=
  (codesOf w).all (fun e => decide (112 ≤ e.1) ||
    (List.range (max e.2.rd e.2.wr)).all (fun i => decide (f (e.1 + i) ≤ 111)))

/-! ## Fused code (14 R338, R340, R343) -/

/-- The words that one word of a kernel becomes: `orig` is its index when it has a place of its own, `at_` the index of the
PC map. -/
structure Chunk where
  consumer : Bool
  orig : Option Nat
  at_ : Nat
  out : List (Nat × FusedKind)
  deriving DecidableEq, Repr

/-- `p2v vr`. -/
def p2vWord (r : Nat) : Nat := 0x79C07C00 + r * 2 ^ 15
/-- `v2p vr`. -/
def v2pWord (r : Nat) : Nat := 0x79FE0001 + r * 2 ^ 8
/-- `mov` or `mov.64`. -/
def movWord (wide : Nat) (d a : Nat) : Nat := 0x29C00000 + d * 2 ^ 15 + a * 2 ^ 8 + wide

/-- A swap: predicates to register r, then predicates from register s. -/
def swapChunk (r s : Nat) (consumer : Bool) (at_ : Nat) : Chunk :=
  ⟨consumer, none, at_, [(p2vWord r, .swap), (v2pWord s, .swap)]⟩

/-- A register of a pair further on; another code stays. -/
def codeAt (c i : Nat) : Nat := if c < 112 then c + i else c

/-- What a matched load becomes: moves of the producer's value, with the literal of a store of `lit` before them (06 R151). -/
def loadMoves (f : Nat → Nat) (al : List (Nat × Nat)) (m : Match) : List (Nat × FusedKind) :=
  let d := if m.dst < 112 then f m.dst else m.dst
  if m.dst < 112 ∧ al.any (fun x => x.1 == m.dst / 4) then []
  else
    let lits : List (Nat × FusedKind) := m.lits.map (fun w => (w, .replaced))
    match m.width with
    | 0 => lits ++ [(movWord 0 d m.src, .replaced)]
    | 1 => lits ++ [(movWord 1 d m.src, .replaced)]
    | _ => lits ++ (movWord 1 d m.src, .replaced) :: m.lits.map (fun w => (w, .second)) ++
        [(movWord 1 (codeAt d 2) (codeAt m.src 2), .second)]

/-- Words of N from i, n of them: matched loads with their prefix are replaced, the back-branch is dropped. -/
def Kern.chunksN (k : Kern) (ms : List Match) (f : Nat → Nat) (al : List (Nat × Nat)) (i n : Nat) : List Chunk :=
  (List.range n).map (fun j =>
    let x := i + j
    let gone : Chunk := ⟨true, some x, x, []⟩
    if x + 1 = k.stop then gone
    else if ms.any (fun m => m.load == x + 1) && k.offBefore (x + 1) then gone
    else
      match ms.find? (fun m => m.load == x) with
      | some m => { gone with out := loadMoves f al m, at_ := if k.offBefore x then x - 1 else x }
      | none => { gone with out := [(renumber f (k.word x), .copied)] })

/-- Words of P from i, n of them: stores that are elided leave with their prefixes. -/
def Kern.chunksP (k : Kern) (gone : List Nat) (i n : Nat) : List Chunk :=
  (List.range n).map (fun j =>
    let x := i + j
    if gone.contains x ∨ (gone.contains (x + 1) ∧ k.offBefore (x + 1)) then ⟨false, some x, x, []⟩
    else ⟨false, some x, x, [(k.word x, if isExit (k.word x) then .replaced else .copied)]⟩)

/-- Words of chunks. -/
def sizeOf_ (cs : List Chunk) : Nat := (cs.map (fun c => c.out.length)).sum

/-- The fused position of word i of a kernel. -/
def placeOf (consumer : Bool) (i : Nat) : List Chunk → Nat → Option Nat
  | [], _ => none
  | c :: t, n => if c.consumer = consumer ∧ c.orig = some i then some n else placeOf consumer i t (n + c.out.length)

/-- A `bra` at a position with guard g, to a target and a reconvergence place; a place that its field cannot name is none
(log 42). -/
def braWord (g pos target : Nat) (join : Option Nat) : Nat :=
  let t := (target + 8192 - (pos + 1)) % 8192
  let r := match join with | some x => if pos < x ∧ x < pos + 512 then x - pos else 0 | none => 0
  0x80000000 + g * 2 ^ 22 + t * 2 ^ 9 + r

/-- A copied branch, retargeted to the fused positions. -/
def retarget (cs : List Chunk) (consumer : Bool) (i pos w : Nat) : Nat :=
  let join := if bits w 8 0 = 0 then none else placeOf consumer (i + bits w 8 0) cs 0
  match (braTo i w).bind (fun t => placeOf consumer t cs 0) with
  | some t => braWord (bits w 24 22) pos t join
  | none => w

/-- The fused code of a pair. -/
def fuse (p n : Kern) (ms : List Match) (al : List (Nat × Nat)) : List FusedWord :=
  let pp := p.regs
  let f := mapReg pp al
  let elide := recNat n.lrec 0x4E 2
  let gone := (ms.filter (fun m => bit elide m.buf)).flatMap (fun m => m.store :: p.litsBefore m.store)
  let back := p.stop - 1
  let head := p.chunksP gone 0 p.start ++ [swapChunk pp (pp + 1) true 0] ++ n.chunksN ms f al 0 n.start ++
    [swapChunk (pp + 1) pp false p.start]
  let body := p.chunksP gone p.start (back - p.start) ++ [swapChunk pp (pp + 1) true n.start] ++
    n.chunksN ms f al n.start (n.stop - n.start) ++ [swapChunk (pp + 1) pp false back] ++
    [⟨false, some back, back, [(p.word back, .copied)]⟩]
  let upTo := head ++ body ++ p.chunksP [] p.stop (p.len - p.stop)
  let last := sizeOf_ upTo
  let cs := upTo ++ [swapChunk pp (pp + 1) true n.stop] ++ n.chunksN [] f al n.stop (n.len - n.stop)
  let pcode : DWord := BitVec.ofNat 64 (recNat p.lrec 0x10 8)
  let ncode : DWord := BitVec.ofNat 64 (recNat n.lrec 0x10 8)
  (cs.foldl (fun (acc : List FusedWord × Nat) c =>
    let pc : DWord := (if c.consumer then ncode else pcode) + BitVec.ofNat 64 (4 * c.at_)
    let out : List FusedWord := c.out.zipIdx.map (fun x =>
      let pos := acc.2 + x.2
      let w := x.1.1
      let w := if x.1.2 == FusedKind.replaced && isExit w then braWord (bits w 24 22) pos last (some last)
        else if x.1.2 == FusedKind.copied && isBra w then
          (match c.orig with
           | some i => if !c.consumer && i == back then
               braWord (bits w 24 22) pos (sizeOf_ head) (if bits w 8 0 = 0 then none else placeOf false (i + bits w 8 0) cs 0)
             else retarget cs c.consumer i pos w
           | none => w)
        else w
      ⟨BitVec.ofNat 32 w, pc, c.consumer, x.1.2⟩)
    (acc.1 ++ out, acc.2 + c.out.length)) ([], 0)).1

/-! ## The checks (14 R334) -/

/-- Byte offsets and lengths of the fields of R334 that both records share, and of those that must be zero. -/
def sameShape (p n : List Byte) : Bool :=
  recGrid p == recGrid n && recBlock p == recBlock n && recCluster p == recCluster n && recCarve p == recCarve n &&
  recProducer p == recProducer n && [p, n].all (fun r => recNat r 0x18 8 == 0 && recNat r 0x70 8 == 0 && recPlain r)

/-- SPLICE_CEIL in registers. -/
def spliceCeil (r : List Byte) : Nat :=
  let v := recNat r 0x4B 1
  4 * (if v = 0 ∨ 56 < v then 56 else v)

/-- Both kernels have a descriptor and name unlike trip counts; without a descriptor there is none to compare (log 82). -/
def tripsDiffer (p n : Kern) : Bool :=
  p.present && n.present &&
  (((p.args.getD [])[p.trip]?).isNone || (p.args.getD [])[p.trip]? != (n.args.getD [])[n.trip]?)

/-- What the linker decides, in the order of the table: the reason of a refusal, or the fused code with the fused register
count and the registers of N's argument words. Code that cannot be read has no content to refuse before its own check. -/
def examineKern (p n : Kern) (room : Nat) : Except Nat (List FusedWord × Nat × List Nat) :=
  let ms := matchesOf p n
  let al := aliases n ms
  let f := mapReg p.regs al
  let total := p.regs + 4 + n.regs - 4 * al.length
  if !packetDep n.lrec || (List.range 4).any (fun i => (recWait n.lrec i).isSome) then .error 0x01
  else if !sameShape p.lrec n.lrec then .error 0x02
  else if bits (recNat p.lrec 0x3C 4) 20 0 = 0 ∨ bits (recNat n.lrec 0x3C 4) 20 0 = 0 then .error 0x03
  else if tripsDiffer p n then .error 0x04
  else if (n.tiles 2).any (fun t => (matchOf p n t).isNone) then .error 0x05
  else if !p.descOk || !n.descOk then .error 0x10
  else if (p.ws.getD []).any (forbidden false) || (n.ws.getD []).any (forbidden true) then .error 0x11
  else if [p, n].any (fun k => k.ws.isSome && !k.flowOk) then .error 0x12
  else if [p, n].any (fun k => k.ws.isSome && (List.range k.nent).any (fun e => !k.tileOk (k.tile e))) ||
      (p.ws.isSome && ms.any (fun m => !m.intact p)) then .error 0x13
  else
    let ws := fuse p n ms al
    let whole := p.ws.isSome && n.ws.isSome
    if whole && decide (2048 < ws.length ∨ room < 8 * ws.length) then .error 0x14
    else if !whole || !p.exec || !n.exec then .error 0x15
    else if min (spliceCeil p.lrec) (spliceCeil n.lrec) < total then .error 0x20
    else if 110 < p.regs || (n.ws.getD []).any (fun w => !renumberOk f w) then .error 0x21
    else if carveRegs (recCarve p.lrec) < total * 32 * recWarps p.lrec then .error 0x22
    else .ok (ws, total, (List.range (recNarg n.lrec)).map f)

/-! ## Reading a kernel -/

/-- Read bytes for the linker, as a master: an error with the package while the read waits; the bytes where it
succeeds. -/
def Pkg.linkRead (p : Pkg) (d : Nat) (ctx : Ctx) (va : DWord) (n : Nat) : Except Pkg (Pkg × Option (List Byte)) :=
  match Pkg.unitRead d ctx true (n / 64 + 2) p va n [] with
  | .ok p bs => .ok (p, some bs)
  | .fail p _ => .ok (p, none)
  | .wait q => .error (p.waiting q)

/-- A list of bytes as words. -/
def wordsIn (bs : List Byte) : List Nat := (List.range (bs.length / 4)).map (fun i => recNat bs (4 * i) 4)

/-- Read a kernel of a record, as a master: an error with the package while a read waits. -/
def Pkg.readKern (p : Pkg) (d : Nat) (ctx : Ctx) (r : List Byte) : Except Pkg (Pkg × Kern) :=
  let code : DWord := BitVec.ofNat 64 (recNat r 0x10 8)
  (p.linkRead d ctx (code - 128) 128).bind (fun x =>
    let k : Kern := ⟨r, x.2, none, none, false⟩
    (x.1.linkRead d ctx (BitVec.ofNat 64 (recNat r 0x20 8)) (4 * recNarg r)).bind (fun y =>
      let k : Kern := { k with args := y.2.map (fun bs => (wordsIn bs).map (BitVec.ofNat 32)) }
      if !k.descOk then .ok (y.1, k)
      else
        (y.1.linkRead d ctx code (4 * k.len)).bind (fun z =>
          let xs := (List.range ((code.toNat % 4096 + 4 * k.len + 4095) / 4096)).map (fun i =>
            z.1.xlateEngine ctx (code + BitVec.ofNat 64 (4096 * i) - BitVec.ofNat 64 (code.toNat % 4096)) .fetch)
          if xs.any (fun x => match x with | .error 0 => true | _ => false) then .error z.1
          else
            let xok := xs.all (fun x => match x with | .ok _ => true | .error _ => false)
            .ok (z.1, { k with ws := z.2.map wordsIn, exec := xok }))))

/-! ## The decision (14 R333, R341-R342, R345) -/

/-- SPLICE of a completion record for a reason (13 R322). -/
def refusedAs (reason : Nat) : Nat := if reason < 0x10 then 3 else if reason < 0x20 then 4 else 2

/-- Keep a decision in the refusal register of an X-die. -/
def Pkg.noteLink (p : Pkg) (q slot reason : Nat) : Pkg :=
  let d := queueDie q
  let r := p.linker.getD d ⟨0, 0, 0, 0, 0⟩
  let r : LinkerReg :=
    { reason := reason, slot := slot, queue := q, spliced := (if reason = 0 then r.spliced + 1 else r.spliced)
      refused := (if reason = 0 then r.refused else r.refused + 1) }
  { p with linker := KMap.insert d r p.linker }

/-- Replace bytes of a record. -/
def putBytes (r : List Byte) (k : Nat) (bs : List Byte) : List Byte := r.take k ++ bs ++ r.drop (k + bs.length)

/-- Bytes of every splice code cache that live entries hold, code and PC map. -/
def Pkg.cacheUsed (p : Pkg) : Nat :=
  p.launches.foldl (fun n e => match e.2.splice with | some s => n + 8 * s.words.length | none => n) 0

/-- The packet after a started one, with its slot and whether its slot is next in the ring. -/
def Queue.slotBack (k : Queue) (back : Nat) : Nat × Bool :=
  let size := 2 ^ k.log2n
  ((k.readIdx + size - back % size) % size, if k.readIdx < back then !k.lap else k.lap)

/-- A spliced pair: the launch runs the fused code in the place of P, and N's packet has started with it. -/
def Pkg.spliceIn (p : Pkg) (id q n : Nat) (bytes : List Byte) (x : List FusedWord × Nat × List Nat) : Pkg :=
  match p.launch? id with
  | none => p
  | some l =>
    let scratch := max (bits (recNat l.record 0x3C 4) 20 0) (bits (recNat bytes 0x3C 4) 20 0)
    let r := putBytes (putBytes l.record 0x48 (bytesOf 1 (x.2.1 / 4))) 0x3C (bytesOf 4 scratch)
    let sp : Splice := ⟨n + 1, x.1, bytes, x.2.2, 0⟩
    let y : Packet := ⟨bytes, l.start, true, 0, 0, 0, false, some id, false, false⟩
    let p := p.modLaunch id (fun l => { l with record := r, splice := some sp, spliceSt := 1 })
    (p.dropNext q).modQueue q (fun k => { k.passSlot with
      fetched := none, since := none, nextNo := k.nextNo + 1, packets := KMap.insert (n + 1) y k.packets })

/-- The neighbour of a pair that passes every check can start: its queue goes on starting packets, and its own record is
one that R320 accepts (log 82). -/
def Queue.takesNext (k : Queue) (nb : List Byte) : Bool :=
  k.enable && k.st == .active && !k.ringFault && (recordFault nb).isNone

/-- Examine packet n of a queue with its neighbour: an error with the package while a read, or the place of the neighbour
among the started packets, is waited for. -/
def Pkg.examinePair (p : Pkg) (id q n : Nat) (l : Launch) : Except Pkg Pkg :=
  let d := opMaster xdie id
  let k := p.queue q
  let back := k.nextNo - (n + 1)
  let slot := k.slotBack back
  let mine := k.slotBack (back + 1)
  let va := k.base + BitVec.ofNat 64 (128 * slot.1)
  if !bit (recNat l.record 1 1) 1 then .ok p
  else
    (p.linkRead d k.cx va 1).bind (fun b =>
      match b.2 with
      | none => .ok b.1
      | some bs =>
        if bit (ofBytes bs) 7 != slot.2 then .ok b.1
        else
          (b.1.linkRead d k.cx va 128).bind (fun c =>
            match c.2 with
            | none => .ok c.1
            | some nb =>
              if bits (recNat nb 0 1) 6 0 ≠ 1 ∨ !bit (recNat nb 1 1) 1 then .ok c.1
              else
                (c.1.readKern d k.cx l.record).bind (fun pk =>
                  (pk.1.readKern d k.cx nb).bind (fun nk =>
                    let r : Except Nat (List FusedWord × Nat × List Nat) :=
                      if back ≠ 0 then .error 0x01 else examineKern pk.2 nk.2 (65536 - nk.1.cacheUsed)
                    match r with
                    | .error e => .ok ((nk.1.noteLink q mine.1 e).modLaunch id (fun l => { l with spliceSt := refusedAs e }))
                    | .ok x =>
                      if !k.takesNext nb then .ok nk.1
                      else if 64 ≤ k.packets.length then .error nk.1
                      else .ok ((nk.1.noteLink q mine.1 0).spliceIn id q n nb x)))))

/-- The packet of a launch has started, and its record was accepted. -/
def Pkg.packetRuns (p : Pkg) (l : Launch) : Bool :=
  match l.packet.bind (fun n => (p.queue l.q).packets.find? n) with
  | some x => x.performed
  | none => l.packet.isNone

/-- LAUNCH_READY (13 R325): every event wait is met; the linker examines the packet of a launch with its neighbour. A reset or
a pre-emption waits while a read of the examination does (14 R342). -/
def execLaunchReady (id : Nat) (s : State) : Host.Outcome State Fault Refusal :=
  let p := s.pkg.registerWaits id
  match p.launch? id with
  | none => .next s
  | some l =>
    let q := (p.queue l.q).st
    if l.st ≠ .waitev ∨ l.ending ∨ !p.waitsMet id l ∨ !p.packetRuns l ∨ (q ≠ .active ∧ q ≠ .halted) then .next { s with pkg := p }
    else
      let ready := p.modLaunch id (fun l => { l with st := .ready, waited := p.ptime })
      match l.packet with
      | none => .next { s with pkg := ready }
      | some n =>
        match ready.examinePair id l.q n l with
        | .ok p => .next { s with pkg := (p.modLaunch id (fun l => { l with linking := false })).settleQueue l.q }
        | .error r =>
          let on := decide ((p.queue l.q).packets.length < 64)
          .next { s with pkg := ((p.waiting r).modLaunch id (fun l => { l with linking := on })).settleDue l.q }

end Sys2Proof.Machine
end

