-- ==== Sys2Proof/Machine/Snapshot.lean ====
section
/-!
DEFINITION. The snapshot engine: SNAPSHOT packets, publication, racking, opening and closing of versioned regions
(05_versioned_memory.md R111-R114, R122-R127, 26_scheduling_engine_failures.md R462).
-/

namespace Sys2Proof.Machine

/-! ## Requests -/

/-- ACTION of a SNAPSHOT packet. -/
def Packet.snapAction (x : Packet) : Nat := bits (recNat x.bytes 0x10 2) 9 8

/-- A SNAPSHOT packet reaches step 2 of R127: its request enters the engine. -/
def Pkg.runSnapshot (p : Pkg) (q n : Nat) (x : Packet) : Pkg :=
  let key := regionKey (p.queue q).cx.asid (bits (recNat x.bytes 0x10 1) 3 0)
  let y : Snap := ⟨key, x.snapAction, BitVec.ofNat 32 (recNat x.bytes 0x14 4), true, q, n, 0, 0⟩
  let p : Pkg := { p with snaps := p.snaps ++ [y] }
  p.modPacket q n (fun x => { x with performed := true })

/-- A SNAPSHOT packet of one action. -/
def snapshotStep (action q n : Nat) (s : State) : State :=
  packetStep (fun x => x.type == 6 && x.snapAction == action) Pkg.runSnapshot q n s

/-- SNAPSHOT_OPEN. -/
def execSnapshotOpen (q n : Nat) (s : State) : Host.Outcome State Fault Refusal := .next (snapshotStep 0 q n s)

/-- SNAPSHOT_PUBLISH. -/
def execSnapshotPublish (q n : Nat) (s : State) : Host.Outcome State Fault Refusal := .next (snapshotStep 1 q n s)

/-- SNAPSHOT_RACK. -/
def execSnapshotRack (q n : Nat) (s : State) : Host.Outcome State Fault Refusal := .next (snapshotStep 2 q n s)

/-- SNAPSHOT_CLOSE. -/
def execSnapshotClose (q n : Nat) (s : State) : Host.Outcome State Fault Refusal := .next (snapshotStep 3 q n s)

/-! ## Checks (05 R114, 26 R462) -/

/-- The descriptor of a region of a context as it lies in memory: its local address, whether it can be read and its 64
bytes; none without a region table. -/
def Pkg.descriptor (p : Pkg) (ctx : Ctx) (r : Nat) : Option (Nat × Bool × List Byte) :=
  if ctx.regions = 0 then none
  else
    match p.local? (ctx.regions + 64 * r) with
    | none => some (0, false, [])
    | some a => some (a, !p.poisoned a, p.readMem a 64)

/-- A descriptor has a nonzero reserved field. -/
def descReserved (bs : List Byte) : Bool :=
  recNat bs 0x0C 4 / 4 != 0 || recNat bs 0x23 1 != 0 || recNat bs 0x27 1 != 0 || recNat bs 0x30 16 != 0

/-- A range of physical addresses lies in package memory: its local base. An empty range lies there when its address does
(log 83). -/
def Pkg.inMemory (p : Pkg) (pa n : Nat) : Option Nat :=
  match p.local? pa with
  | some a => if a + n ≤ memSize then some a else none
  | none => none

/-- The error code of a request, or the descriptor's place and bytes. -/
def Pkg.snapCheck (p : Pkg) (ctx : Ctx) (x : Snap) : Except Nat (Nat × List Byte) :=
  let r := x.region % 16
  let opened := p.regions.find? x.region
  match p.descriptor ctx r with
  | none => .error 7
  | some (a, ok, bs) =>
    if (x.action = 0 && !ok) || (ok && opened.isNone && descReserved bs) then .error 7
    else
      match x.action, opened with
      | 0, some _ => .error 5
      | 0, none =>
        let base := recNat bs 0 8
        let pages := recNat bs 8 4
        let recs := recNat bs 0x10 8
        let pool := recNat bs 0x18 8
        let frames := recNat bs 0x20 3
        if base % 65536 ≠ 0 ∨ 2 ^ 56 ≤ base ∨ recs % 256 ≠ 0 ∨ pool % 65536 ≠ 0 then .error 1
        else if pages = 0 ∨ 16777216 < pages then .error 2
        else if (p.inMemory recs (pages * 32)).isNone || (p.inMemory pool (frames * 65536)).isNone then .error 9
        else if p.regions.any (fun e => e.1 / 16 == ctx.asid &&
            overlaps base (pages * 65536) e.2.base.toNat (e.2.pages * 65536)) then .error 3
        else .ok (a, bs)
      | _, none => .error 4
      | 1, some _ => if x.version = 0xFFFFFFFF then .error 8 else .ok (a, bs)
      | 2, some g => if g.floor < x.version ∧ (!g.pvalid ∨ g.pub < x.version) then .error 6 else .ok (a, bs)
      | _, some _ => .ok (a, bs)

/-! ## Actions -/

/-- OPEN (05 R114): every page holds its home frame with tag 0. -/
def Pkg.openRegion (p : Pkg) (key a : Nat) (bs : List Byte) : Pkg :=
  let pages := recNat bs 8 4
  let r : VRegion := ⟨a, BitVec.ofNat 64 (recNat bs 0 8), pages, recNat bs 0x10 8, recNat bs 0x18 8, recNat bs 0x20 3, [],
    0, 0, false, [], [], []⟩
  let p : Pkg := { p with regions := KMap.insert key r p.regions }
  ((List.range pages).foldl (fun p k => p.backPage r k) p).backDesc r true

/-- Keep a changed region and write its descriptor back. -/
def Pkg.putRegion (p : Pkg) (key : Nat) (r : VRegion) : Pkg :=
  { p with regions := KMap.insert key r p.regions }.backDesc r true

/-- PUBLISH (05 R122): P never falls. One of v ≤ P changes nothing and writes no descriptor back (log 95, DESIGN CHOICE). -/
def Pkg.publish (p : Pkg) (key : Nat) (r : VRegion) (v : Word) : Pkg :=
  if r.pvalid ∧ v ≤ r.pub then p else p.putRegion key { r with pub := v, pvalid := true }

/-- The frames of a page that a floor leaves (05 R125). -/
def rackFrames (f : Word) (fs : List Frame) : List Frame :=
  fs.filter (fun x => !fs.any (fun y => decide (x.tag < y.tag ∧ y.tag ≤ f)))

/-- A frame that is freed: its entry keeps the rest (18 R399). -/
def Frame.free (f : Frame) : Frame := { f with live := false }

/-- RACK (05 R125): frames that are valid only below the floor are free. One of f ≤ F changes nothing and writes no descriptor
back (log 95, DESIGN CHOICE). -/
def Pkg.rack (p : Pkg) (key : Nat) (r : VRegion) (f : Word) : Pkg :=
  if f ≤ r.floor then p
  else
    let freed (e : Nat × List Frame) : List Frame :=
      let fs := e.2.filter Frame.live
      fs.filter (fun x => !(rackFrames f fs).contains x)
    let changed := List.filter (fun e => !(freed e).isEmpty) r.recs
    let gone := changed.flatMap (fun e => (freed e).filterMap Frame.frame)
    let r : VRegion := { r with
      floor := f
      recs := changed.foldl (fun m e => KMap.insert e.1 (e.2.map (fun x => if (freed e).contains x then x.free else x)) m) r.recs
      used := r.used.filter (fun j => !gone.contains j) }
    (changed.foldl (fun p e => p.backPage r e.1) p).putRegion key r

/-- CLOSE (05 R114): newest frames are folded into the home frames, every pool frame is freed, in the page records too
(R112), and the region and its translations are gone. -/
def Pkg.closeRegion (p : Pkg) (key : Nat) (r : VRegion) : Pkg :=
  let p := r.recs.foldl (fun p e =>
    let n := newest (r.frames e.1)
    match n.frame, r.homes.find? e.1 with
    | some _, some home => p.copyFrame (r.frameBase home n) home
    | _, _ => p) p
  let p : Pkg := { p with regions := KMap.erase key p.regions }
  let lo := r.base.toNat
  let left : VRegion := { r with
    used := [], recs := (r.recs.map (fun e => (e.1, e.2.map (fun x => if x.frame.isSome then x.free else x)))) }
  let p := (left.recs.keys.foldl (fun p k => p.backPage left k) p).backDesc left false
  let hit (asid va : Nat) : Bool := asid == key / 16 && decide (lo ≤ va ∧ va < lo + r.pages * 65536)
  let ws := p.dies.flatMap (fun d => d.2.walks.filter (fun w => hit w.ctx.asid w.va.toNat))
  let p : Pkg := { p with dies := (p.dies.map (fun d => (d.1, { d.2 with walks := d.2.walks.filter (fun w => !hit w.ctx.asid w.va.toNat) }))) }
  (ws.foldl Pkg.tryPrefetch p).tlbDrop (fun e => e.covers (key / 16) lo (lo + r.pages * 65536))

/-- Perform an action that passed its checks. -/
def Pkg.applySnap (p : Pkg) (x : Snap) (a : Nat) (bs : List Byte) : Pkg :=
  match x.action, p.regions.find? x.region with
  | 0, _ => p.openRegion x.region a bs
  | 1, some r => p.publish x.region r x.version
  | 2, some r => p.rack x.region r x.version
  | _, some r => p.closeRegion x.region r
  | _, none => p

/-- A copy-on-write of a region has begun, and the access that asked for it is not performed yet (05 R127). Requests that
still wait at their page locks look at the changed region when their turn comes. -/
def Pkg.cowWaits (p : Pkg) (key : Nat) : Bool := p.cows.any (fun c => c.region == key && c.copied)

/-- The request of a packet or of a warp ends. -/
def Pkg.endSnap (p : Pkg) (x : Snap) (code : Nat) : Pkg :=
  if x.fromPacket then p.modPacket x.a x.b (if code = 0 then Packet.finished 0 0 else Packet.finished 5 code)
  else
    let fs : List Charge := if code = 0 then [] else [⟨0x0C, 0, BitVec.ofNat 16 (x.region % 16)⟩]
    let p := p.modWarp x.a x.b x.c (fun w => w.doneOp 6 x.d fs)
    match p.warp? x.a x.b x.c with
    | some w => if w.live = 0 ∧ fs ≠ [] then p.chargeExit x.a x.b x.c w.uncharged else p
    | none => p

/-- SNAPSHOT_ACTION_APPLY (05 R127): the oldest request of a region, once the copies-on-write that have begun are over; those of one
region are applied in the order in which they came. A warp's request on a region that was closed since is cause 0x0C. -/
def execSnapshotActionApply (i : Nat) (s : State) : Host.Outcome State Fault Refusal :=
  let p := s.pkg
  match p.snaps[i]? with
  | none => .next s
  | some x =>
    let down := p.dies.any (fun d => d.2.inReset || d.2.rebuild)
    if (p.snaps.take i).any (fun y => y.region == x.region) || p.cowWaits x.region || down then .next s
    else
      let p : Pkg := { p with snaps := p.snaps.eraseIdx i }
      if x.fromPacket then
        match p.snapCheck (p.queue x.a).cx x with
        | .error c => .next { s with pkg := (p.endSnap x c).settleQueue x.a }
        | .ok (a, bs) => .next { s with pkg := ((p.applySnap x a bs).endSnap x 0).settleQueue x.a }
      else
        match p.regions.find? x.region with
        | none => .next { s with pkg := p.endSnap x 4 }
        | some r =>
          if x.action = 2 ∧ r.floor < x.version ∧ (!r.pvalid ∨ r.pub < x.version) then .next { s with pkg := p.endSnap x 6 }
          else .next { s with pkg := (p.applySnap x 0 []).endSnap x 0 }

end Sys2Proof.Machine
end

