-- ==== Sys2Proof/Machine/Trace.lean ====
section
/-!
DEFINITION. Trace sessions: TRACE packets, samples, frames and the closing of a part (17_observation.md R386-R389,
26_scheduling_engine_failures.md R467, 27_containment_recovery.md R503).
-/

namespace Sys2Proof.Machine

/-! ## Records and frames (17 R388-R389) -/

/-- The uncompressed form of a record. -/
def TRec.bytes (r : TRec) : List Byte :=
  bytesOf 4 (r.type * 2 ^ 24 + r.split * 2 ^ 22 + r.warp * 2 ^ 16 + r.core * 2 ^ 7) ++ bytesOf 4 r.block ++
  bytesOf 4 r.mask.toNat ++ bytesOf 4 r.payload.toNat ++ bytesOf 8 r.pc.toNat ++ bytesOf 8 r.ptime.toNat

/-- A record of the compressor itself: GAP or TRUNC. -/
def TRec.own (type : Nat) (payload : Nat) (now : DWord) : TRec := ⟨type, 0, 0, 0, 0, 0, BitVec.ofNat 32 payload, 0, now⟩

/-- Records of a frame: each is coded whole, in 33 bytes (log 41). -/
def frameRecords : Nat := 123

/-- A frame of a die: its header and its coded records. -/
def frameBytes (j d : Nat) (rs : List TRec) : List Byte :=
  let first : DWord := match rs with | r :: _ => r.ptime | [] => 0
  bytesOf 4 0x7A3C0001 ++ bytesOf 4 (j % 2 ^ 32) ++ bytesOf 4 d ++ bytesOf 4 (32 + 33 * rs.length) ++
  bytesOf 8 first.toNat ++ List.replicate 8 0 ++
  rs.zipIdx.flatMap (fun r => BitVec.ofNat 8 (128 + 2 * (r.2 % 64)) :: r.1.bytes)

/-! ## Parts of a sink (17 R386-R387) -/

/-- Where the part of a die begins. -/
def TraceSess.part (t : TraceSess) (d : Nat) : DWord := t.sink + BitVec.ofNat 64 (d * (t.len / 4))

/-- Data frames of a part. -/
def TraceSess.frames (t : TraceSess) : Nat := t.len / 16384 - 1

/-- Change a session. -/
def Pkg.modTrace (p : Pkg) (q : Nat) (f : TraceSess → TraceSess) : Pkg := { p with traces := p.traces.modify q f }

/-- The compressor of a die for a queue's session as a master. -/
def traceMaster (q d : Nat) : Nat := masterOf d (3, 2 ^ 30 + q)

/-- A write to a part of a sink; poison there faults it. -/
def Pkg.sinkWrite (p : Pkg) (q d : Nat) (t : TraceSess) (va : DWord) (bs : List Byte) : Piece :=
  let poisoned : Bool := match p.xlateEngine t.ctx va .store with
    | .ok x => (match p.plainPa x with | some a => p.poisoned a | none => false)
    | .error _ => false
  if poisoned then .fail p ⟨0x1C, va, 0⟩ else Pkg.unitWrite (traceMaster q d) t.ctx 0 (bs.length + 1) p va bs

/-- Write the CLOSE word that a part still owes (26 R467): it stays owed while the write waits, and one that faults is given up. -/
def Pkg.payClose (p : Pkg) (q d : Nat) : Pkg :=
  match p.traces.find? q with
  | none => p
  | some t =>
    match t.closeDue.find? d with
    | none => p
    | some r =>
      let paid (p : Pkg) : Pkg := p.modTrace q (fun t => { t with closeDue := KMap.erase d t.closeDue })
      match p.sinkWrite q d t (t.part d + 0x18) (bytesOf 8 (2 ^ 31 + r)) with
      | .ok p _ => paid p
      | .fail p _ => paid p
      | .wait r => p.waiting r

/-- A part that is not closed closes with a REASON. -/
def Pkg.closeBy (p : Pkg) (q d reason : Nat) : Pkg :=
  match (p.traces.find? q).map (fun t => t.closed.find? d) with
  | some none => (p.modTrace q (fun t => { t with
      closed := KMap.insert d reason t.closed, closeDue := KMap.insert d reason t.closeDue })).payClose q d
  | _ => p

/-- The compressor of a die writes to its part, and whether that succeeded: an error with the package while the write waits; a
write that faults closes the part with REASON 3 (27 R503). -/
def Pkg.traceWrite (p : Pkg) (q d : Nat) (t : TraceSess) (va : DWord) (bs : List Byte) : Except Pkg (Pkg × Bool) :=
  match p.sinkWrite q d t va bs with
  | .ok p _ => .ok (p, true)
  | .fail p _ => .ok (p.closeBy q d 3, false)
  | .wait r => .error (p.waiting r)

/-- The word at an offset of a part's control frame. -/
def Pkg.traceWord (p : Pkg) (q d o v : Nat) : Except Pkg Pkg :=
  match p.traces.find? q with
  | none => .ok p
  | some t => (p.traceWrite q d t (t.part d + BitVec.ofNat 64 o) (bytesOf 8 v)).map (fun x => x.1)

/-- A frame is dropped whole (17 R387). -/
def Pkg.dropFrame (p : Pkg) (q d n : Nat) : Except Pkg Pkg :=
  let p := p.modTrace q (fun t => { t with
    recs := KMap.insert d ((t.recs.getD d []).drop n) t.recs
    dropped := t.dropped.setD d (t.dropped.getD d 0 + 1) 0
    gap := t.gap.setD d (t.gap.getD d 0 + 1) 0 })
  match p.traces.find? q with
  | none => .ok p
  | some t => p.traceWord q d 0x10 (t.dropped.getD d 0)

/-- Write the records that a die has, up to a frame of them: the frame is dropped where software has not read the one
in its place, and where the part is closed or the write faults (27 R503). An error with the package while an access waits. -/
def Pkg.writeFrame (p : Pkg) (q d : Nat) : Except Pkg Pkg :=
  match p.traces.find? q with
  | none => .ok p
  | some t =>
    let gap := t.gap.getD d 0
    let rs := (t.recs.getD d []).take (if gap = 0 then frameRecords else frameRecords - 1)
    if rs = [] then .ok p
    else if (t.closed.find? d).isSome then p.dropFrame q d rs.length
    else
      let j := t.wr.getD d 0
      match Pkg.unitRead (traceMaster q d) t.ctx true 9 p (t.part d + 8) 8 [] with
      | .wait r => .error (p.waiting r)
      | .fail p _ => (p.closeBy q d 3).dropFrame q d rs.length
      | .ok p rd =>
        if t.frames ≤ (BitVec.ofNat 64 j - BitVec.ofNat 64 (ofBytes rd)).toNat then p.dropFrame q d rs.length
        else
          let all := if gap = 0 then rs else TRec.own 0x0F gap p.ptime :: rs
          match p.traceWrite q d t (t.part d + BitVec.ofNat 64 (4096 * (1 + j % t.frames))) (frameBytes j d all) with
          | .error p => .error p
          | .ok (p, false) => p.dropFrame q d rs.length
          | .ok (p, true) =>
            (p.modTrace q (fun t => { t with
              recs := KMap.insert d ((t.recs.getD d []).drop rs.length) t.recs
              wr := KMap.insert d (j + 1) t.wr
              gap := KMap.erase d t.gap })).traceWord q d 0 (j + 1)

/-- Write every record of a die: up to `n` frames. -/
def Pkg.flushPart (q d : Nat) : Nat → Pkg → Except Pkg Pkg
  | 0, p => .ok p
  | n + 1, p =>
    match p.traces.find? q with
    | none => .ok p
    | some t => if t.recs.getD d [] = [] then .ok p else (p.writeFrame q d).bind (Pkg.flushPart q d n)

/-- Write every record of a die. -/
def Pkg.flushDie (p : Pkg) (q d : Nat) : Except Pkg Pkg :=
  match p.traces.find? q with
  | none => .ok p
  | some t => Pkg.flushPart q d ((t.recs.getD d []).length + 1) p

/-- Write every record of every die. -/
def Pkg.flushTrace (p : Pkg) (q : Nat) : Except Pkg Pkg :=
  (List.range 4).foldl (fun (r : Except Pkg Pkg) d => r.bind (fun p => p.flushDie q d)) (.ok p)

/-- The CLOSE word of a part is written, or its write is waited for: an error with the package. -/
def Pkg.settleClose (p : Pkg) (q d : Nat) : Except Pkg Pkg :=
  let p := p.payClose q d
  match (p.traces.find? q).bind (fun t => t.closeDue.find? d) with
  | some _ => .error p
  | none => .ok p

/-- A part ends (26 R467): its records and a TRUNC record where the session is cut short, then CLOSE with its REASON. A
part that is closed stays so; the records that it still has are dropped. -/
def Pkg.closePart (p : Pkg) (q d reason : Nat) (trunc : Option Nat) : Except Pkg Pkg :=
  match p.traces.find? q with
  | none => .ok p
  | some t =>
    let p := match t.closed.find? d, trunc with
      | none, some v => p.modTrace q (fun t => { t with recs := KMap.insert d (t.recs.getD d [] ++ [TRec.own 0x0E v p.ptime]) t.recs })
      | _, _ => p
    (p.flushDie q d).bind (fun p => (p.closeBy q d reason).settleClose q d)

/-- Every part ends, and with them the session. -/
def Pkg.closeTrace (p : Pkg) (q reason : Nat) (trunc : Option Nat) : Except Pkg Pkg :=
  ((List.range 4).foldl (fun (r : Except Pkg Pkg) d => r.bind (fun p => p.closePart q d reason trunc)) (.ok p)).map
    (fun p => { p with traces := KMap.erase q p.traces })

/-! ## TRACE packets (17 R386) -/

/-- OP of a TRACE packet. -/
def Packet.traceOp (x : Packet) : Nat := bits (recNat x.bytes 0x10 1) 1 0

/-- OPEN: a length or a number of sessions that R386 does not allow is refused; WR, DROPPED and CLOSE of each part
start at zero. -/
def Pkg.runTraceOpen (p : Pkg) (q n : Nat) (x : Packet) : Pkg :=
  let len := recNat x.bytes 0x20 4
  let refuse (o : Nat) : Pkg := (p.queueError q 7).modPacket q n (Packet.finished 1 o)
  if len % 16384 ≠ 0 ∨ len < 32768 then refuse 0x20
  else if 64 ≤ p.traces.length ∨ (p.traces.find? q).isSome then refuse 0x10
  else
    let t : TraceSess := ⟨BitVec.ofNat 64 (recNat x.bytes 0x18 8), len, (p.queue q).cx, [], [], [], [], [], []⟩
    let p : Pkg := { p with traces := KMap.insert q t p.traces }
    let words := (List.range 4).flatMap (fun d => [0, 0x10, 0x18].map (fun o => (d, o)))
    match words.foldl (fun (r : Except Pkg Pkg) x => r.bind (fun p => p.traceWord q x.1 x.2 0)) (.ok p) with
    | .ok p => p.modPacket q n (Packet.finished 0 0)
    | .error r => { p.waiting r with traces := KMap.erase q p.traces }

/-- CLOSE. -/
def Pkg.runTraceClose (p : Pkg) (q n : Nat) (_ : Packet) : Pkg :=
  match p.closeTrace q 0 none with
  | .ok p => p.modPacket q n (Packet.finished 0 0)
  | .error r => p.waiting r

/-- FLUSH. -/
def Pkg.runTraceFlush (p : Pkg) (q n : Nat) (_ : Packet) : Pkg :=
  match p.flushTrace q with
  | .ok p => p.modPacket q n (Packet.finished 0 0)
  | .error r => p.waiting r

/-- TRACE_OPEN; the reserved OP 3 is refused here. -/
def execTraceOpen (q n : Nat) (s : State) : Host.Outcome State Fault Refusal :=
  .next (packetStep (fun x => x.type == 8 && (x.traceOp == 0 || x.traceOp == 3)) (fun p q n x =>
    if x.traceOp = 3 then p.modPacket q n (Packet.finished 1 0x10) else p.runTraceOpen q n x) q n s)

/-- TRACE_CLOSE. -/
def execTraceClose (q n : Nat) (s : State) : Host.Outcome State Fault Refusal :=
  .next (packetStep (fun x => x.type == 8 && x.traceOp == 1) Pkg.runTraceClose q n s)

/-- TRACE_FLUSH. -/
def execTraceFlush (q n : Nat) (s : State) : Host.Outcome State Fault Refusal :=
  .next (packetStep (fun x => x.type == 8 && x.traceOp == 2) Pkg.runTraceFlush q n s)

/-! ## Samples and full frames -/

/-- Splits of a quadrant: block slot, warp, entry and the split. -/
def Core.splitsOf (k : Core) (quad : Nat) : List (Nat × Nat × Nat × Split) :=
  k.blocks.flatMap (fun b => (List.filter (fun w => portOf w.1 w.2.slot == quad) b.2.warps).flatMap (fun w =>
    (w.2.splits.zipIdx.filter (fun s => s.1.st != .free)).map (fun s => (b.1, w.1, s.2, s.1))))

/-- TRACE_SAMPLE (17 R388): every 4,096 slots of a quadrant, one each cycle of its die, one record of the split that has
waited longest. -/
def execTraceSample (core quad : Nat) (s : State) : Host.Outcome State Fault Refusal :=
  let p := s.pkg
  let k := p.core core
  let last := k.sampled.getD quad 0
  if 4 ≤ quad ∨ (p.cycOf core).toNat < last.toNat + 4096 then .next s
  else
    let p := p.modCore core (fun k => { k with sampled := KMap.insert quad (last + 4096) k.sampled })
    let oldest := (k.splitsOf quad).foldl (fun (a : Option (Nat × Nat × Nat × Split)) x => match a with
      | some y => if x.2.2.2.since < y.2.2.2.since then some x else a
      | none => some x) none
    match oldest with
    | none => .next { s with pkg := p }
    | some (b, w, sp, x) =>
      let pc := match p.block? core b with | some bl => (p.origPc bl w x.pc).1 | none => x.pc
      .next { s with pkg := p.emit core b 3 0x09 sp (recWarp w) x.mask 0 pc }

/-- TRACE_FRAME_WRITE: a compressor has a full frame; a CLOSE word that the part owes is written first. -/
def execTraceFrameWrite (q die : Nat) (s : State) : Host.Outcome State Fault Refusal :=
  let p := s.pkg.payClose q die
  match p.traces.find? q with
  | none => .next { s with pkg := p }
  | some t =>
    if 4 ≤ die ∨ (t.recs.getD die []).length < frameRecords ∨ (p.die die).inReset then .next { s with pkg := p }
    else
      match p.writeFrame q die with
      | .ok p => .next { s with pkg := p }
      | .error r => .next { s with pkg := p.waiting r }

end Sys2Proof.Machine
end

