-- ==== Sys2Proof/Machine/Place.lean ====
section
/-!
DEFINITION. The dispatcher: placement of blocks, reservations, retirement and the end of a grid
(02_execution_model.md R25-R27, R47-R51, R58, 13_front_end.md R314, R321-R325).
-/

namespace Sys2Proof.Machine

/-! ## Cores in the dispatcher's order (02 R47-R48) -/

/-- The core that step k of the cycle visits. -/
def stepCore (k : Nat) : Nat := 96 * (k % 4) + 8 * (k / 4 % 12) + k / 48

/-- Steps in order from the cursor. -/
def Pkg.stepsFrom (p : Pkg) (n : Nat) : List Nat := (List.range n).map (fun i => (p.cursor + i) % n)

/-! ## Room (02 R43, R47, R50-R51) -/

/-- Registers that the warps of a block take at placement. -/
def recRegs (r : List Byte) : Nat := ((recGroups r).map (fun e => 32 * e.1 * e.2)).sum

/-- Resident warps of a core. -/
def Core.warpsUsed (k : Core) : Nat :=
  (k.blocks.map (fun b => (List.filter (fun w => w.1 != armNo) b.2.warps).length)).sum

/-- Scratchpad bytes in use. -/
def Core.spUsed (k : Core) : Nat := (k.blocks.map (fun b => b.2.spSize)).sum

/-- Warps, registers and scratchpad that a block needs. -/
structure Need where
  carve : Nat
  warps : Nat
  regs : Nat
  sp : Nat
  deriving DecidableEq, Repr

/-- The needs of a block of a record. -/
def recNeed (r : List Byte) : Need := ⟨recCarve r, recWarps r, recRegs r, recScratch r⟩

/-- A core of the carve has what a block needs. -/
def Core.fits (k : Core) (n : Need) : Bool :=
  k.carve == n.carve && decide (k.blocks.length < 8) && decide (k.warpsUsed + n.warps ≤ 64) &&
  decide (n.regs ≤ k.poolFree) && decide (k.spUsed + n.sp ≤ carveScratch k.carve)

/-- A core has room for a new block: no claim waits there (02 R43). -/
def Core.hasRoom (k : Core) (n : Need) : Bool := k.fits n && k.claims.isEmpty

/-- A core holds no block, and once re-carved has room. -/
def Core.canCarve (k : Core) (n : Need) : Bool :=
  k.blocks.isEmpty && decide (n.regs ≤ carveRegs n.carve) && decide (n.sp ≤ carveScratch n.carve)

/-- The dispatcher places blocks on a die: it is not in reset, not being reset, and its throttle stage is below 2
(27 R496, R502). -/
def Die.places (d : Die) : Bool := !d.inReset && d.drain.isNone && decide (d.thr.stage < 2)

/-- The reservation of a core, which acts while its launch is READY or PLACING (13 R325). -/
def Pkg.resvOf (p : Pkg) (c : Nat) : Option Reserve :=
  (p.core c).resv.filter (fun r => match p.launch? r.launch with
    | some l => l.st == .ready || l.st == .placing
    | none => false)

/-- The die and the reservation of a core let a launch place there (02 R50-R51): beside the launch that reserved it, one of
higher priority whose carve matches; a guarded core takes the block of its launch alone, once it has drained. -/
def Pkg.allowed (p : Pkg) (id prio carve c : Nat) : Bool :=
  (p.die (dieOfCore c)).places &&
  (match p.resvOf c with
   | none => true
   | some r =>
     if r.guarded then r.launch == id && (p.core c).blocks.isEmpty
     else r.launch == id || ((p.core c).carve == carve && (match p.launch? r.launch with
       | some l => decide (prio < l.prio)
       | none => true)))

/-- The cores that take the next blocks of a launch, by cluster position, and the cursor after: the step after that of the
placement, for a cluster that of its (die, cluster) pair (02 R47-R48; for a cluster log 10, DESIGN CHOICE). -/
def Pkg.findPlace (p : Pkg) (id : Nat) (l : Launch) : Option (List Nat × Nat) :=
  let n := recNeed l.record
  let size := recClusterSize l.record
  let room (c : Nat) : Bool := p.allowed id l.prio n.carve c && (p.core c).hasRoom n
  let empty (c : Nat) : Bool := p.allowed id l.prio n.carve c && (p.core c).canCarve n
  if size = 1 then
    let ks := p.stepsFrom 384
    match ks.find? (fun k => room (stepCore k)) with
    | some k => some ([stepCore k], (k + 1) % 384)
    | none => (ks.find? (fun k => empty (stepCore k))).map (fun k => ([stepCore k], (k + 1) % 384))
  else
    let ks := p.stepsFrom 48
    let cores (k : Nat) : List Nat := (List.range size).map (fun j => stepCore k + j)
    match ks.find? (fun k => (cores k).all room) with
    | some k => some (cores k, (k + 1) % 384)
    | none => (ks.find? (fun k => (cores k).all (fun c => room c || empty c))).map (fun k => (cores k, (k + 1) % 384))

/-! ## Which launch is served (02 R48, 13 R325) -/

/-- A wait of a saved block may have ended: it waits on no event any more, or on room in the store or in an event table. -/
def Pkg.wakes (p : Pkg) (v : Saved) : Bool :=
  !v.waiting || v.block.warps.any (fun w => w.2.splits.any (fun s => match s.wait with
    | some x => (match x.kind with
        | .store => decide (p.storeUsed < 4096)
        | .event asid _ _ => !x.data.isEmpty && (decide (p.evLive < 8192) || decide (p.evUsed asid < v.block.ctx.evovfN))
        | _ => false)
    | none => false))

/-- The launch has a block to place: it is READY or PLACING, its queue runs, and no saved block that can go on stands
before it (02 R58, 13 R325). -/
def Pkg.wantsPlace (p : Pkg) (l : Launch) : Bool :=
  (l.st == .ready || l.st == .placing) && !l.ending && !p.hold && (p.queue l.q).st == .active &&
  decide (l.placed < recBlocks l.record) && l.saved.all (fun s => !p.wakes s.2)

/-- A launch of higher priority can place now. -/
def Pkg.outranked (p : Pkg) (l : Launch) : Bool :=
  p.launches.any (fun e => decide (e.2.prio < l.prio) && p.wantsPlace e.2 && (p.findPlace e.1 e.2).isSome)

/-! ## The end of a grid (02 R27, R40, 13 R322, R325, 26 R470) -/

/-- The completion that a child grid owes: its record and its event. -/
def Launch.owes (l : Launch) (now : DWord) : Owed :=
  ⟨l.ctx, l.q, if recComp l.record = 0 then none
    else some (recComp l.record, noteBytes 0 l.status l.detail l.start now l.retired l.faults), recCev l.record⟩

/-- Every block of a launch is over: all retired, or no further one is placed and none is left. -/
def Pkg.gridOver (p : Pkg) (id : Nat) (l : Launch) : Bool :=
  (l.ending || (l.retired == recBlocks l.record && l.saved.isEmpty)) &&
  !p.cores.any (fun k => k.2.blocks.any (fun b => b.2.launch == id))

/-- End a grid whose blocks are over and that has no descendant, then its parent (up to depth 10). -/
def Pkg.settleGrid : Nat → Pkg → Nat → Pkg
  | 0, p, _ => p
  | n + 1, p, id =>
    match p.launch? id with
    | none => p
    | some l =>
      if !p.gridOver id l ∨ l.st = .complete then p
      else
        let p := p.modLaunch id (fun l => { l with st := .retiring, stored := false, saved := [] })
        if p.launches.any (fun e => e.2.parent == some id) then p
        else
          let p : Pkg := { p with cores := (p.cores.map (fun k => (k.1, { k.2 with resv := (match k.2.resv with
            | some r => if r.launch = id then none else some r
            | none => none) }))) }
          let p := p.evWithdraw (fun w => match w with | .launch x _ => x == id | .saved x _ _ _ => x == id | _ => false)
          match l.packet with
          | some k => (p.modLaunch id (fun l => { l with st := .complete })).modPacket l.q k
              (fun x => { x with performed := true, done := true, status := l.status, detail := l.detail })
          | none =>
            let p : Pkg := { p with launches := KMap.erase id p.launches }
            let p := p.complete (l.owes p.ptime)
            match l.parent with
            | some a => Pkg.settleGrid n p a
            | none => p

/-- End a grid, where it is over. -/
def Pkg.endGrid (p : Pkg) (id : Nat) : Pkg := Pkg.settleGrid 11 p id

/-! ## Placing (02 R47, R49, 13 R321) -/

/-- The argument words of a grid by register: those of a spliced consumer take their fused registers (14 R339). Where two
words meet in one register, which one it holds is open (log 42). -/
def argRegs (tick : Nat) (own : List Word) (other : List (Nat × Word)) : KMap Word :=
  other.foldl (fun m o => if o.1 < own.length ∧ Config.choice tick o.1 % 2 = 0 then m else KMap.insert o.1 o.2 m)
    (own.zipIdx.map (fun e => (e.2, e.1)))

/-- Read the argument words of a record, as a master: none where the read fails, an error with the package while it
waits. -/
def Pkg.readArgs (p : Pkg) (d : Nat) (ctx : Ctx) (r : List Byte) : Except Pkg (Pkg × Option (List Word)) :=
  if recNarg r = 0 then .ok (p, some [])
  else (p.linkRead d ctx (BitVec.ofNat 64 (recNat r 0x20 8)) (4 * recNarg r)).map (fun x =>
    (x.1, x.2.map (fun bs => (wordsIn bs).map (BitVec.ofNat 32))))

/-- The present lanes of warp w of a block of n threads (02 R26). -/
def presentLanes (n w : Nat) : Mask := maskOf (fun l => decide (32 * w + l < n))

/-- Coordinates of the block at position j of cluster k, and its linear index (02 R26). -/
def blockAt (r : List Byte) (k j : Nat) : (Nat × Nat × Nat) × Nat :=
  let g := recGrid r
  let c := recCluster r
  let nx := g.1 / c.1
  let ny := g.2.1 / c.2.1
  let x := k % nx * c.1 + j % c.1
  let y := k / nx % ny * c.2.1 + j / c.1 % c.2.1
  let z := k / (nx * ny) * c.2.2 + j / (c.1 * c.2.1)
  ((x, y, z), x + y * g.1 + z * g.1 * g.2.1)

/-- The lowest n numbers below `top` that are not taken. -/
def lowestFree (taken : List Nat) (top n : Nat) : List Nat := ((List.range top).filter (fun i => !taken.contains i)).take n

/-- Warp slots that blocks of a core hold. -/
def Core.slotsUsed (k : Core) : List Nat :=
  k.blocks.flatMap (fun b => (List.filter (fun w => w.1 != armNo) b.2.warps).map (fun w => w.2.slot))

/-- Load the argument words into the lanes of a warp. -/
def Warp.loadArgs (w : Warp) (args : KMap Word) : Warp :=
  forLanes w.present (fun l w => args.foldl (fun w a => w.wr a.1 l a.2) w) w

/-- The warps and armature of a new block. -/
def newWarps (r : List Byte) (slots : List Nat) (args : KMap Word) : KMap Warp :=
  let wver : Word := BitVec.ofNat 32 (recNat r 0x38 4)
  let ws := (List.range (recWarps r)).map (fun w =>
    (w, (Warp.fresh (slots.getD w 0) (recAlloc r w) (presentLanes (recThreads r) w)
      (BitVec.ofNat 64 (recNat r 0x10 8)) wver).loadArgs args))
  if recNat r 0x18 8 = 0 then ws
  else ws ++ [(armNo, (Warp.fresh 0 64 1 (BitVec.ofNat 64 (recNat r 0x18 8)) wver).loadArgs args)]

/-- Re-carve an empty core (02 R49). -/
def Pkg.recarve (p : Pkg) (c carve : Nat) : Pkg :=
  if (p.core c).carve = carve then p
  else (p.l1WriteBack c).modCore c (fun k => { k with carve := carve, poolUsed := 0, l1 := ⟨[], [], [], []⟩ })

/-- Place one block on a core. Its first fetches and loads see what happened before the dispatch (06 R135, R137). -/
def Pkg.placeBlock (p : Pkg) (id : Nat) (l : Launch) (args : KMap Word) (k j c : Nat) : Pkg :=
  let p := ((p.recarve c (recCarve l.record)).l1WriteBack c).l1Invalidate c
  let b := (lowestFree (p.core c).blocks.keys 8 1).headD 0
  let at_ := blockAt l.record k j
  let ws := newWarps l.record (lowestFree (p.core c).slotsUsed 64 (recWarps l.record)) args
  let bl : Block := { Block.fresh id at_.2 at_.1.1 at_.1.2.1 at_.1.2.2 j k (recClusterSize l.record) l.ctx
    (recCarve l.record) (recScratch l.record) (recProducer l.record) ws with lastIssue := p.ptime }
  let p := p.modCore c (fun x => { x with
    blocks := KMap.insert b bl x.blocks
    poolUsed := x.poolUsed + recRegs l.record
    resv := (match x.resv with | some r => if r.launch = id then none else some r | none => none) })
  p.emit c b 4 0x07 0 0 0 0 0

/-- The argument words of a grid, read once when its placing begins (R321): none in the second place where a read fails,
an error with the package while it waits. -/
def Pkg.beginGrid (p : Pkg) (id : Nat) (l : Launch) : Except Pkg (Pkg × Option (KMap Word)) :=
  let d := opMaster xdie id
  match l.args with
  | some m => .ok (p, some m)
  | none =>
    (p.readArgs d l.ctx l.record).bind (fun x =>
      match x.2, l.splice with
      | none, _ => .ok (x.1, none)
      | some own, none => .ok (x.1, some (argRegs p.tick own []))
      | some own, some sp => (x.1.readArgs d l.ctx sp.record).map (fun y =>
          (y.1, y.2.map (fun ws => argRegs p.tick own (sp.args.zip ws)))))

/-- Place the next cluster of a launch. -/
def Pkg.placeNext (p : Pkg) (id : Nat) (l : Launch) (args : KMap Word) (cs : List Nat) (cursor : Nat) : Pkg :=
  let size := recClusterSize l.record
  let k := l.placed / size
  let p : Pkg := cs.zipIdx.foldl (fun p e => p.placeBlock id l args k e.2 e.1) { p with cursor := cursor }
  p.modLaunch id (fun l => { l with
    placed := l.placed + size, waited := p.ptime, stored := false
    st := if l.placed + size = recBlocks l.record ∧ l.saved.isEmpty then .resident else .placing })

/-- A launch finds no empty core and no core of its carve with room (02 R50). -/
def Pkg.finds (p : Pkg) (id : Nat) (l : Launch) : Bool :=
  let n := recNeed l.record
  (List.range 384).any (fun c => p.allowed id l.prio n.carve c && ((p.core c).hasRoom n || (p.core c).canCarve n))

/-- Reserve a core for a launch that found no room (02 R50), once; a core that another launch has reserved is passed over
(log 84, DESIGN CHOICE). -/
def Pkg.reserve (p : Pkg) (id : Nat) (l : Launch) : Pkg :=
  if p.cores.any (fun k => match k.2.resv with | some r => r.launch == id | none => false) || p.finds id l then p
  else
    let ok (c : Nat) : Bool := (p.die (dieOfCore c)).places && (p.resvOf c).isNone &&
      (p.core c).blocks.all (fun b => match p.launch? b.2.launch with | some x => decide (l.prio ≤ x.prio) | none => true)
    match ((p.stepsFrom 384).map stepCore).find? ok with
    | some c => p.modCore c (fun k => { k with resv := some ⟨id, false⟩ })
    | none => p

/-- BLOCK_PLACE: the next block or cluster of a launch, in the order of R47-R48; without room it takes a reservation. The
write-back of a core's L1 may have to wait (04 R97, 25 R458). -/
def execBlockPlace (id : Nat) (s : State) : Host.Outcome State Fault Refusal :=
  let p := s.pkg
  match p.launch? id with
  | none => .next s
  | some l =>
    if !p.wantsPlace l || p.outranked l then .next s
    else
      match p.findPlace id l with
      | none => .next { s with pkg := p.reserve id l }
      | some (cs, cur) =>
        if cs.any p.l1Barred then .next s
        else
        match p.beginGrid id l with
        | .error r => .next { s with pkg := p.waiting r }
        | .ok (p, none) =>
          let p := p.modLaunch id (fun l => { l with ending := true, status := 1, detail := 0x20 })
          .next { s with pkg := (p.endGrid id).settleQueue l.q }
        | .ok (p, some args) =>
          .next { s with pkg := (p.modLaunch id (fun l => { l with args := some args })).placeNext id l args cs cur }

/-- A launch waits for a guarded reservation (02 R51): for 1,000,000 ticks it has placed no block, and some core runs
another carve; that one such core is a mismatch is the model's reading (log 84, DESIGN CHOICE). -/
def Pkg.starved (p : Pkg) (id : Nat) (l : Launch) : Bool :=
  p.wantsPlace l && decide (l.waited.toNat + 1000000 ≤ p.ptime.toNat) && (p.findPlace id l).isNone &&
  ((List.range 384).any (fun c => (p.core c).carve != recCarve l.record))

/-- GUARDED_RESERVATION: at most one at a time, in priority order. -/
def execGuardedReservation (id : Nat) (s : State) : Host.Outcome State Fault Refusal :=
  let p := s.pkg
  match p.launch? id with
  | none => .next s
  | some l =>
    let held := p.cores.keys.any (fun c => match p.resvOf c with | some r => r.guarded | none => false)
    if held || !p.starved id l || p.launches.any (fun e => decide (e.2.prio < l.prio) && p.starved e.1 e.2) then .next s
    else
      match ((p.stepsFrom 384).map stepCore).find? (fun c => (p.die (dieOfCore c)).places) with
      | none => .next s
      | some c =>
        let p : Pkg := { p with cores := (p.cores.map (fun k => (k.1, { k.2 with resv := (match k.2.resv with
          | some r => if r.launch = id then none else some r
          | none => none) }))) }
        .next { s with pkg := p.modCore c (fun k => { k with resv := some ⟨id, true⟩ }) }

/-! ## Retirement (02 R27, R43, 10 R245, 11 R259, 12 R284, R292) -/

/-- Nothing that a block issued is outstanding: operations, calls, copies, collectives, version requests and pod-remote
accesses. -/
def Pkg.blockQuiet (p : Pkg) (c b : Nat) (bl : Block) : Bool :=
  bl.warps.all (fun w => w.2.calls.isEmpty && w.2.ops.all (fun o => o.done)) &&
  !p.cores.any (fun k => k.2.copies.any (fun y => y.2.home.isNone && y.2.ocore == c && y.2.slot == b)) &&
  !p.colls.any (fun y => y.2.home.isNone && y.2.ocore == c && y.2.slot == b) &&
  !p.pods.any (fun x => x.2.core == c && x.2.slot == b) &&
  !p.snaps.any (fun x => !x.fromPacket && x.a == c && x.b == b) && !(p.core c).mx.ops.any (fun o => o.slot == b)

/-- The resources of a block return to its core: registers, its block slot, the matrix unit, waiting claims and the handler
shadow (02 R43, 11 R259, 23 R426). -/
def Pkg.freeBlock (p : Pkg) (c b : Nat) (bl : Block) : Pkg :=
  let p := p.countRegions
  let regs := ((List.filter (fun w => w.1 != armNo) bl.warps).map (fun w => 32 * w.2.alloc)).sum
  let p := p.modCore c (fun k => Core.takeIn
    { k with
      blocks := KMap.erase b k.blocks
      poolUsed := k.poolUsed - regs
      claims := k.claims.filter (fun q => q.slot != b)
      shadow := (match k.shadow with | some (x, w) => if x = b then none else some (x, w) | none => none)
      mx := (if k.mx.owner = some b then k.mx.leave (k.mx.waiters.filter (· != b))
        else { k.mx with waiters := k.mx.waiters.filter (· != b) }) })
  p.serveClaims c

/-- Unmap every stash window of a block, with write-back. -/
def Pkg.freeStash (p : Pkg) (c b : Nat) (bl : Block) : Pkg := bl.stash.keys.foldl (fun p id => p.stashFree c b id) p

/-- Every warp of a block has exited and its armature is over. -/
def Block.finished (b : Block) : Bool :=
  b.mode == .running && b.warps.all (fun w =>
    if w.1 = armNo then b.armEnded
    else w.2.live == 0 && w.2.splits.all (fun s => s.st == .free) && w.2.dstack.isEmpty)

/-- BLOCK_RETIRE (R27). -/
def execBlockRetire (core slot : Nat) (s : State) : Host.Outcome State Fault Refusal :=
  let p := s.pkg
  match p.block? core slot with
  | none => .next s
  | some bl =>
    if !bl.finished || !p.blockQuiet core slot bl || p.l1Barred core then .next s
    else
      let p := ((p.freeStash core slot bl).l1WriteBack core).emit core slot 4 0x08 0 0 0 0 0
      let p := (p.freeBlock core slot bl).modLaunch bl.launch (fun l => { l with retired := l.retired + 1 })
      let p := p.endGrid bl.launch
      .next { s with pkg := match p.launch? bl.launch with | some l => p.settleQueue l.q | none => p }

end Sys2Proof.Machine
end

