-- ==== Sys2Proof/Machine/Image.lean ====
section
/-!
DEFINITION. The image of a saved block: what each section of 13_front_end.md R327 holds, how it is written to the save area and
how a restore takes it back (02_execution_model.md R28, R54, 23_faults_traps_stops.md R413, R430). The layout within the
sections is the spec's where it gives one and the model's elsewhere (log 25).
-/

namespace Sys2Proof.Machine

/-- A field of an image: its place and length in a section, its value, and what a restore makes of the value found there. -/
structure Item (α : Type) where
  off : Nat
  len : Nat
  get : α → Nat
  set : Nat → α → α

/-- A field that is written and taken from elsewhere at a restore. -/
def Item.shown {α : Type} (off len : Nat) (get : α → Nat) : Item α := ⟨off, len, get, fun _ a => a⟩

/-- A field of a part of something, further on in its image. -/
def Item.within {α β : Type} (o : Nat) (get : β → α) (upd : (α → α) → β → β) (i : Item α) : Item β :=
  ⟨o + i.off, i.len, fun b => i.get (get b), fun v => upd (i.set v)⟩

/-- The bytes of fields: where they stand, and what they hold. -/
def itemBytes {α : Type} (xs : List (Item α)) (a : α) : List (Nat × List Byte) := xs.map (fun i => (i.off, bytesOf i.len (i.get a)))

/-- Fields as package memory holds them from an address on. -/
def Pkg.readItems {α : Type} (p : Pkg) (at_ : Nat) (xs : List (Item α)) (a : α) : α :=
  xs.foldl (fun a i => i.set (ofBytes (p.readMem (at_ + i.off) i.len)) a) a

/-! ## Control section (02 R28, 13 R327) -/

/-- STATE of an entry (02 R29). -/
def SplitState.code : SplitState → Nat
  | .free => 0
  | .ready => 1
  | .parked => 2
  | .blocked => 3
  | .stopped => 4

/-- What R28 lays out of an entry of a split table or a divergence stack. -/
structure Entry where
  mask : Mask
  state : Nat
  pc : DWord
  reconv : DWord
  outer : DWord
  cstack : List DWord

/-- A split as an entry. -/
def Split.entry (s : Split) : Entry := ⟨s.mask, s.st.code, s.pc, s.reconv, s.outer, s.cstack⟩

/-- A split takes an entry's fields; its state is as saved (02 R55). -/
def Split.ofEntry (s : Split) (e : Entry) : Split :=
  { s with mask := e.mask, pc := e.pc, reconv := e.reconv, outer := e.outer, cstack := e.cstack }

/-- An entry of the divergence stack, where STATE reads zero. -/
def DEntry.entry (s : DEntry) : Entry := ⟨s.mask, 0, s.pc, s.reconv, s.outer, s.cstack⟩

/-- An entry of the divergence stack takes an entry's fields. -/
def DEntry.ofEntry (s : DEntry) (e : Entry) : DEntry :=
  { s with mask := e.mask, pc := e.pc, reconv := e.reconv, outer := e.outer, cstack := e.cstack }

/-- The fields of an entry at an offset (02 R28), with its call stack at another. -/
def entryItems (o so : Nat) : List (Item Entry) :=
  [⟨o, 4, fun e => e.mask.toNat, fun v e => { e with mask := BitVec.ofNat 32 v }⟩,
   ⟨o + 4, 4, fun e => 16 * e.cstack.length + e.state, fun v e =>
     { e with cstack := (e.cstack ++ List.replicate 8 0).take (min 8 (v / 16 % 16)) }⟩,
   ⟨o + 8, 8, fun e => e.pc.toNat, fun v e => { e with pc := BitVec.ofNat 64 v }⟩,
   ⟨o + 16, 8, fun e => e.reconv.toNat, fun v e => { e with reconv := BitVec.ofNat 64 v }⟩,
   ⟨o + 24, 8, fun e => e.outer.toNat, fun v e => { e with outer := BitVec.ofNat 64 v }⟩] ++
  (List.range 8).map (fun k =>
    ⟨so + 8 * k, 8, fun e => (e.cstack.getD k 0).toNat, fun v e => { e with cstack := e.cstack.set k (BitVec.ofNat 64 v) }⟩)

/-- The fields of split entry k, at given offsets. -/
def splitItems (k o so : Nat) : List (Item Warp) :=
  (entryItems o so).map (Item.within 0 (fun w => (w.splits.getD k Split.free).entry)
    (fun f w => w.modSplit k (fun s => s.ofEntry (f s.entry))))

/-- The fields of entry k of the divergence stack. -/
def deepItems (k o so : Nat) : List (Item Warp) :=
  (entryItems o so).map (Item.within 0 (fun w => ((w.dstack[k]?).map DEntry.entry).getD Split.free.entry)
    (fun f w => { w with dstack := w.dstack.modify k (fun s => s.ofEntry (f s.entry)) }))

/-- A fault record (23 R413) from its 64 bytes; what a resumption needs besides stays. -/
def FRec.ofNat (v : Nat) (f : FRec) : FRec :=
  { f with
    cause := bits v 31 24, split := bits v 23 22, warp := bits v 21 16, skid := bits v 15 8
    imprecise := bit v 7, consumer := bit v 6, origin := bit v 5, lost := bit v 4
    lanes := BitVec.ofNat 32 (bits v 63 32), pc := BitVec.ofNat 64 (bits v 127 64), addr := BitVec.ofNat 64 (bits v 191 128)
    aux := BitVec.ofNat 16 (bits v 207 192), skidcyc := bits v 222 216, act := BitVec.ofNat 2 (bits v 225 224)
    stops := (List.range f.stops.length).map (fun k => BitVec.ofNat 64 (bits v (319 + 64 * k) (256 + 64 * k))) }

/-- A fault record in 64 bytes. -/
def recordItem (o : Nat) : Item Warp :=
  ⟨o, 64, fun w => packRow 32 (w.frec.words.map BitVec.toNat), fun v w => { w with frec := FRec.ofNat v w.frec }⟩

/-- A queue binding as a number; 0 is none. -/
def bindCode : Option Bind → Nat
  | none => 0
  | some b => 1 + 2 * b.cls + 32 * b.peerq + 256 * b.peer + 65536 * b.group

/-- The binding of a number. -/
def bindFrom (v : Nat) : Option Bind :=
  if v % 2 = 0 then none else some ⟨bits v 4 1, bits v 7 5, bits v 15 8, bits v 31 16⟩

/-- The warp words. -/
def wordItems : List (Item Warp) :=
  [⟨0x780, 1, fun w => rmCode w.fprm, fun v w => { w with fprm := rmOf (v % 4) }⟩,
   ⟨0x781, 1, fun w => w.fpflags.toNat, fun v w => { w with fpflags := BitVec.ofNat 5 v }⟩,
   ⟨0x782, 1, fun w => w.fptrap.toNat, fun v w => { w with fptrap := BitVec.ofNat 5 v }⟩,
   ⟨0x784, 4, fun w => w.wver.toNat, fun v w => { w with wver := BitVec.ofNat 32 v }⟩] ++
  (List.range 7).map (fun c => Item.shown (0x788 + 2 * c) 2 (fun w => w.count c)) ++
  [⟨0x798, 8, fun w => w.feedCur, fun v w => { w with feedCur := v }⟩,
   ⟨0x7A0, 8, fun w => w.copySeq, fun v w => { w with copySeq := v }⟩,
   ⟨0x7A8, 4, fun w => w.stkBase.toNat, fun v w => { w with stkBase := BitVec.ofNat 32 v }⟩,
   ⟨0x7AC, 4, fun w => w.stkCap, fun v w => { w with stkCap := v }⟩] ++
  (List.range 8).map (fun q => ⟨0x7B0 + 4 * q, 4, fun w => bindCode (w.bind? q), fun v w =>
    { w with binds := match bindFrom v with | some b => KMap.insert q b w.binds | none => KMap.erase q w.binds }⟩) ++
  [recordItem 0x7D0]

/-- Split table, call stacks and divergence stack with its call-stack images (13 R327). The top of the divergence stack stands at
its first place, and the places that it does not use hold free values (log 25, DESIGN CHOICE). -/
def Warp.controlImage (w : Warp) : List (Item Warp) :=
  (List.range w.splits.length).flatMap (fun k => splitItems k (32 * k) (0x80 + 64 * k)) ++
  (List.range w.dstack.length).flatMap (fun k => deepItems k (0x180 + 96 * k) (0x1A0 + 96 * k))

/-! ## Lanes, registers and queues -/

/-- The 64 bytes of a lane: predicates, x0-x3, stack DEPTH, TOP and OVF, region status. -/
def laneItems (o l : Nat) : List (Item Warp) :=
  [⟨o, 1, fun w => (w.predBits l).toNat, fun v w => w.setPredBits l (BitVec.ofNat 7 v)⟩] ++
  (List.range 4).map (fun x => ⟨o + 4 + 4 * x, 4, fun w => (w.ix x l).toNat, fun v w => w.setIx x l (BitVec.ofNat 32 v)⟩) ++
  [⟨o + 20, 4, fun w => w.stkDepth.getD l 0, fun v w => { w with stkDepth := w.stkDepth.setD l v 0 }⟩,
   ⟨o + 24, 4, fun w => w.stkTop.getD l 0, fun v w => { w with stkTop := w.stkTop.setD l v 0 }⟩,
   ⟨o + 28, 1, fun w => (w.stkOvf.getLsbD l).toNat, fun v w => { w with stkOvf := setBit w.stkOvf l (bit v 0) }⟩,
   ⟨o + 32, 4, fun w => (w.arStat.getD l 0).toNat, fun v w => { w with arStat := w.arStat.setD l (BitVec.ofNat 32 v) 0 }⟩]

/-- Register r of lane l. -/
def regItem (o r l : Nat) : Item Warp := ⟨o, 4, fun w => (w.rd r l).toNat, fun v w => w.wr r l (BitVec.ofNat 32 v)⟩

/-- The first n registers from an offset on, lane-major. -/
def regItems (o n : Nat) : List (Item Warp) :=
  (List.range 32).flatMap (fun l => (List.range n).map (fun r => regItem (o + 4 * (l * n + r)) r l))

/-- Control, lanes and registers of a warp. -/
def Warp.items (w : Warp) : List (Item Warp) :=
  w.controlImage ++ wordItems ++ (List.range 32).flatMap (fun l => laneItems (2304 + 64 * l) l) ++ regItems 4352 w.alloc

/-- What a handler shadow holds (23 R426): split table and stacks in 2 KiB, v0-v31 in 4 KiB, the index registers, and the
predicates with FPTRAP. -/
def Warp.shadowItems (w : Warp) : List (Item Warp) :=
  w.controlImage ++ regItems 0x800 32 ++
  (List.range 32).flatMap (fun l => (List.range 4).map (fun x =>
    ⟨0x1800 + 4 * (4 * l + x), 4, fun w => (w.ix x l).toNat, fun v w => w.setIx x l (BitVec.ofNat 32 v)⟩)) ++
  (List.range 32).map (fun l => ⟨0x1A00 + l, 1, fun w => (w.predBits l).toNat, fun v w => w.setPredBits l (BitVec.ofNat 7 v)⟩) ++
  [⟨0x1A20, 1, fun w => w.fptrap.toNat, fun v w => { w with fptrap := BitVec.ofNat 5 v }⟩]

/-- Records of a warp's queue image. -/
def Warp.queueImage (w : Warp) : Nat :=
  (List.filter (fun e => !e.2.isEmpty) w.sbuf).length + w.calls.length + (w.rets.map (fun e => e.2.length)).sum

/-- The 64-byte records of a warp's queue image: unsent records, calls that await their return, return records. -/
def Warp.queueRecords (w : Warp) (calls : KMap Call) : List (List Word) :=
  (List.filter (fun e => !e.2.isEmpty) w.sbuf).map (fun e => e.2) ++
  w.calls.map (fun r => ((calls.find? r.call).map Call.words).getD []) ++
  w.rets.flatMap (fun e => e.2.map RetRec.words)

/-- Bytes of a warp's sections: control, lanes, registers and queue image. -/
def Warp.imageLen (w : Warp) : Nat := 4352 + 128 * w.alloc + 64 * w.queueImage

/-! ## Barriers, claims, armature and matrix unit -/

/-- A barrier: its phase count, its expected count and the arrivals of each participant (08 R197). -/
def barItems (o : Nat) : List (Item Bar) :=
  [⟨o, 4, fun b => b.phase % 2 ^ 32, fun v b => { b with phase := b.phase / 2 ^ 32 * 2 ^ 32 + v }⟩,
   ⟨o + 4, 4, fun b => (match b.expect with | none => 0 | some none => 1 | some (some n) => n + 2), fun v b =>
     { b with expect := if v = 0 then none else if v = 1 then some none else some (some (v - 2)) }⟩] ++
  (List.range 33).map (fun w => ⟨o + 8 + 4 * w, 4, fun b => (b.arrived.getD w 0).toNat, fun v b =>
    { b with arrived := b.arrived.setD w (BitVec.ofNat 32 v) 0 }⟩)

/-- The numbered barriers of a block. -/
def blockBarItems : List (Item Block) :=
  (List.range 16).flatMap (fun n => (barItems (140 * n)).map (Item.within 0 (fun b => b.bars.getD n Bar.zero)
    (fun f b => { b with bars := b.bars.setD n (f (b.bars.getD n Bar.zero)) Bar.zero })))

/-- The cluster barriers as the block's participants stand at them; a restore takes them from the cluster. -/
def cbarBytes (bar : Nat → Bar) (cpos : Nat) : List (Nat × List Byte) :=
  (List.range 8).flatMap (fun n =>
    let b := bar n
    itemBytes (barItems (2240 + 140 * n)) { b with arrived := (List.range 33).map (fun w => (w, b.arrived.getD (64 * cpos + w) 0)) })

/-- The context of an armature (02 R36): s0-s63, predicates, PC and call stack, its record and its counters. -/
def armItems : List (Item Warp) :=
  (List.range 64).map (fun r => regItem (4 * r) r 0) ++
  [⟨0x100, 1, fun w => (w.predBits 0).toNat, fun v w => w.setPredBits 0 (BitVec.ofNat 7 v)⟩] ++
  splitItems 0 0x110 0x130 ++ [recordItem 0x180] ++
  [2, 4, 6].map (fun c => Item.shown (0x1C0 + 2 * c) 4 (fun w => w.count c))

/-- The write side of the block feed queue. -/
def feedItems : List (Item Block) :=
  [⟨0x1D0, 8, fun b => b.feedBase, fun v b => { b with feedBase := v }⟩,
   Item.shown 0x1D8 4 (fun b => b.feed.length)] ++
  (List.range 64).map (fun k => ⟨0x200 + 4 * k, 4, fun b => (b.feed.getD k 0).toNat, fun v b =>
    { b with feed := b.feed.set k (BitVec.ofNat 32 v) }⟩)

/-- n values of w bits from a key on, as one number. -/
def rowNat {w : Nat} (bits_ : Nat) (m : KMap (BitVec w)) (key n : Nat) : Nat :=
  packRow bits_ ((List.range n).map (fun i => (m.getD (key + i) 0).toNat))

/-- A map whose n values from a key on are those of a number. -/
def rowPut {w : Nat} (bits_ : Nat) (m : KMap (BitVec w)) (key n v : Nat) : KMap (BitVec w) :=
  List.filter (fun e => decide (e.1 < key)) m ++
  ((List.range n).map (fun i => (key + i, BitVec.ofNat w (v / 2 ^ (bits_ * i) % 2 ^ bits_)))).filter (fun e => e.2 != 0) ++
  List.filter (fun e => decide (key + n ≤ e.1)) m

/-- Code of an accumulator's kind. -/
def AccKind.code : AccKind → Nat
  | .none => 0
  | .f64 => 1
  | .f32 => 2
  | .i32 => 3

/-- An accumulator's rows: 32 of 64-bit elements, or 64 of 32-bit ones (11 R260). -/
def accItems (o : Nat) (k : AccKind) (get : Matrix → KMap DWord) (put : KMap DWord → Matrix → Matrix) : List (Item Matrix) :=
  let eb : Nat := if k = .f64 then 64 else 32
  (List.range (if k = .f64 then 32 else 64)).map (fun r =>
    ⟨o + 24 * eb * r, 24 * eb, fun m => rowNat eb (get m) (192 * r) 192, fun v m => put (rowPut eb (get m) (192 * r) 192 v) m⟩)

/-- The state of the matrix unit (11 R260): format and kinds, A row buffer, B scales, B tile and both accumulators. -/
def Matrix.items (m : Matrix) : List (Item Matrix) :=
  let f := (m.bfmt.getD 0) % 16
  let eb := fmtBits f
  [Item.shown 0 4 (fun m => match m.bfmt with | none => 0 | some x => x + 1),
   Item.shown 4 1 (fun m => m.kind0.code), Item.shown 5 1 (fun m => m.kind1.code)] ++
  (List.range 2).map (fun j => ⟨0x100 + 256 * j, rowLen f (fmtK f), fun m => rowNat eb m.rowbuf (256 * j) (fmtK f), fun v m =>
    { m with rowbuf := rowPut eb m.rowbuf (256 * j) (fmtK f) v }⟩) ++
  (List.range 16).map (fun i => ⟨0x400 + 192 * i, 192, fun m => rowNat 8 m.bscale (192 * i) 192, fun v m =>
    { m with bscale := rowPut 8 m.bscale (192 * i) 192 v }⟩) ++
  (List.range (fmtK f)).map (fun k => ⟨0x4000 + rowLen f 192 * k, rowLen f 192, fun m => rowNat eb m.btile (192 * k) 192, fun v m =>
    { m with btile := rowPut eb m.btile (192 * k) 192 v }⟩) ++
  accItems 0x10000 m.kind0 Matrix.acc0 (fun a m => { m with acc0 := a }) ++
  accItems 0x1C000 m.kind1 Matrix.acc1 (fun a m => { m with acc1 := a })

/-! ## The sections of an image (13 R327, 23 R430) -/

/-- Warps of an image, in order. -/
def Block.savedWarps (b : Block) : List (Nat × Warp) := List.filter (fun w => w.1 != armNo) b.warps

/-- Bytes of a block's image. -/
def imageSize (b : Block) (matrix shadow : Bool) : Nat :=
  256 + (b.savedWarps.map (fun w => w.2.imageLen)).sum + b.spSize + 4096 + 1024 +
  (if matrix then 163840 else 0) + (if shadow then 7168 else 0)

/-- The warps with the offset of their sections, from an offset on, and the offset after them. -/
def imageWarps : List (Nat × Warp) → Nat → List (Nat × Nat × Warp) × Nat
  | [], o => ([], o)
  | e :: t, o => let r := imageWarps t (o + e.2.imageLen); ((o, e.1, e.2) :: r.1, r.2)

/-- The warps of a block's image: the sections stand in the order of R327, warp by warp, without gaps (log 25). -/
def Block.imageWarps (b : Block) : List (Nat × Nat × Warp) × Nat := Sys2Proof.Machine.imageWarps b.savedWarps 256

/-- The scratchpad bytes of a block that no stash window covers (02 R54). -/
def Block.ownBytes (b : Block) : List Nat :=
  (List.range b.spSize).filter (fun o => b.stash.all (fun s => decide (o < s.2.off ∨ s.2.off + s.2.len ≤ o)))

/-- Where the scratchpad, the barriers, the armature, the matrix unit and the handler shadow of an image begin. -/
def Saved.sections (v : Saved) : List Nat :=
  let sp := v.block.imageWarps.2
  let arm := sp + v.block.spSize + 4096
  [sp, sp + v.block.spSize, arm, arm + 1024, arm + 1024 + (if v.matrix.isSome then 163840 else 0)]

/-- Change the block of a saved one. -/
def Saved.mod (f : Block → Block) (v : Saved) : Saved := { v with block := f v.block }

/-- A warp of a saved block. -/
def Saved.onWarp (w : Nat) (o : Nat) (i : Item Warp) : Item Saved :=
  i.within o (fun v => (v.block.warps.find? w).getD (Warp.fresh 0 0 0 0 0))
    (fun f => Saved.mod (fun b => { b with warps := b.warps.modify w f }))

/-- The fields of an image that stand at stated places. -/
def Saved.items (v : Saved) : List (Item Saved) :=
  let at_ (k : Nat) : Nat := v.sections.getD k 0
  let onBlock (o : Nat) (i : Item Block) : Item Saved := i.within o Saved.block Saved.mod
  v.block.imageWarps.1.flatMap (fun x => x.2.2.items.map (Saved.onWarp x.2.1 x.1)) ++
  v.block.ownBytes.map (fun o => onBlock (at_ 0 + o) ⟨0, 1, fun b => (b.spByte o).toNat, fun n b =>
    { b with sp := b.sp.setD o (BitVec.ofNat 8 n) 0 }⟩) ++
  blockBarItems.map (onBlock (at_ 1)) ++
  (List.range v.claims.length).map (fun k => ⟨at_ 1 + 3360 + 4 * k, 4,
    fun v => let c := v.claims.getD k (0, 0, 0); c.1 + 256 * c.2.1 + 65536 * c.2.2,
    fun n v => { v with claims := v.claims.set k (bits n 7 0, bits n 15 8, bits n 31 16) }⟩) ++
  (match v.block.warps.find? armNo with
   | some _ => armItems.map (Saved.onWarp armNo (at_ 2)) ++ feedItems.map (onBlock (at_ 2))
   | none => []) ++
  (match v.matrix with
   | some m => m.items.map (Item.within (at_ 3) (fun v => v.matrix.getD m) (fun f v => { v with matrix := v.matrix.map f }))
   | none => []) ++
  (match v.shadow with
   | some s => s.2.shadowItems.map (Item.within (at_ 4) (fun v => (v.shadow.getD s).2)
       (fun f v => { v with shadow := v.shadow.map (fun x => (x.1, f x.2)) }))
   | none => [])

/-- The header: block index, grid identity, cluster position, carve, warp count, producer, the offsets of the sections and the
sub-group allocations. -/
def Saved.header (v : Saved) : List (Nat × List Byte) :=
  let b := v.block
  let ws := b.imageWarps.1
  [(0, bytesOf 4 b.index), (4, bytesOf 4 b.bx), (8, bytesOf 4 b.by_), (12, bytesOf 4 b.bz), (16, bytesOf 4 b.launch),
   (20, bytesOf 4 b.cluster), (24, bytesOf 1 b.cpos), (25, bytesOf 1 b.carve), (26, bytesOf 1 ws.length), (27, bytesOf 1 b.prod)] ++
  v.sections.zipIdx.map (fun x => (0x20 + 4 * x.2, bytesOf 4 x.1)) ++
  ws.zipIdx.map (fun x => (0x40 + x.2, bytesOf 1 (x.1.2.2.alloc / 4))) ++ ws.zipIdx.map (fun x => (0x80 + 4 * x.2, bytesOf 4 x.1.1))

/-- The queue images of the warps. -/
def Saved.queues (v : Saved) : List (Nat × List Byte) :=
  v.block.imageWarps.1.flatMap (fun x => (x.2.2.queueRecords v.calls).zipIdx.map (fun r =>
    (x.1 + 4352 + 128 * x.2.2.alloc + 64 * r.2, r.1.flatMap (fun n => bytesOf 4 n.toNat))))

/-- What an image holds at stated places: offsets and bytes. -/
def Saved.parts (v : Saved) (cbar : Nat → Bar) : List (Nat × List Byte) :=
  v.header ++ v.queues ++ (cbarBytes cbar v.block.cpos).map (fun x => (v.sections.getD 1 0 + x.1, x.2)) ++ itemBytes v.items v

/-- An image is written: the parts that have stated places, and free bytes elsewhere (log 25). -/
def Pkg.writeImage (p : Pkg) (base n : Nat) (parts : List (Nat × List Byte)) : Pkg :=
  let a := base % 2 ^ 46
  let p := (List.range ((n + 255) / 256)).foldl (fun p k =>
    p.engineStore (a + 256 * k) ((List.range 256).map (fun i => Config.freeByte p.tick (a + 256 * k + i)))) p
  parts.foldl (fun p x => p.writeMem (a + x.1) x.2) p

/-- What an image holds at stated places comes back from it (log 25). -/
def Pkg.readImage (p : Pkg) (v : Saved) : Saved := p.readItems (v.base % 2 ^ 46) v.items v

end Sys2Proof.Machine
end

