-- ==== Sys2Proof/Machine/Save.lean ====
section
/-!
DEFINITION. Saving and restoring blocks: pre-emption of a queue, event-waiting blocks, and the images in a queue's save
area (02_execution_model.md R52-R58, 13_front_end.md R326-R328, 23_faults_traps_stops.md R430).
-/

namespace Sys2Proof.Machine

/-! ## Settling (02 R53) -/

/-- Every write of a warp is over: no pod-remote access will write its registers, no store of it waits for a copy. -/
def Warp.landed (w : Warp) : Bool := w.busy.isEmpty && w.splits.all (fun s => !s.inCow)

/-- Every warp of a halted block is at its stop, and its loads and stores have landed (23 R422, 25 R455). -/
def Block.allStopped (b : Block) : Bool :=
  b.warps.all (fun w => w.2.live == 0 ||
    (w.2.halt == .stopped && w.2.landed && w.2.splits.all (fun s => s.st == .free || s.st == .stopped)))

/-- A copy reads or writes scratchpad of a block. -/
def Pkg.copyTouches (p : Pkg) (y : Copy) (c b : Nat) : Bool :=
  let here (x : Nat × Nat × Nat) : Bool := x.1 == c && x.2.1 == b
  y.home.isNone && y.form != 2 &&
  ((y.ocore == c && y.slot == b) || ((p.copyDests y).getD []).any here || (!y.gsrc && (p.copySource y).any here))

/-- A call needs no completion before a save: it is held for its token, wherever it stands (15 R351), or lies between two warps of
its block. -/
def Pkg.keepsCall (p : Pkg) (c id : Nat) (x : Call) : Bool :=
  x.cls == 8 || (!x.done && ((p.core c).unitHold.any (fun e => e.2.contains id) || p.callHeld c id))

/-- A block is settled and can be saved: operations on its registers and scratchpad are over, a halt under way has
stopped every warp, its core's L1 can be written back, and it is not being killed. -/
def Pkg.canSave (p : Pkg) (c b : Nat) (bl : Block) : Bool :=
  let k := p.core c
  !k.mx.ops.any (fun o => o.slot == b) && !p.l1Barred c && !p.pods.any (fun x => x.2.core == c && x.2.slot == b) &&
  !p.snaps.any (fun x => !x.fromPacket && x.a == c && x.b == b) &&
  !p.cores.any (fun x => x.2.copies.any (fun y => p.copyTouches y.2 c b)) &&
  k.calls.all (fun e => e.2.slot != b || p.keepsCall c e.1 e.2) &&
  bl.warps.all (fun w => w.2.splits.all (fun s => !s.inCow)) &&
  (match bl.mode with
   | .running | .held _ | .handler _ _ => true
   | .halting _ .kill | .ending => false
   | .halting _ _ => bl.allStopped)

/-! ## Images (13 R327, 23 R430) -/

/-- The block uses the handler shadow of its core. -/
def Core.shadowOf (k : Core) (b : Nat) : Option (Nat × Warp) :=
  match k.shadow with | some (x, w) => if x = b then some (x, w) else none | none => none

/-- Bytes of the image of a resident block. -/
def Pkg.imageOf (p : Pkg) (c b : Nat) (bl : Block) : Nat :=
  let k := p.core c
  imageSize bl (k.mx.owner == some b) (k.shadowOf b).isSome

/-- Images of a queue: their places and sizes. -/
def Pkg.images (p : Pkg) (q : Nat) : List (Nat × Nat) :=
  p.launches.flatMap (fun e => if e.2.q = q then e.2.saved.map (fun s => (s.2.base, s.2.size)) else [])

/-- The lowest place of a save area, 64 KiB aligned, that an image fits besides others. -/
def Queue.placeImage (k : Queue) (used : List (Nat × Nat)) (n : Nat) : Option Nat :=
  let area := k.saveBase.toNat / 65536 * 65536
  let starts := area :: used.map (fun u => (u.1 + u.2 + 65535) / 65536 * 65536)
  let ok (a : Nat) : Bool := decide (a + n ≤ area + 65536 * k.savePages) && used.all (fun u => decide (a + n ≤ u.1 ∨ u.1 + u.2 ≤ a))
  (starts.filter ok).foldl (fun m a => match m with | some x => some (min x a) | none => some a) none

/-- The place of one more image of a queue, in package memory. -/
def Pkg.placeImage (p : Pkg) (q n : Nat) : Option Nat :=
  ((p.queue q).placeImage (p.images q) n).bind (fun a => if (p.inMemory a n).isSome then some a else none)

/-- The place of an image holds poison. -/
def Pkg.imagePoisoned (p : Pkg) (base n : Nat) : Bool :=
  p.poison.any (fun s => decide (base % 2 ^ 46 < 64 * s + 64 ∧ 64 * s < base % 2 ^ 46 + n))

/-! ## Saving a block (02 R52-R54, 13 R326) -/

/-- The waiters, copies and collectives of a resident block follow it into its image. -/
def Pkg.moveOut (p : Pkg) (c b l ix : Nat) : Pkg :=
  let ev (w : EvWaiter) : EvWaiter := match w with
    | .split x y wp sp => if x = c ∧ y = b then .saved l ix wp sp else .split x y wp sp
    | w => w
  { p with
    events := (p.events.map (fun e => (e.1, { e.2 with waiters := e.2.waiters.map (fun w => (ev w.1, w.2)) })))
    cores := (p.cores.map (fun k => (k.1, { k.2 with copies := (k.2.copies.map (fun y =>
      (y.1, if y.2.home.isNone && y.2.ocore == c && y.2.slot == b then { y.2 with home := some (l, ix) } else y.2))) })))
    colls := (p.colls.map (fun y =>
      (y.1, if y.2.home.isNone && y.2.ocore == c && y.2.slot == b then { y.2 with home := some (l, ix) } else y.2))) }

/-- They follow it back to a core. -/
def Pkg.moveIn (p : Pkg) (c b l ix : Nat) : Pkg :=
  let ev (w : EvWaiter) : EvWaiter := match w with
    | .saved x y wp sp => if x = l ∧ y = ix then .split c b wp sp else .saved x y wp sp
    | w => w
  { p with
    events := (p.events.map (fun e => (e.1, { e.2 with waiters := e.2.waiters.map (fun w => (ev w.1, w.2)) })))
    cores := (p.cores.map (fun k => (k.1, { k.2 with copies := (k.2.copies.map (fun y =>
      (y.1, if y.2.home = some (l, ix) then { y.2 with home := none, ocore := c, slot := b } else y.2))) })))
    colls := (p.colls.map (fun y =>
      (y.1, if y.2.home = some (l, ix) then { y.2 with home := none, ocore := c, slot := b } else y.2))) }

/-- A warp stops for a save: open regions abort with the reason for pre-emption, and begun prefix runs are dropped. -/
def Warp.stopForSave (w : Warp) : Warp :=
  let w := w.abortAll 0x0B
  { w with splits := w.splits.map Split.dropRun }

/-- The warps of a block stop for a save; its regions are counted. -/
def Pkg.stopForSave (p : Pkg) (c b : Nat) : Pkg :=
  (p.modBlock c b (fun bl => { bl with warps := (bl.warps.map (fun w => (w.1, w.2.stopForSave))) })).countRegions

/-- Stash windows are written back and kept as mappings with every sector unfilled. -/
def Pkg.emptyStash (p : Pkg) (c b : Nat) (bl : Block) : Pkg :=
  bl.stash.keys.foldl (fun p id => ((p.stashClean c b id).stashForget c b id).modBlock c b (fun bl =>
    { bl with stash := bl.stash.modify id (fun (s : Stash) => { s with pages := [], ro := [] }) })) p

/-- The core number under which a saved block keeps the places of its warps in the order of `wpop` (02 R46). -/
def savedCore (ix : Nat) : Nat := 384 + ix

/-- Save a stopped and settled block at a place of its queue's area. Its stores are released at device scope. -/
def Pkg.saveBlock (p : Pkg) (c b base : Nat) (waiting : Bool) : Pkg :=
  let p := match p.block? c b with | some bl => p.emptyStash c b bl | none => p
  let p := p.l1WriteBack c
  match p.block? c b with
  | none => p
  | some bl =>
    let k := p.core c
    let n := p.imageOf c b bl
    let v : Saved :=
      { block := { bl.pause p.ptime with stuck := none }, calls := List.filter (fun e => e.2.slot == b) k.calls, shadow := k.shadowOf b
        claims := (k.claims.filter (fun q => q.slot == b)).map (fun q => (q.w, q.sp, q.units))
        matrix := (if k.mx.owner = some b then some k.mx else none), waiting := waiting, base := base, size := n }
    let p := (p.moveOut c b bl.launch bl.index).modLaunch bl.launch (fun l => { l with
      saved := KMap.insert bl.index v l.saved
      feedWaiters := l.feedWaiters.map (fun w => if w.1 = c ∧ w.2.1 = b then (savedCore bl.index, 0, w.2.2) else w) })
    let p := v.calls.keys.foldl (fun p id => (p.takeFromUnit c id).modCore c (fun k => { k with calls := KMap.erase id k.calls })) p
    let cbar (k : Nat) : Bar := match p.launch? bl.launch with | some l => l.cbar bl.cluster k | none => Bar.zero
    (p.freeBlock c b bl).writeImage base n (v.parts cbar)

/-- The image of a block is lost to an uncorrectable error: its launch is killed with cause 0x1C (23 R430). -/
def Pkg.loseImage (p : Pkg) (l : Nat) : Pkg :=
  match p.launch? l with
  | some x => (p.killLaunch l (some 0x1C)).queueError x.q 5
  | none => p

/-! ## Pre-emption of a queue (13 R326) -/

/-- Where a launch stands in the order of a queue: the packet's number, and child grids after the packets as they were
launched. -/
def Pkg.launchPlace (p : Pkg) (l : Nat) : Nat × Nat :=
  match (p.launch? l).bind Launch.packet with
  | some n => (0, n)
  | none => (1, l)

/-- Resident blocks of a queue's launches, in the order of their images (13 R327): core, slot and block. -/
def Pkg.queueBlocks (p : Pkg) (q : Nat) : List (Nat × Nat × Block) :=
  let before (x y : Nat × Nat × Block) : Bool :=
    let a := p.launchPlace x.2.2.launch
    let b := p.launchPlace y.2.2.launch
    decide (a.1 < b.1 ∨ (a.1 = b.1 ∧ (a.2 < b.2 ∨ (a.2 = b.2 ∧ x.2.2.index ≤ y.2.2.index))))
  let all := p.cores.flatMap (fun k => k.2.blocks.filterMap (fun b =>
    if ((p.launch? b.2.launch).map Launch.q) = some q then some (k.1, b.1, b.2) else none))
  sortBy before all

/-- Places for the images of blocks, in order; none when one does not fit. -/
def Pkg.placeImages (p : Pkg) (k : Queue) : List (Nat × Nat × Block) → List (Nat × Nat) → Option (List (Nat × Nat × Nat))
  | [], _ => some []
  | x :: t, used =>
    let n := p.imageOf x.1 x.2.1 x.2.2
    match k.placeImage used n with
    | none => none
    | some a =>
      if (p.inMemory a n).isNone then none
      else (p.placeImages k t ((a, n) :: used)).map (fun r => (x.1, x.2.1, a) :: r)

/-- Blocks of a queue go on after a refused save; the time of the save was not idle (26 R478). -/
def Pkg.saveRefused (p : Pkg) (q : Nat) : Pkg :=
  let p := (p.queueBlocks q).foldl (fun p x =>
    if x.2.2.mode == .running && !p.hold then p.modBlock x.1 x.2.1 (Block.unpause p.ptime) else p) p
  (p.modQueue q (fun k => { k with st := .active, error := 1, resumeDue := false })).settleQueue q

/-- Save every block of a queue: STATE becomes PREEMPTED. -/
def Pkg.saveAll (p : Pkg) (q : Nat) (xs : List (Nat × Nat × Nat)) : Pkg :=
  let p := xs.foldl (fun p x => p.saveBlock x.1 x.2.1 x.2.2 false) p
  let p : Pkg := { p with launches := (p.launches.map (fun e =>
    if e.2.q = q ∧ (e.2.st = .placing ∨ e.2.st = .resident) then (e.1, { e.2 with st := .saved }) else e)) }
  p.modQueue q (fun k => { k with st := .preempted, resuming := false })

/-! ## Event-waiting blocks (02 R58) -/

/-- A split waits on an event, or on the pending-launch store that it found full. -/
def Split.eventWaits (s : Split) : Bool :=
  s.st == .blocked && (match s.wait with
    | some x => !x.released && (match x.kind with | .event _ _ _ => true | .store => x.data.getD 1 0 != 0 | _ => false)
    | none => false)

/-- Every split and the armature of a block waits on an event or on the store, or is over. -/
def Block.eventWaiting (b : Block) : Bool :=
  b.mode == .running && b.warps.any (fun w => w.2.splits.any Split.eventWaits) &&
  b.warps.all (fun w => w.2.splits.all (fun s => s.st == .free || s.eventWaits))

/-- Since when the oldest wait of a block lasts. -/
def Block.waitsSince (b : Block) : Nat :=
  (b.warps.flatMap (fun w => (w.2.splits.filter Split.eventWaits).map (fun s => s.since.toNat))).foldl min (2 ^ 64)

/-- The queue of a block. -/
def Pkg.queueOf (p : Pkg) (bl : Block) : Nat := match p.launch? bl.launch with | some l => l.q | none => 0

/-- The block may be saved as an event-waiting one: settled, its queue active, and a cluster only whole. -/
def Pkg.eventSavable (p : Pkg) (c b : Nat) (bl : Block) : Bool :=
  let ok (c b : Nat) (x : Block) : Bool := x.eventWaiting && p.canSave c b x
  ok c b bl && (p.queue (p.queueOf bl)).st == .active &&
  p.cores.all (fun k => k.2.blocks.all (fun e => e.2.launch != bl.launch || e.2.cluster != bl.cluster || ok k.1 e.1 e.2))

/-- Event-waiting blocks that the dispatcher saves for a launch, oldest wait first: a core reserved for it whose blocks all
wait so, and for a child grid every core of the needed carve. -/
def Pkg.eventVictims (p : Pkg) (id : Nat) (l : Launch) : List (Nat × Nat × Block) :=
  let on (k : Nat × Core) : Bool :=
    (match k.2.resv with
     | some r => r.launch == id && (p.resvOf k.1).isSome && k.2.blocks.all (fun b => b.2.eventWaiting)
     | none => false) ||
    (decide (l.depth ≠ 0) && k.2.carve == recCarve l.record)
  let all := (List.filter on p.cores).flatMap (fun k => (List.filter (fun b => p.eventSavable k.1 b.1 b.2) k.2.blocks).map
    (fun b => (k.1, b.1, b.2)))
  sortBy (fun x y => decide (x.2.2.waitsSince ≤ y.2.2.waitsSince)) all

/-- The resident blocks of a block's cluster. -/
def Pkg.clusterOf (p : Pkg) (bl : Block) : List (Nat × Nat × Block) :=
  p.cores.flatMap (fun k => (List.filter (fun e => e.2.launch == bl.launch && e.2.cluster == bl.cluster) k.2.blocks).map
    (fun e => (k.1, e.1, e.2)))

/-- Save the first of some blocks, with its cluster, that its queue's area holds; the queues of those before it get
SAVE_SPACE. -/
def Pkg.saveFirst (p : Pkg) : List (Nat × Nat × Block) → Pkg
  | [] => p
  | x :: t =>
    let q := p.queueOf x.2.2
    let xs := p.clusterOf x.2.2
    match p.placeImages (p.queue q) xs (p.images q) with
    | none => (p.queueError q 1).saveFirst t
    | some ys =>
      if (ys.zip xs).any (fun y => p.imagePoisoned y.1.2.2 (p.imageOf y.2.1 y.2.2.1 y.2.2.2)) then p.loseImage x.2.2.launch
      else
        let p := xs.foldl (fun p y => p.stopForSave y.1 y.2.1) p
        (ys.foldl (fun p y => p.saveBlock y.1 y.2.1 y.2.2 true) p).modLaunch x.2.2.launch (fun l => { l with st := .placing })

/-- EVENT_WAIT_BLOCK_SAVE: a launch finds no room, and an event-waiting block makes some. -/
def execEventWaitBlockSave (id : Nat) (s : State) : Host.Outcome State Fault Refusal :=
  let p := s.pkg
  match p.launch? id with
  | none => .next s
  | some l =>
    if !p.wantsPlace l || (p.findPlace id l).isSome then .next s
    else .next { s with pkg := p.saveFirst (p.eventVictims id l) }

/-! ## Restoring a block (02 R55, R58, 13 R328) -/

/-- Warps, registers and scratchpad that a saved block needs. -/
def Saved.need (v : Saved) : Need :=
  let ws := List.filter (fun w => w.1 != armNo) v.block.warps
  ⟨v.block.carve, ws.length, (ws.map (fun w => 32 * w.2.alloc)).sum, v.block.spSize⟩

/-- A core has what a saved block held besides: the handler shadow and the matrix unit. -/
def Core.hasUnits (k : Core) (v : Saved) : Bool :=
  (v.shadow.isNone || k.shadow.isNone) && (v.matrix.isNone || k.mx.owner.isNone)

/-- Faults of engines that a warp took while its block was saved, though all its lanes had exited (12 R292, R296). -/
def Pkg.chargeSaved (p : Pkg) (c b w : Nat) : Pkg :=
  match p.warp? c b w with
  | some x => if x.live = 0 ∧ x.uncharged ≠ [] then p.chargeExit c b w x.uncharged else p
  | none => p

/-- Put a saved block back on a core: what its image holds at stated places from there, the rest as kept (log 25). Split states
are as saved, its claims stand behind those that wait there, and traps whose event has occurred are taken. -/
def Pkg.restoreBlock (p : Pkg) (c l ix : Nat) (v : Saved) : Pkg :=
  let p := ((p.recarve c v.block.carve).l1WriteBack c).l1Invalidate c
  let b := (lowestFree (p.core c).blocks.keys 8 1).headD 0
  let v := p.readImage v
  let n := v.need
  let slots := lowestFree (p.core c).slotsUsed 64 n.warps
  let ws : KMap Warp := v.block.warps.zipIdx.map (fun e =>
    if e.1.1 = armNo then e.1 else (e.1.1, { e.1.2 with slot := slots.getD e.2 0 }))
  let bl : Block := { v.block with warps := ws }
  let bl := if bl.mode == .running then bl.unpause p.ptime else bl
  let p := p.modCore c (fun k => Core.takeIn { k with
    blocks := KMap.insert b bl k.blocks
    poolUsed := k.poolUsed + n.regs
    claims := k.claims ++ v.claims.map (fun q => ⟨b, q.1, q.2.1, q.2.2⟩)
    calls := v.calls.foldl (fun m e => KMap.insert e.1 { e.2 with slot := b } m) k.calls
    shadow := (match v.shadow with | some x => some (b, x.2) | none => k.shadow)
    mx := (match v.matrix with | some m => { m with owner := some b, waiters := k.mx.waiters } | none => k.mx) })
  let p := (p.moveIn c b l ix).modLaunch l (fun x => { x with
    saved := KMap.erase ix x.saved
    feedWaiters := x.feedWaiters.map (fun w => if w.1 = savedCore ix then (c, b, w.2.2) else w) })
  let p := ws.keys.foldl (fun p w => p.chargeSaved c b w) (p.serveClaims c)
  if bl.mode == .running then ws.keys.foldl (fun p w => p.trapParked c b w) p else p

/-- Cores for saved blocks of one cluster, or for one block: those of their carve with room, where claims may wait, before empty
ones (02 R55, R47). -/
def Pkg.findRestore (p : Pkg) (id : Nat) (l : Launch) (vs : List (Nat × Saved)) : Option (List Nat × Nat) :=
  let ok (empty : Bool) (c : Nat) (v : Saved) : Bool := p.allowed id l.prio v.need.carve c &&
    ((p.core c).fits v.need || (empty && (p.core c).canCarve v.need)) && (p.core c).hasUnits v
  let find (empty : Bool) : Option (List Nat × Nat) :=
    if recClusterSize l.record = 1 then
      ((p.stepsFrom 384).find? (fun k => vs.all (fun v => ok empty (stepCore k) v.2))).map (fun k =>
        (vs.map (fun _ => stepCore k), (k + 1) % 384))
    else
      ((p.stepsFrom 48).find? (fun k => vs.all (fun v => ok empty (stepCore k + v.2.block.cpos) v.2))).map (fun k =>
        (vs.map (fun v => stepCore k + v.2.block.cpos), (k + 1) % 384))
  (find false).orElse (fun _ => find true)

/-- Saved blocks of a queue that RESUME restores are all back: STATE is ACTIVE, or HALTED while a block is held (23 R430). -/
def Pkg.resumed (p : Pkg) (q : Nat) : Pkg :=
  let k := p.queue q
  if !k.resuming ∨ p.launches.any (fun e => e.2.q == q && !e.2.ending && e.2.saved.any (fun v => !v.2.waiting)) then p
  else
    let p : Pkg := { p with launches := (p.launches.map (fun e =>
      if e.2.q = q ∧ e.2.st = .saved then
        (e.1, { e.2 with st := if e.2.placed = recBlocks e.2.record ∧ e.2.saved.isEmpty then .resident else .placing })
      else e)) }
    let held := (p.queueBlocks q).any (fun x => match x.2.2.mode with | .held _ => true | _ => false)
    (p.modQueue q (fun k => { k with st := if held then .halted else .active, resuming := false })).settleQueue q

/-- End launches that are killed and have no block left, children first. -/
def Pkg.endGrids (p : Pkg) (ids : List Nat) : Pkg :=
  ids.reverse.foldl (fun p id => p.endGrid id) p

/-- Launches that descend from one, and it. -/
def Pkg.family (p : Pkg) (l : Nat) : List Nat := p.launches.keys.filter (fun x => p.within l x)

/-- BLOCK_RESTORE: the lowest saved block of a launch that can go on, with its cluster. -/
def execBlockRestore (id : Nat) (s : State) : Host.Outcome State Fault Refusal :=
  let p := s.pkg
  match p.launch? id with
  | none => .next s
  | some l =>
    let k := p.queue l.q
    if l.ending || p.hold || !(k.st == .active || (k.st == .preempted && k.resuming)) then .next s
    else
      match List.find? (fun e => p.wakes e.2) l.saved with
      | none => .next s
      | some (ix, v) =>
        let vs : List (Nat × Saved) := List.filter (fun e => e.1 == ix || (decide (1 < v.block.clusterSize) && e.2.block.cluster == v.block.cluster)) l.saved
        if vs.any (fun e => p.imagePoisoned e.2.base e.2.size) then
          let p := (p.loseImage id).endGrids (p.family id)
          .next { s with pkg := (p.resumed l.q).settleQueue l.q }
        else
          match p.findRestore id l vs with
          | none => .next s
          | some (cs, cur) =>
            if cs.any p.l1Barred then .next s
            else
            let p := (cs.zip vs).foldl (fun p x => p.restoreBlock x.1 id x.2.1 x.2.2) { p with cursor := cur }
            let p := p.modLaunch id (fun l => { l with
              waited := p.ptime
              st := (if l.placed = recBlocks l.record ∧ l.saved.isEmpty then .resident else if k.resuming then l.st else .placing) })
            .next { s with pkg := p.resumed l.q }

end Sys2Proof.Machine
end

