-- ==== Sys2Proof/Machine/Halt.lean ====
section
/-!
DEFINITION. Halts of blocks and what follows them: a warp that stops, the end of a killed block, the start of a handler, a
claim deadlock and the watchdog (02_execution_model.md R44, 23_faults_traps_stops.md R419-R429,
26_scheduling_engine_failures.md R478).
-/

namespace Sys2Proof.Machine

/-! ## Stopping (23 R420, R425) -/

/-- A block under HALT_FOR_DEBUG is held once all its warps are at their stops: the queue is HALTED. -/
def Pkg.holdBlock (p : Pkg) (c b : Nat) : Pkg :=
  match p.block? c b with
  | none => p
  | some bl =>
    match bl.mode with
    | .halting o .debug =>
      if bl.allStopped then
        (p.modBlock c b (fun bl => { bl with mode := .held o })).modQueue (p.queueOf bl)
          (fun k => if k.st = .active then { k with st := .halted } else k)
      else p
    | _ => p

/-- Late entries of a stopped warp of a halting block stop. -/
def Pkg.stopLate (p : Pkg) (c b w : Nat) : Pkg :=
  match p.block? c b with
  | some bl =>
    (match bl.mode with
     | .halting _ _ | .ending => p.modWarp c b w (fun x => x.restop (p.origPc bl w))
     | _ => p)
  | none => p

/-- HALT_WARP_STOP: a warp that the halt reached stops once its writes have landed; SKIDCYC is the cycles `cyc` that its stop
took, of those that have passed and at most 64 (log 62). In a warp that took the origin trap, an entry stops whose store waited for a copy. -/
def execHaltWarpStop (core slot w cyc : Nat) (s : State) : Host.Outcome State Fault Refusal :=
  let p := s.pkg
  match p.warp? core slot w with
  | none => .next s
  | some x =>
    let p := match x.halt with
      | .reached _ _ => if x.landed then p.stopSibling core slot w (min cyc (x.halt.cycles (p.cycOf core))) else p
      | .stopped => if x.landed then p.stopLate core slot w else p
      | .running => p
    .next { s with pkg := p.holdBlock core slot }

/-! ## The end of a killed block (23 R422, R424) -/

/-- A slot number that no block has: what is left running of a block that is gone belongs there. -/
def goneSlot : Nat := 99

/-- Calls of a block that ends: an ordered unit still passes their turns, without performing them; the others are gone. -/
def Pkg.orphanCalls (p : Pkg) (c b : Nat) : Pkg :=
  (List.filter (fun e => e.2.slot == b) (p.core c).calls).foldl (fun p e =>
    if !e.2.done && (e.2.cls == 1 || e.2.cls == 2) then p.modCall c e.1 (fun x => { x with failed := true, slot := goneSlot })
    else (p.takeFromUnit c e.1).modCore c (fun k => { k with calls := KMap.erase e.1 k.calls })) p

/-- The event waiters of a block, its requests at page locks and its places in work feeds are withdrawn. -/
def Pkg.withdrawBlock (p : Pkg) (c b : Nat) (bl : Block) : Pkg :=
  let p := p.evWithdraw (fun w => match w with | .split x y _ _ => x == c && y == b | _ => false)
  let p : Pkg := { p with cows := p.cows.filter (fun q => match q.owner with | .split x y _ _ => !(x == c && y == b) | _ => true) }
  p.modLaunch bl.launch (fun l => { l with feedWaiters := l.feedWaiters.filter (fun w => !(w.1 == c && w.2.1 == b)) })

/-- A killed block has settled: its warps are stopped and nothing that it issued runs, but calls. -/
def Pkg.killOver (p : Pkg) (c b : Nat) (bl : Block) : Bool :=
  bl.allStopped && !(p.core c).mx.ops.any (fun o => o.slot == b) &&
  !p.cores.any (fun x => x.2.copies.any (fun y => (y.2.home.isNone && y.2.ocore == c && y.2.slot == b) || p.copyTouches y.2 c b)) &&
  !p.colls.any (fun y => y.2.home.isNone && y.2.ocore == c && y.2.slot == b) &&
  !p.pods.any (fun x => x.2.core == c && x.2.slot == b) && !p.snaps.any (fun x => !x.fromPacket && x.a == c && x.b == b)

/-- The words of a block's records: 32 warps, then the armature. -/
def Block.recordWords (b : Block) : List Word :=
  (List.range 33).flatMap (fun i => match b.warps.find? i with | some w => w.frec.words | none => FRec.zero.words)

/-- The records of a faulting block are written from SAVEBASE on (23 R424), but while its queue is PREEMPTING or PREEMPTED,
or has no save area. -/
def Pkg.writeRecords (p : Pkg) (k : Queue) (ws : List Word) : Pkg :=
  if k.st == .preempting || k.st == .preempted || k.savePages == 0 then p
  else
    match p.inMemory k.saveBase.toNat 2112 with
    | none => p
    | some a => ws.zipIdx.foldl (fun p x => p.engineStore (a + 4 * x.2) (bytesOf 4 x.1.toNat)) p

/-- The kept records of killed launches are written, where every block that the kill stopped has settled: those of the launch
and of its descendants (23 R424). -/
def Pkg.flushRecords (p : Pkg) : Pkg :=
  p.launches.foldl (fun p e =>
    match e.2.killRecs with
    | none => p
    | some ws =>
      if p.cores.any (fun k => k.2.blocks.any (fun b => (p.family e.1).contains b.2.launch)) then p
      else (p.writeRecords (p.queue e.2.q) ws).modLaunch e.1 (fun l => { l with killRecs := none })) p

/-- The block's own warps or armature took a trap, and whether in the consumer's part of fused code (14 R342). -/
def Block.ownTrap (b : Block) : Option Bool :=
  let fs := (b.warps.vals.map Warp.frec).filter (fun f => f.cause != 0 && f.cause != 0x23)
  match fs.find? (fun f => f.origin) with
  | some f => some f.consumer
  | none => fs.head?.map FRec.consumer

/-- Count a block's fault with its launch. -/
def Pkg.countFault (p : Pkg) (bl : Block) : Pkg :=
  match bl.ownTrap with
  | none => p
  | some consumer => p.modLaunch bl.launch (fun l => { l with
      faults := l.faults + 1
      splice := l.splice.map (fun (x : Splice) => if consumer then { x with faults := x.faults + 1 } else x) })

/-- A block is gone: its calls, waiters, windows and resources. Its stores are at L2 (06 R135). -/
def Pkg.dropBlock (p : Pkg) (c b : Nat) (bl : Block) : Pkg :=
  let p := (p.orphanCalls c b).withdrawBlock c b bl
  ((p.freeStash c b bl).l1WriteBack c).freeBlock c b bl

/-- A HALTED queue is ACTIVE again when no block of it is held (23 R425). -/
def Pkg.settleHalt (p : Pkg) (q : Nat) : Pkg :=
  if (p.queue q).st = .halted && !(p.queueBlocks q).any (fun x => match x.2.2.mode with | .held _ => true | _ => false) then
    p.modQueue q (fun k => { k with st := .active })
  else p

/-- KILL_SETTLED: a block of a killed launch has settled. Its records are written with the last block that its kill stops. -/
def execKillSettled (core slot : Nat) (s : State) : Host.Outcome State Fault Refusal :=
  let p := s.pkg
  match p.block? core slot with
  | none => .next s
  | some bl =>
    let killed : Bool := match bl.mode with | .halting _ .kill => true | .ending => true | _ => false
    if !killed || !p.killOver core slot bl || p.l1Barred core then .next s
    else
      let q := p.queueOf bl
      let p := if bl.trapped && bl.mode != .ending then
        p.modLaunch bl.launch (fun l => { l with killRecs := some (l.killRecs.getD bl.recordWords) }) else p
      let p := ((p.countFault bl).dropBlock core slot bl).flushRecords
      let p := p.endGrids (p.family bl.launch)
      .next { s with pkg := (p.settleHalt q).settleQueue q }

/-! ## Handlers (23 R426) -/

/-- The handler warp: the lowest-numbered warp with a live lane. -/
def Block.handlerWarp (b : Block) : Option (Nat × Warp) := List.find? (fun w => w.1 != armNo && w.2.live != 0) b.warps

/-- The handler warp at the start of the handler: its records in v0-v15 of every lane. -/
def Warp.enterHandler (w : Warp) (pc : DWord) (origin : FRec) : Warp :=
  let w := { w with
    splits := [{ Split.free with mask := w.live, st := .ready, pc := pc }, Split.free, Split.free, Split.free]
    dstack := [], preds := Vector.replicate 7 0, fptrap := 0, halt := .running }
  forLanes w.present (fun l w => w.wrList 0 l (origin.words ++ List.replicate 16 0)) w

/-- HANDLER_START: a halted block enters its handler when the shadow of its core is free, or ends as KILL. -/
def execHandlerStart (core slot : Nat) (s : State) : Host.Outcome State Fault Refusal :=
  let p := s.pkg
  match p.block? core slot with
  | none => .next s
  | some bl =>
    match bl.mode with
    | .halting o .handler =>
      if !bl.allStopped || p.saving bl then .next s
      else
        let pc := (p.queue (p.queueOf bl)).handler
        let origin := match bl.warps.find? o with | some w => w.frec | none => FRec.zero
        let kill : Pkg := (p.modBlock core slot (fun b => { b with mode := .halting o .kill })).killLaunch bl.launch (some origin.cause)
        (match bl.handlerWarp with
         | none => .next { s with pkg := kill }
         | some (h, w) =>
           if w.alloc < 32 ∨ pc = 0 ∨ origin.cause = 0x1D then .next { s with pkg := kill }
           else if (p.core core).shadow.isSome then .next s
           else
             let p := p.modCore core (fun k => { k with shadow := some (slot, w) })
             .next { s with pkg := p.modBlock core slot (fun b => { b with
               mode := .handler o h, warps := KMap.insert h (w.enterHandler pc origin) b.warps }) })
    | _ => .next s

/-! ## A fault of a split that waits (02 R44, 26 R478) -/

/-- Every lane of a waiting entry takes a cause, and the trap is taken. -/
def Pkg.faultWaiting (p : Pkg) (c b w sp cause : Nat) : Pkg :=
  let p := p.modWarp c b w (fun x => x.modSplit sp (fun s =>
    s.fault s.mask ⟨cause, s.pc, s.pc + BitVec.ofNat 64 (4 * (s.pfx.words + 1)), 0, s.mask, 0, false⟩))
  p.takeTrap c b w sp

/-- A split waits in `pool.take` or on a barrier. -/
def Split.claimOrBar (s : Split) : Bool :=
  match s.wait with
  | some x => s.st == .blocked && !x.released &&
      (match x.kind with | .claim _ | .bar _ _ | .cbar _ _ | .abar _ _ => true | _ => false)
  | none => false

/-- A copy that names an arrival barrier of a block is outstanding. -/
def Pkg.copyNames (p : Pkg) (c b : Nat) : Bool :=
  p.cores.any (fun k => k.2.copies.any (fun y => y.2.aben && y.2.home.isNone &&
    ((p.copyDests y.2).getD []).any (fun x => x.1 == c && x.2.1 == b)))

/-- The conditions of R44 hold for a block. -/
def Pkg.claimsStuck (p : Pkg) (c b : Nat) (bl : Block) : Bool :=
  bl.mode == .running && (p.core c).claims.any (fun q => q.slot == b) &&
  bl.warps.all (fun w =>
    if w.1 = armNo then bl.armEnded || w.2.splits.all (fun s => s.st == .free ||
      (s.claimOrBar && !(match s.wait with | some x => (match x.kind with | .claim _ => true | _ => false) | none => false)))
    else w.2.live == 0 || w.2.splits.all (fun s => s.st == .free || s.claimOrBar)) &&
  !p.copyNames c b

/-- CLAIM_DEADLOCK_DETECT: once the conditions have held for 4,096 cycles, the oldest claim of the block takes cause 0x17 and
the others are withdrawn (log 20). -/
def execClaimDeadlockDetect (core slot : Nat) (s : State) : Host.Outcome State Fault Refusal :=
  let p := s.pkg
  match p.block? core slot with
  | none => .next s
  | some bl =>
    let now := (p.die (dieOfCore core)).cyc
    if !p.claimsStuck core slot bl then .next { s with pkg := p.modBlock core slot (fun b => { b with stuck := none }) }
    else
      match bl.stuck, (p.core core).claims.find? (fun q => q.slot == slot) with
      | some t, some q =>
        if now.toNat < t.toNat + 4096 then .next s
        else
          let p := p.modCore core (fun k => { k with claims := k.claims.filter (fun x => x.slot != slot) })
          .next { s with pkg := (p.faultWaiting core slot q.w q.sp 0x17).serveClaims core }
      | _, _ => .next { s with pkg := p.modBlock core slot (fun b => { b with stuck := some now }) }

/-- The split of a block that has been BLOCKED longest: warp and entry. -/
def Block.longestWait (b : Block) : Option (Nat × Nat) :=
  let all := b.warps.flatMap (fun w => (w.2.splits.zipIdx.filter (fun s => s.1.st == .blocked)).map
    (fun s => (s.1.since.toNat, w.1, s.2)))
  (all.foldl (fun (m : Option (Nat × Nat × Nat)) x => match m with
    | some y => if x.1 < y.1 then some x else some y
    | none => some x) none).map (fun x => x.2)

/-- Withdraw the wait of an entry: a claim, an event, a place at a work feed, at a page lock or at the matrix unit. -/
def Pkg.withdrawWait (p : Pkg) (c b w sp : Nat) : Pkg :=
  let p := p.evWithdraw (fun x => x == .split c b w sp)
  let p := p.modCore c (fun k => { k with
    claims := k.claims.filter (fun q => !(q.slot == b && q.w == w && q.sp == sp))
    mx := (if w = armNo ∧ k.mx.owner ≠ some b then { k.mx with waiters := k.mx.waiters.filter (· != b) } else k.mx) })
  let p : Pkg := { p with cows := p.cows.filter (fun q => q.owner != .split c b w sp) }
  let p := match p.block? c b with
    | some bl => p.modLaunch bl.launch (fun l => { l with feedWaiters := l.feedWaiters.filter (· != (c, b, w, sp)) })
    | none => p
  p.modWarp c b w (fun x => x.modSplit sp (fun s => { s with wait := s.wait.bind (fun x =>
    match x.kind with
    | .event _ _ _ => none
    | _ => some x) }))

/-- WATCHDOG_FIRE. -/
def execWatchdogFire (core slot : Nat) (s : State) : Host.Outcome State Fault Refusal :=
  let p := s.pkg
  match p.block? core slot with
  | none => .next s
  | some bl =>
    let q := p.queueOf bl
    let lim := (p.queue q).limit.toNat
    if lim = 0 ∨ bl.mode ≠ .running ∨ bl.paused.isSome ∨ p.saving bl ∨ p.ptime.toNat < bl.lastIssue.toNat + 1000 * lim then .next s
    else
      match bl.longestWait with
      | none => .next s
      | some (w, sp) =>
        let p := (p.withdrawWait core slot w sp).modQueue q (fun k => { k with fired := (k.fired + 1) % 2 ^ 32, error := 6 })
        .next { s with pkg := (p.faultWaiting core slot w sp 0x29).serveClaims core }

end Sys2Proof.Machine
end

