-- ==== Sys2Proof/Machine/QueueCtl.lean ====
section
/-!
DEFINITION. Control of command queues: enabling, disabling, pre-emption, resumption and reset
(13_front_end.md R310-R312, R326-R329, 26_scheduling_engine_failures.md R463, R466).
-/

namespace Sys2Proof.Machine

/-! ## Enabling (13 R310, R312, 26 R463) -/

/-- A context descriptor; none when it is misaligned, unreadable or poisoned, or has a nonzero reserved field. Stash sectors that
hold it are written back first (04 R101). -/
def Pkg.readCtx (p : Pkg) (pa : DWord) : Option Ctx :=
  if pa.toNat % 64 ≠ 0 then none
  else
    match p.inMemory pa.toNat 64 with
    | none => none
    | some a =>
      let bs := (p.recallStash (a / 256) false).readMem a 64
      if p.poisoned a ∨ recNat bs 0x0A 2 ≠ 0 ∨ recNat bs 0x24 28 ≠ 0 then none
      else some ⟨recNat bs 0 8, recNat bs 8 2, recNat bs 0x10 8, recNat bs 0x18 8, recNat bs 0x20 4⟩

/-- The L2 line of a context descriptor is recalled from the stash windows that hold it (04 R101). -/
def Pkg.recallCtx (p : Pkg) (pa : DWord) : Pkg :=
  match p.inMemory pa.toNat 64 with
  | some a => p.recallStash (a / 256) false
  | none => p

/-- ENABLE is written 1: ERROR is cleared (26 R463), and where it was 0 fetching starts at slot 0. LOG2N outside 4-16 and a
context that cannot be used leave it 0, and so does an X-die whose firmware does not run or that is in reset (16 R380, 27
R500). -/
def State.enableQueue (s : State) (q : Nat) : State :=
  let k := s.pkg.queue q
  if !s.fwAlive (queueDie q) then s
  else
    let p := s.pkg.queueError q 0
    if k.enable ∨ k.log2n < 4 ∨ 16 < k.log2n then { s with pkg := p }
    else
      match s.pkg.readCtx k.ctx with
      | none => { s with pkg := p.queueError q 4 }
      | some cx =>
        { s with pkg := (p.recallCtx k.ctx).modQueue q (fun k => { k with
            enable := true, readIdx := 0, lap := true, cx := cx, fetched := none, ringFault := false, since := none
            st := if k.st = .idle then .active else k.st }) }

/-- QUEUE_ENABLE. -/
def execQueueEnable (q : Nat) (s : State) : Host.Outcome State Fault Refusal :=
  if 1024 ≤ q then .next s else .next (s.enableQueue q)

/-- ENABLE is written 0: fetching stops after the packets already started. -/
def Pkg.disableQueue (p : Pkg) (q : Nat) : Pkg :=
  if (p.queue q).enable then ((p.dropNext q).modQueue q (fun k => { k with enable := false })).settleQueue q else p

/-- QUEUE_DISABLE. -/
def execQueueDisable (q : Nat) (s : State) : Host.Outcome State Fault Refusal :=
  if 1024 ≤ q then .next s else .next { s with pkg := s.pkg.disableQueue q }

/-! ## Reset (13 R329, 26 R466) -/

/-- Copies of a block that ends run to completion; one that cannot goes on without an owner. -/
def Pkg.finishCopies (p : Pkg) (c b : Nat) : Pkg :=
  let mine := p.cores.flatMap (fun k => (List.filter (fun y => y.2.home.isNone && y.2.ocore == c && y.2.slot == b) k.2.copies).map
    (fun y => (k.1, y.1, y.2)))
  mine.foldl (fun p x =>
    let r : Pkg × Copy := if p.copyHeld x.1 x.2.1 || x.2.2.fault.isSome then (p, x.2.2)
      else Pkg.copyRun x.1 x.2.1 ((p.copyDests x.2.2).getD []) (x.2.2.total / 4 + 1) p x.2.2
    let left : Bool := r.2.gdst && r.2.fault.isNone && decide (r.2.written < r.2.total)
    let kept (m : KMap Copy) : KMap Copy := if left then KMap.insert x.2.1 ({ r.2 with slot := goneSlot } : Copy) m else KMap.erase x.2.1 m
    r.1.modCore x.1 (fun k => { k with copies := kept k.copies })) p

/-- What a block has outstanding goes on without it: collectives, version requests and pod-remote accesses. -/
def Pkg.orphan (p : Pkg) (c b : Nat) : Pkg :=
  { p with
    colls := (p.colls.map (fun y => (y.1, if y.2.home.isNone && y.2.ocore == c && y.2.slot == b then { y.2 with slot := goneSlot } else y.2)))
    snaps := (p.snaps.map (fun x => if !x.fromPacket && x.a == c && x.b == b then { x with b := goneSlot } else x))
    pods := (p.pods.map (fun x => (x.1, if x.2.core == c && x.2.slot == b then { x.2 with slot := goneSlot } else x.2))) }

/-- A resident block of a queue that is reset ends: no record is written and no disposition runs. -/
def Pkg.resetBlock (p : Pkg) (c b : Nat) : Pkg :=
  let p := (p.modBlock c b (fun bl => { bl with warps := (bl.warps.map (fun w => (w.1, w.2.abortAll 0x0E))) })).finishCopies c b
  match p.block? c b with
  | some bl => (p.orphan c b).dropBlock c b bl
  | none => p

/-- The event waiters of a launch and of its saved blocks are withdrawn (26 R468). -/
def Pkg.withdrawLaunch (p : Pkg) (id : Nat) : Pkg :=
  p.evWithdraw (fun w => match w with | .launch x _ => x == id | .saved x _ _ _ => x == id | _ => false)

/-- Child grids of a queue complete with STATUS KILLED, deepest first (26 R470). -/
def Pkg.killChildren (p : Pkg) (q : Nat) : Pkg :=
  (List.filter (fun e => e.2.q == q && e.2.packet.isNone) p.launches).reverse.foldl (fun p e =>
    let p := p.withdrawLaunch e.1
    ({ p with launches := KMap.erase e.1 p.launches } : Pkg).complete
      (({ e.2 with status := 3, detail := 0 } : Launch).owes p.ptime)) p

/-- Every started packet of a queue completes, with STATUS KILLED unless it was over. -/
def Pkg.killPackets (p : Pkg) (q : Nat) : Pkg :=
  let k := p.queue q
  k.packets.foldl (fun p e =>
    let x : Packet := if e.2.done then e.2 else { e.2 with status := 3, detail := 0, done := true }
    p.complete ⟨k.cx, q, if x.noted ∨ recComp x.bytes = 0 then none else some (recComp x.bytes, p.packetNote x e.1), recCev x.bytes⟩) p

/-- Nothing of a queue is left in the tables of the package. -/
def Pkg.clearQueue (p : Pkg) (q : Nat) : Pkg :=
  let mine (l : Nat) : Bool := ((p.launch? l).map Launch.q) == some q
  let p := p.evWithdraw (fun w => match w with
    | .packet x _ => x == q
    | .launch l _ => mine l
    | .saved l _ _ _ => mine l
    | .split _ _ _ _ => false)
  { p with
    launches := List.filter (fun e => e.2.q != q) p.launches
    cores := (p.cores.map (fun k => (k.1, { k.2 with resv := (match k.2.resv with
      | some r => if mine r.launch || (p.launch? r.launch).isNone then none else some r
      | none => none) })))
    snaps := p.snaps.filter (fun x => !(x.fromPacket && x.a == q))
    fwq := (p.fwq.map (fun e => (e.1, e.2.filter (fun f => f.overflow || f.q != q)))) }

/-- The resident blocks of a queue stand at their stops (23 R420): their accesses have landed, their matrix operations are over,
and their cores' L1 can be written back. -/
def Pkg.resetSettled (p : Pkg) (q : Nat) : Bool :=
  (p.queueBlocks q).all (fun x =>
    !p.l1Barred x.1 && !p.pods.any (fun y => y.2.core == x.1 && y.2.slot == x.2.1) &&
    !(p.core x.1).mx.ops.any (fun o => o.slot == x.2.1) && x.2.2.warps.all (fun w => w.2.splits.all (fun s => !s.inCow)))

/-- Steps 2 to 5 of R466: the blocks of the queue end, its saved images are discarded, and its child grids complete. -/
def Pkg.endBlocks (p : Pkg) (q : Nat) : Pkg :=
  let p := (p.queueBlocks q).foldl (fun p x => p.resetBlock x.1 x.2.1) p
  ({ p with launches := (p.launches.map (fun e => if e.2.q = q then (e.1, { e.2 with saved := [] }) else e)) } : Pkg).killChildren q

/-- Steps 7 and 8 of R466; a queue that was reset with its X-die reads its reset values, but for ERROR (27 R500). -/
def Pkg.endQueue (p : Pkg) (q : Nat) : Pkg :=
  ((p.killPackets q).clearQueue q).modQueue q (fun k =>
    if k.lost then { Queue.reset with error := 8 }
    else { k with packets := [], enable := false, st := .idle, resuming := false, resetDue := false, preemptDue := false, resumeDue := false })

/-- Perform a RESET, in the order of R466. It stays in progress while its blocks settle or a write to the sink of its trace
session waits, and goes on with the next QUEUE_RESET (log 63). -/
def Pkg.resetQueue (p : Pkg) (q : Nat) : Pkg :=
  let p := (p.dropNext q).modQueue q (fun k => { k with ringFault := false, since := none, st := .resetting, resetDue := true })
  if !p.resetSettled q then p
  else
    match (p.endBlocks q).closeTrace q 1 (some 1) with
    | .ok r => r.endQueue q
    | .error r => p.waiting r

/-- RESET is written: a save in progress completes first (13 R328), and so does an examination (14 R342). -/
def Pkg.resetWritten (p : Pkg) (q : Nat) : Pkg :=
  if (p.queue q).st = .preempting ∨ p.examining q then p.modQueue q (fun k => { k with resetDue := true })
  else p.resetQueue q

/-- QUEUE_RESET: a write of RESET, or a reset in progress that goes on. -/
def execQueueReset (q : Nat) (s : State) : Host.Outcome State Fault Refusal :=
  if 1024 ≤ q then .next s else .next { s with pkg := s.pkg.resetWritten q }

/-! ## Pre-emption (13 R326, R328) -/

/-- PREEMPT is written: ignored unless the queue is ACTIVE or BLOCKED; an examination decides first (14 R342). -/
def Pkg.preemptQueue (p : Pkg) (q : Nat) : Pkg :=
  if (p.queue q).st ≠ .active then p
  else if p.examining q then p.modQueue q (fun k => { k with preemptDue := true })
  else p.beginSave q

/-- QUEUE_PREEMPT. -/
def execQueuePreempt (q : Nat) (s : State) : Host.Outcome State Fault Refusal :=
  if 1024 ≤ q then .next s else .next { s with pkg := s.pkg.preemptQueue q }

/-- RESUME is written: ignored unless the queue is PREEMPTED. -/
def Pkg.resumeQueue (p : Pkg) (q : Nat) : Pkg :=
  if (p.queue q).st = .preempted then (p.modQueue q (fun k => { k with resuming := true, resumeDue := false })).resumed q else p

/-- The RESUME that a pre-emption of the front end's own owes, once the queue is PREEMPTED (27 R496). -/
def Pkg.resumeDue (p : Pkg) (q : Nat) : Pkg := if (p.queue q).resumeDue then p.resumeQueue q else p

/-- The front end writes RESUME to a queue that it pre-empted: at once, or when the pre-emption under way is over (27 R496). -/
def Pkg.resumeWhenSaved (p : Pkg) (q : Nat) : Pkg :=
  let k := p.queue q
  if k.st = .preempting ∨ k.preemptDue then p.modQueue q (fun k => { k with resumeDue := true }) else p.resumeQueue q

/-- A block has finished and retires before anything saves it (02 R56). -/
def Pkg.retiresFirst (p : Pkg) (c b : Nat) (bl : Block) : Bool := bl.finished && p.blockQuiet c b bl

/-- PREEMPT_SAVE_DONE: every block of the queue is stopped and settled, and its image is written. A RESET written meanwhile
takes effect now, and the images are discarded. -/
def execPreemptSaveDone (q : Nat) (s : State) : Host.Outcome State Fault Refusal :=
  let p := s.pkg
  let k := p.queue q
  let xs := p.queueBlocks q
  if k.st ≠ .preempting ∨ !xs.all (fun x => p.canSave x.1 x.2.1 x.2.2 && !p.retiresFirst x.1 x.2.1 x.2.2) then .next s
  else if k.resetDue then .next { s with pkg := p.resetQueue q }
  else
    let p := xs.foldl (fun p x => p.stopForSave x.1 x.2.1) p
    match p.placeImages k (p.queueBlocks q) (p.images q) with
    | none => .next { s with pkg := p.saveRefused q }
    | some ys =>
      match (ys.zip xs).find? (fun y => p.imagePoisoned y.1.2.2 (p.imageOf y.2.1 y.2.2.1 y.2.2.2)) with
      | some y => .next { s with pkg := p.loseImage y.2.2.2.launch }
      | none => .next { s with pkg := (p.saveAll q ys).resumeDue q }

/-- QUEUE_RESUME. -/
def execQueueResume (q : Nat) (s : State) : Host.Outcome State Fault Refusal :=
  if 1024 ≤ q then .next s else .next { s with pkg := s.pkg.resumeQueue q }

end Sys2Proof.Machine
end

