-- ==== Sys2Proof/Machine/Firmware.lean ====
section
/-!
DEFINITION. Firmware cores, frozen masters and their thaw, and the hold of the package
(13_front_end.md R315, 27_containment_recovery.md R484-R491).
-/

namespace Sys2Proof.Machine

/-! ## Firmware cores (13 R315) -/

/-- What a step of a packet does, by its type; a COPY goes on to its end. -/
def Pkg.runAny (p : Pkg) (q n : Nat) (x : Packet) : Pkg :=
  match x.type with
  | 0 => p.runNop q n x
  | 1 => p.runLaunch q n x
  | 2 => p.runFeed q n x
  | 3 => p.runSignal q n x
  | 4 => p.runWait q n x
  | 5 => Pkg.runCopy (recNat x.bytes 0x20 4) p q n x
  | 6 => p.runSnapshot q n x
  | 7 => p.runFence q n x
  | _ =>
    match x.traceOp with
    | 0 => p.runTraceOpen q n x
    | 1 => p.runTraceClose q n x
    | 2 => p.runTraceFlush q n x
    | _ => p.modPacket q n (Packet.finished 1 0x10)

/-- The step that an entry names is stalled at some core: its event found no room, or the ring that it feeds is full. -/
def Pkg.stepStalls (p : Pkg) (e : FwEntry) : Bool :=
  !e.overflow && ((p.queue e.q).packets.find? e.packet).any (fun x => x.stalled ||
    (x.type == 2 && (p.workerAt (p.queue e.q).cx.asid (BitVec.ofNat 64 (recNat x.bytes 0x10 8))).any (fun y => y.2.ringFull)))

/-- The entry that a firmware core works on: the oldest whose queue's lock is free; one that is stalled holds its lock, and is
tried again when no other is there. -/
def Pkg.nextFw (p : Pkg) (x : Nat) : Option FwEntry :=
  let free := (p.fwq.getD x []).filter (fun e => e.locked.isNone && (e.overflow || !p.fwLocked e.q))
  (free.find? (fun e => !p.stepStalls e)).or free.head?

/-- FIRMWARE_STEP: core c of X-die x performs the step of an entry. An entry whose packet has nothing to perform any more is
dropped. -/
def execFirmwareStep (x c : Nat) (s : State) : Host.Outcome State Fault Refusal :=
  if 12 ≤ c ∨ !s.fwAlive x ∨ s.pkg.isFrozen 4 (12 * x + c) then .next s
  else
    match s.pkg.nextFw x with
    | none => .next s
    | some e =>
      if e.overflow then .next { s with pkg := s.pkg.runOverflow x e.q }
      else
        if (s.pkg.queue e.q).stepOver e.packet then .next { s with pkg := s.pkg.endStep e.q e.packet }
        else .next (packetStep (fun _ => true) Pkg.runAny e.q e.packet s)

/-! ## Freezing (27 R484-R485) -/

/-- The violation is one of the table of R484, of a master that exists. -/
def violationKnown (v : Violation) : Bool :=
  match v.cls with
  | 1 => v.code == 1 && decide (v.id < 3072)
  | 2 => v.code == 1 && decide (v.id < 3072 ∧ v.id % 8 < 7)
  | 3 => (v.code == 1 || v.code == 3) && decide (v.id < 2)
  | 4 => (v.code == 1 || v.code == 2 || v.code == 4) && decide (v.id < 24)
  | 5 => v.code == 2 && decide (v.id < 576)
  | _ => false

/-- A firmware core that freezes keeps the step that it was performing. -/
def Pkg.lockFw (p : Pkg) (id : Nat) : Pkg :=
  match p.nextFw (id / 12) with
  | none => p
  | some e => { p with fwq := p.fwq.modify (id / 12) (fun l => l.map (fun f => if f = e then { f with locked := some id } else f)) }

/-- Copies that a channel holds, oldest first. -/
def Pkg.channelCopies (p : Pkg) (ch : Nat) : List (Nat × Copy) :=
  List.filter (fun e => copyChannel (ch / 8) e.1 == ch) (p.core (ch / 8)).copies

/-- Calls that a unit holds and has not answered, oldest first. -/
def Pkg.unitCalls (p : Pkg) (id : Nat) : List (Nat × Call) :=
  List.filter (fun e => e.2.cls == id % 8 && !e.2.done) (p.core (id / 8)).calls

/-- Collectives of the groups that an X-die serves, oldest first. -/
def Pkg.engineColls (p : Pkg) (x : Nat) : List (Nat × Coll) := List.filter (fun e => e.2.group % 2 == x) p.colls

/-- Contexts of the work that a copy channel, a unit or a collective engine holds, oldest first. -/
def Pkg.workAsids (p : Pkg) (cls id : Nat) : List Nat :=
  match cls with
  | 1 => (p.channelCopies id).map (fun e => e.2.ctx.asid)
  | 2 => (p.unitCalls id).map (fun e => e.2.ctx.asid)
  | 3 => (p.engineColls id).map (fun e => e.2.ctx.asid)
  | _ => []

/-- A violation as the freeze block records it (27 R486): the context is one that the master works for, or 0 where it works for
none, and there is an address for WINDOW and FOREIGN alone. -/
def Pkg.logged (p : Pkg) (v : Violation) : Violation :=
  let on := p.workAsids v.cls v.id
  { v with asid := if on.contains v.asid then v.asid else on.headD 0, pa := if v.code = 1 ∨ v.code = 4 then 0 else v.pa }

/-- MASTER_FREEZE: a master that breaks a rule stops where it stands. -/
def execMasterFreeze (v : Violation) (s : State) : Host.Outcome State Fault Refusal :=
  if !violationKnown v ∨ s.pkg.isFrozen v.cls v.id then .next s
  else
    let s := s.freezeMaster (s.pkg.logged v)
    .next (if v.cls = 4 then { s with pkg := s.pkg.lockFw v.id } else s)

/-! ## Thawing (27 R486-R487) -/

/-- A frozen master runs again and its entry goes to the oldest violation that has none. -/
def Pkg.release (p : Pkg) (e : Nat) : Pkg :=
  let left := p.frozen.filter (fun f => f.entry != some e)
  match left.findIdx? (fun f => f.entry.isNone) with
  | some i => { p with frozen := left.modify i (fun f => { f with entry := some e }) }
  | none => { p with frozen := left }

/-- The entries that a firmware core held are free again. -/
def Pkg.unlockFw (p : Pkg) (id : Nat) : Pkg :=
  { p with fwq := p.fwq.modify (id / 12) (fun l => l.map (fun f => if f.locked = some id then { f with locked := none } else f)) }

/-- The step that a firmware core held ends: the queue of its packet is reset (R466). -/
def Pkg.dropStep (p : Pkg) (id : Nat) : Pkg :=
  let held := (p.fwq.getD (id / 12) []).filter (fun f => f.locked == some id)
  let p : Pkg := { p with fwq := p.fwq.modify (id / 12) (fun l => l.filter (fun f => f.locked != some id)) }
  held.foldl (fun p f => if f.overflow then p else p.resetWritten f.q) p

/-- A copy fails with cause 0x16 and leaves its engine. -/
def Pkg.failCopy (p : Pkg) (core id : Nat) (y : Copy) : Pkg :=
  let x : Charge := ⟨0x16, 0, 0⟩
  if y.fault.isSome then p.copyDone core id y
  else
    let p := (p.modCore core (fun k => { k with copies := KMap.insert id { y with fault := some x } k.copies })).copyFaulted y x
    match (p.core core).copies.find? id with
    | some y => p.copyDone core id y
    | none => p

/-- A call fails: an ordered unit passes its turn, the others answer at once. -/
def Pkg.failCall (p : Pkg) (core id : Nat) (c : Call) : Pkg :=
  if c.cls = 1 ∨ c.cls = 2 then p.modCall core id (fun x => { x with failed := true }) else p.answerFault core id ⟨0x16, 0, 0⟩

/-- End the first of some pieces of work, or all. -/
def someOf {α : Type} (all : Bool) (l : List α) : List α := if all then l else l.take 1

/-- The work of a thawed master fails: the oldest piece of it, or all. -/
def Pkg.failWork (p : Pkg) (all : Bool) (f : Freeze) : Pkg :=
  match f.cls with
  | 1 => (someOf all (p.channelCopies f.id)).foldl (fun p y => p.failCopy (f.id / 8) y.1 y.2) p
  | 2 => (someOf all (p.unitCalls f.id)).foldl (fun p y => p.failCall (f.id / 8) y.1 y.2) p
  | 3 => (someOf all (p.engineColls f.id)).foldl (fun p y => p.endColl y.1 y.2 (some ⟨0x16, 0, 0⟩)) p
  | 4 => p.dropStep f.id
  | _ => { p with shunned := if all then p.shunned.filter (· != f.id) else f.id :: p.shunned }

/-- The master that an entry of the freeze block holds. -/
def Pkg.frozenAt (p : Pkg) (e : Nat) : Option Freeze := p.frozen.find? (fun f => f.entry == some e)

/-- A thaw. Action 3 does nothing. -/
def State.thaw (s : State) (action e : Nat) : State :=
  match s.pkg.frozenAt e with
  | none => s
  | some f =>
    match action with
    | 0 =>
      let s := { s with pkg := s.pkg.release e }
      (match f.cls, f.req with
       | 4, _ => { s with pkg := s.pkg.unlockFw f.id }
       | 5, some r => s.serveInbound f.id r
       | _, _ => s)
    | 1 => { s with pkg := (s.pkg.release e).failWork false f }
    | 2 => { s with pkg := (s.pkg.release e).failWork true f }
    | _ => s

/-- THAW_RESUME. -/
def execThawResume (e : Nat) (s : State) : Host.Outcome State Fault Refusal := .next (s.thaw 0 e)

/-- THAW_SKIP. -/
def execThawSkip (e : Nat) (s : State) : Host.Outcome State Fault Refusal := .next (s.thaw 1 e)

/-- THAW_RESET. -/
def execThawReset (e : Nat) (s : State) : Host.Outcome State Fault Refusal := .next (s.thaw 2 e)

/-! ## Holding the package (27 R491) -/

/-- Change every resident block. -/
def Pkg.mapBlocks (p : Pkg) (f : Block → Block) : Pkg :=
  { p with cores := (p.cores.map (fun k => (k.1, { k.2 with blocks := (k.2.blocks.map (fun b => (b.1, f b.2))) }))) }

/-- A split stops for the hold, unless its store waits for a copy-on-write. -/
def Split.holdStop (s : Split) : Split :=
  if s.st == .free || s.st == .stopped || s.inCow then s else { s.stop with onHold := true, stepping := s.stepping }

/-- Every split of a warp stops as R393 states. -/
def Warp.holdStop (w : Warp) : Warp :=
  let w := if w.halt == .stopped then w else w.abortAll 0x0E
  { w with splits := w.splits.map Split.holdStop }

/-- The blocks of the package stop. -/
def Pkg.stopAllBlocks (p : Pkg) : Pkg :=
  (p.mapBlocks (fun b => { b.pause p.ptime with warps := (b.warps.map (fun w => (w.1, w.2.holdStop))) })).countRegions

/-- HOLD is written 1. -/
def Pkg.holdOn (p : Pkg) : Pkg := if p.hold then p else { p with hold := true }.stopAllBlocks

/-- PACKAGE_HOLD. -/
def execPackageHold (s : State) : Host.Outcome State Fault Refusal := .next { s with pkg := s.pkg.holdOn }

/-- What R491 waits for is over: copies, collectives, calls, matrix operations, pod-remote accesses, copies-on-write and
COPY packets under way; frozen masters stay as they are. -/
def Pkg.quiet (p : Pkg) : Bool :=
  p.cores.all (fun k =>
    k.2.copies.all (fun y => p.isFrozen 1 (copyChannel k.1 y.1)) && k.2.mx.ops.isEmpty &&
    k.2.calls.all (fun c => p.keepsCall k.1 c.1 c.2 || p.isFrozen 2 (8 * k.1 + c.2.cls)) &&
    k.2.blocks.all (fun b => b.2.warps.all (fun w => w.2.splits.all (fun s => !s.inCow)))) &&
  p.colls.all (fun y => p.isFrozen 3 (y.2.group % 2)) && p.pods.isEmpty && p.cows.isEmpty &&
  p.queues.all (fun k => k.2.packets.all (fun x => !(x.2.type == 5 && x.2.progress != 0 && !x.2.done)))

/-- Write back the dirty stash sectors of every block. -/
def Pkg.cleanStashes (p : Pkg) : Pkg :=
  (p.cores.flatMap (fun k => k.2.blocks.flatMap (fun b => b.2.stash.keys.map (fun id => (k.1, b.1, id))))).foldl
    (fun p x => p.stashClean x.1 x.2.1 x.2.2) p

/-- HOLD_COMPLETE: what runs has settled; L1s, stash windows and trace records are written, and HELD is 1. -/
def execHoldComplete (s : State) : Host.Outcome State Fault Refusal :=
  let p := s.pkg
  if !p.hold || s.mgmt.held || !p.quiet then .next s
  else
    let p := p.stopAllBlocks
    let p := (p.cores.keys.foldl (fun p c => p.l1WriteBack c) p).cleanStashes
    match p.traces.keys.foldl (fun (r : Except Pkg Pkg) q => r.bind (fun p => p.flushTrace q)) (.ok p) with
    | .error r => .next { s with pkg := s.pkg.waiting r }
    | .ok p => .next { s with pkg := p, mgmt := { s.mgmt with held := true } }

/-- A split that the hold stopped goes on, unless its warp is at the stop of a halt. -/
def Split.holdEnd (halted : Bool) (s : Split) : Split :=
  if s.onHold ∧ !halted then { s.unstop with onHold := false } else { s with onHold := false }

/-- HOLD is written 0. -/
def Pkg.holdOff (p : Pkg) : Pkg :=
  if !p.hold then p
  else
    let saving := p.saving
    let p := ({ p with hold := false } : Pkg).mapBlocks (fun b =>
      let b : Block := { b with warps := (b.warps.map (fun w =>
        (w.1, { w.2 with splits := w.2.splits.map (Split.holdEnd (w.2.halt == .stopped)) }))) }
      if b.mode == .running && !saving b then b.unpause p.ptime else b)
    p.queues.keys.foldl (fun p q => p.markStartable q) p

/-- PACKAGE_UNHOLD. -/
def execPackageUnhold (s : State) : Host.Outcome State Fault Refusal :=
  .next { s with pkg := s.pkg.holdOff, mgmt := { s.mgmt with held := false } }

end Sys2Proof.Machine
end

