-- ==== Sys2Proof/Machine/Hash.lean ====
section
/-!
DEFINITION. The hash by which an X-die extends its measurement registers (16_links_and_host.md R380): SHAKE256 of a message
of one block, which is what a register and a digest are. The function itself is that of FIPS 202, which R380 names
(log 9).
-/

namespace Sys2Proof.Machine

/-- The bits that go into the round constants, n of them: a byte is shifted up and folded back by 0x71. -/
def hashBits : Nat → Nat → List Bool
  | 0, _ => []
  | n + 1, r => (r % 2 == 1) :: hashBits n (if r < 128 then 2 * r else Nat.xor (2 * r - 256) 0x71)

/-- The constant of a round: seven of those bits, at the places one below the powers of two. -/
def roundConst (bits : List Bool) (round : Nat) : DWord :=
  (List.range 7).foldl (fun v j =>
    if bits.getD (7 * round + j) false then v + BitVec.ofNat 64 (2 ^ (2 ^ j - 1)) else v) 0

/-- How far lane i = x + 5 y is rotated: its place n on the walk from (1, 0) through (y, 2 x + 3 y) tells it; n runs from 1, and
lane 0, which the walk never meets, stays. -/
def laneTurn (i : Nat) : Nat → Nat → Nat
  | 0, _ => 0
  | fuel + 1, at_ =>
    let n := 24 - fuel
    if at_ = i then n * (n + 1) / 2 % 64 else laneTurn i fuel (at_ / 5 + 5 * ((2 * (at_ % 5) + 3 * (at_ / 5)) % 5))

/-- One round on 25 lanes. -/
def hashRound (a : List DWord) (rc : DWord) : List DWord :=
  let lane (l : List DWord) (i : Nat) : DWord := l.getD i 0
  let c := (List.range 5).map (fun x => (List.range 5).foldl (fun v y => v ^^^ lane a (x + 5 * y)) 0)
  let d := (List.range 5).map (fun x => lane c ((x + 4) % 5) ^^^ (lane c ((x + 1) % 5)).rotateLeft 1)
  let b := (List.range 25).map (fun j =>
    let i := (j % 5 + 3 * (j / 5)) % 5 + 5 * (j % 5)
    (lane a i ^^^ lane d (i % 5)).rotateLeft (laneTurn i 24 1))
  (List.range 25).map (fun j =>
    let row := 5 * (j / 5)
    let v := lane b j ^^^ (~~~ lane b (row + (j + 1) % 5) &&& lane b (row + (j + 2) % 5))
    if j = 0 then v ^^^ rc else v)

/-- SHAKE256 of fewer than 136 bytes: 64 bytes of output. -/
def shake256 (m : List Byte) : List Byte :=
  let pad := m ++ 0x1F :: List.replicate (135 - m.length) 0
  let block := (pad.take 135) ++ [pad.getD 135 0 ||| 0x80]
  let start : List DWord := (List.range 25).map (fun i => BitVec.ofNat 64 (ofBytes ((block.drop (8 * i)).take 8)))
  let bits := hashBits 168 1
  (((List.range 24).foldl (fun a k => hashRound a (roundConst bits k)) start).take 8).flatMap (fun v => bytesOf 8 v.toNat)

/-- A measurement register extended with a digest: its bytes and those of the digest, each least significant first. -/
def extendMeasure (m digest : BitVec 512) : BitVec 512 :=
  BitVec.ofNat 512 (ofBytes (shake256 (bytesOf 64 m.toNat ++ bytesOf 64 digest.toNat)))

end Sys2Proof.Machine
end

