-- ==== Sys2Proof/Machine/Recovery.lean ====
section
/-!
DEFINITION. Resets of dies and X-dies, the boot of an X-die, monitors and throttling (01_plinth_and_dies.md R23,
16_links_and_host.md R380, 25_memory_failures.md R456-R458, 27_containment_recovery.md R495-R503).
-/

namespace Sys2Proof.Machine

/-! ## Dies that reset (25 R456-R458, 27 R495-R497) -/

/-- Cores of a die. -/
def coresOf (d : Nat) : List Nat := (List.range 96).map (fun i => 96 * d + i)

/-- Blocks resident on a die. -/
def Pkg.blocksOn (p : Pkg) (d : Nat) : List (Nat × Nat × Block) :=
  (List.filter (fun k => dieOfCore k.1 == d) p.cores).flatMap (fun k => k.2.blocks.map (fun b => (k.1, b.1, b.2)))

/-- Queues with a block resident on a die. -/
def Pkg.queuesOn (p : Pkg) (d : Nat) : List Nat := ((p.blocksOn d).map (fun x => p.queueOf x.2.2)).dedup

/-- A controlled reset of some die is in progress: BUSY (27 R495). -/
def Pkg.resetBusy (p : Pkg) : Bool := p.dies.any (fun d => d.2.drain.isSome)

/-- The cause for which a block of a HALTED queue ends (23 R424): of its own origin, else of a block of its launch, else of its queue. -/
def Pkg.haltCause (p : Pkg) (c b : Nat) (bl : Block) : Option Nat :=
  let all := p.queueBlocks (p.queueOf bl)
  let of (xs : List (Nat × Nat × Block)) : Option Nat := (xs.filterMap (fun x => p.originCause x.1 x.2.1)).head?
  ((p.originCause c b).or (of (all.filter (fun x => x.2.2.launch == bl.launch)))).or (of all)

/-- A block of a HALTED queue ends as KILL (27 R496). -/
def Pkg.endHalted (p : Pkg) (c b : Nat) (bl : Block) : Pkg :=
  if (p.queue (p.queueOf bl)).st ≠ .halted then p
  else
    let cause := p.haltCause c b bl
    (p.modBlock c b (fun x => { x with mode := match x.mode with | .held o => .halting o .kill | m => m })).killLaunch bl.launch cause

/-- Blocks leave a die that drains: those of HALTED queues end, and every ACTIVE queue with a block there receives PREEMPT. -/
def Pkg.drainDie (p : Pkg) (d : Nat) : Pkg :=
  let p := (p.blocksOn d).foldl (fun p x => p.endHalted x.1 x.2.1 x.2.2) p
  let old := ((p.die d).drain).getD []
  let new := (p.queuesOn d).filter (fun q => (p.queue q).st == .active && !(p.queue q).preemptDue && !old.contains q)
  (new.foldl (fun p q => p.preemptQueue q) p).modDie d (fun k => { k with drain := some (old ++ new) })

/-- A controlled reset begins. -/
def Pkg.startReset (p : Pkg) (d : Nat) : Pkg :=
  if (p.die d).inReset ∨ (p.die d).drain.isSome then p else p.drainDie d

/-- The masters of some classes that a test picks are not frozen any more. -/
def Pkg.unfreeze (p : Pkg) (sel : Freeze → Bool) : Pkg :=
  ((p.frozen.filter sel).filterMap Freeze.entry).foldl Pkg.release { p with frozen := p.frozen.filter (fun f => !(sel f && f.entry.isNone)) }

/-- What is left of a core of a die in reset: copies of blocks that are saved or run on another die, which go on when the die
runs again (27 R494, R497, log 65). -/
def Core.keptCopies (k : Core) (d : Nat) : KMap Copy := List.filter (fun y => y.2.home.isSome || dieOfCore y.2.ocore != d) k.copies

/-- The cores of a die as they stand in its reset. -/
def Pkg.clearCores (p : Pkg) (d : Nat) : Pkg :=
  { p with cores := p.cores.filterMap (fun k =>
      if dieOfCore k.1 ≠ d then some k
      else if (k.2.keptCopies d).isEmpty then none
      else some (k.1, { Core.reset with copies := k.2.keptCopies d })) }

/-- A die is in reset: its cores, caches, counters and error block are as after power-on; its clock and its throttle go on. -/
def Pkg.enterReset (p : Pkg) (d : Nat) (rebuild : Bool) : Pkg :=
  let back := ((p.die d).drain).getD []
  let p := p.unfreeze (fun f => (f.cls == 1 || f.cls == 2) && f.id / 768 == d)
  let p := (p.clearCores d).modDie d (fun k => { Die.reset with
    inReset := true, rebuild := rebuild, thr := k.thr, ran := k.ran, lag := k.lag, lagBounds := k.lagBounds
    monDue := k.monDue, temps := k.temps, droops := k.droops, vcores := k.vcores, roscs := k.roscs })
  back.foldl (fun p q => p.resumeWhenSaved q) p

/-- The directory after the sweep of a die: no line homed on it is held elsewhere, and it holds none (25 R456). -/
def Pkg.sweepDir (p : Pkg) (d : Nat) : Pkg :=
  { p with dir := p.dir.filterMap (fun e =>
      if homeDie (256 * e.1) = d ∨ e.2.holder = some d then none
      else some (e.1, { e.2 with sharers := e.2.sharers.filter (· != d) })) }

/-- A controlled reset cannot go on: a save was refused, ERR is 1 and the queues pre-empted so far resume. -/
def State.refuseReset (s : State) (d : Nat) : State :=
  let back := ((s.pkg.die d).drain).getD []
  let p := s.pkg.modDie d (fun k => { k with drain := none, thr := { k.thr with shut := false, cold := none } })
  { s with pkg := back.foldl (fun p q => p.resumeWhenSaved q) p, mgmt := { s.mgmt with rstErr := 1 } }

/-- GO is written with KIND 0. -/
def State.resetGo (s : State) (d : Nat) : State :=
  if 4 ≤ d ∨ s.pkg.resetBusy ∨ (s.pkg.die d).inReset then s
  else { s with pkg := s.pkg.startReset d, mgmt := { s.mgmt with rstErr := 0 } }

/-- DIE_RESET_CONTROLLED. -/
def execDieResetControlled (d : Nat) (s : State) : Host.Outcome State Fault Refusal := .next (s.resetGo d)

/-- DIE_RESET_SWEEP (25 R456, 27 R496): once no block is left on a die that drains, every image is written and nothing runs in
its engines, it is swept and enters reset; the queues that it pre-empted resume. -/
def execDieResetSweep (d : Nat) (s : State) : Host.Outcome State Fault Refusal :=
  match (s.pkg.die d).drain with
  | none => .next s
  | some qs =>
    if (s.pkg.queuesOn d).any (fun q => qs.contains q && (s.pkg.queue q).st == .active && !(s.pkg.queue q).preemptDue) then
      .next (s.refuseReset d)
    else
      let p := s.pkg.drainDie d
      let saving := (((p.die d).drain).getD []).any (fun q => (p.queue q).st == .preempting || (p.queue q).preemptDue)
      let busy := saving || (List.filter (fun k => dieOfCore k.1 == d) p.cores).any (fun k =>
        !k.2.copies.isEmpty || !k.2.calls.isEmpty || p.l1Barred k.1)
      if !(p.blocksOn d).isEmpty || busy then .next { s with pkg := p }
      else
        let p := (List.filter (fun k => dieOfCore k.1 == d) p.cores).foldl (fun p k => p.l1WriteBack k.1) p.cleanStashes
        match p.traces.keys.foldl (fun (r : Except Pkg Pkg) q => r.bind (fun p => p.closePart q d 2 (some 2))) (.ok p) with
        | .error r => .next { s with pkg := p.waiting r }
        | .ok p => .next { s with pkg := (p.sweepDir d).enterReset d false }

/-- An uncorrectable error that a die could not recover (25 R448-R449). -/
def Pkg.noteError (p : Pkg) (d : Nat) (pa : DWord) (src : Nat) : Pkg :=
  p.modDie d (fun k => { k with merr := { k.merr with
    ue := saturate k.merr.ue, uePa := pa, ueSrc := src, uePtime := p.ptime } })

/-- The physical address of a sector of this package. -/
def Pkg.sectorPa (p : Pkg) (x : Nat) : DWord := BitVec.ofNat 64 (p.link.pkgid * 2 ^ 46 + 64 * x)

/-- Poison the sectors that a die's loss took, noted with their home dies. -/
def Pkg.poisonSectors (p : Pkg) (secs : List Nat) : Pkg :=
  secs.foldl (fun p x => (p.poisonSector x).noteError (homeDie (64 * x)) (p.sectorPa x) 0x07) p

/-- The sectors of a line. -/
def lineSectors (l : Nat) : List Nat := (List.range 4).map (fun i => 4 * l + i)

/-- Lines when a die stops without a sweep (25 R457): poisoned where it held the only copy that may be newer than memory. -/
def Pkg.loseLines (p : Pkg) (d : Nat) : Pkg :=
  let lost := List.filter (fun e => e.2.holder == some d && (!e.2.owned || (e.2.sharers.filter (· != d)).isEmpty)) p.dir
  let dir : KMap DirLine := p.dir.filterMap (fun e =>
    let sh := e.2.sharers.filter (· != d)
    if e.2.holder = some d then (if e.2.owned ∧ sh ≠ [] then some (e.1, ⟨none, false, sh, e.2.since⟩) else none)
    else some (e.1, { e.2 with sharers := sh }))
  ({ p with dir := dir } : Pkg).poisonSectors (lost.flatMap (fun e => lineSectors e.1))

/-- Copies of a block that is gone go on without an owner. -/
def Pkg.orphanCopies (p : Pkg) (c b : Nat) : Pkg :=
  let gone (y : Copy) : Copy := if y.home.isNone ∧ y.ocore = c ∧ y.slot = b then { y with slot := goneSlot } else y
  { p with cores := (p.cores.map (fun k => (k.1, { k.2 with copies := (k.2.copies.map (fun y => (y.1, gone y.2))) }))) }

/-- The blocks of a die are gone at once: nothing of them is written. -/
def Pkg.loseBlocks (p : Pkg) (d : Nat) : Pkg :=
  let xs := p.blocksOn d
  let p := (xs.map (fun x => x.2.2.launch)).dedup.foldl (fun p l => p.killLaunch l (some 0x1C)) p
  let p := xs.foldl (fun p x => ((p.orphan x.1 x.2.1).orphanCopies x.1 x.2.1).withdrawBlock x.1 x.2.1 x.2.2) p.countRegions
  p.clearCores d

/-- The part of a die in every trace session ends with REASON 2, and its unwritten records are lost (27 R503). -/
def Pkg.loseTrace (p : Pkg) (d : Nat) : Pkg :=
  p.traces.keys.foldl (fun p q => (p.modTrace q (fun t => { t with recs := KMap.erase d t.recs })).closeBy q d 2) p

/-- A die stops at once (27 R497). -/
def Pkg.crashDie (p : Pkg) (d : Nat) : Pkg :=
  if (p.die d).inReset then p
  else
    let ls := ((p.blocksOn d).map (fun x => x.2.2.launch)).dedup
    let qs := (p.queuesOn d)
    let p := (((p.loseTrace d).loseBlocks d).enterReset d true).loseLines d
    let fam := (ls.flatMap (fun l => p.family l)).dedup
    let p := p.endGrids (sortBy (fun a b => decide (a ≤ b)) fam)
    qs.foldl (fun p q => (p.settleHalt q).settleQueue q) p

/-- GO is written with KIND 1. -/
def State.crashGo (s : State) (d : Nat) : State :=
  if 4 ≤ d ∨ s.pkg.resetBusy then s else { s with pkg := s.pkg.crashDie d, mgmt := { s.mgmt with rstErr := 0 } }

/-- DIE_RESET_UNCONTROLLED: from a write of GO, or from an internal error of the die. -/
def execDieResetUncontrolled (d : Nat) (s : State) : Host.Outcome State Fault Refusal :=
  if 4 ≤ d then .next s else .next { s with pkg := s.pkg.crashDie d }

/-- RELEASE restarts every die in reset. -/
def Pkg.releaseDies (p : Pkg) : Pkg :=
  let run (k : Die) : Die := if k.inReset then { k with inReset := false, thr := { k.thr with shut := false, cold := none } } else k
  { p with dies := (p.dies.map (fun d => (d.1, run d.2))) }

/-- DIE_RELEASE. -/
def execDieRelease (s : State) : Host.Outcome State Fault Refusal := .next { s with pkg := s.pkg.releaseDies }

/-- DIRECTORY_REBUILD_DONE (25 R458): the lines that no holder was found for were poisoned when the die stopped; accesses
homed on it go on. -/
def execDirectoryRebuildDone (d : Nat) (s : State) : Host.Outcome State Fault Refusal :=
  .next { s with pkg := { s.pkg with dies := s.pkg.dies.modify d (fun k => if k.inReset then k else { k with rebuild := false }) } }

/-! ## X-dies (16 R380, 27 R498-R500) -/

/-- The boot of an X-die: the image is verified and M0 extended with its digest, M1-M3 with those of the later stages. -/
def State.boot (s : State) (x : Nat) : State :=
  let m := s.mgmt
  if Config.firmwareVerifies s.pkg.tick x then
    let take (ms : KMap (BitVec 512)) (i : Nat) (digest : BitVec 512) : KMap (BitVec 512) :=
      KMap.insert (4 * x + i) (extendMeasure (ms.getD (4 * x + i) 0) digest) ms
    { s with mgmt := { m with
      dead := m.dead.filter (· != x)
      meas := [1, 2, 3].foldl (fun ms i => match Config.laterStage x i with
        | some g => take ms i g
        | none => ms) (take m.meas 0 (Config.firmwareImage x)) } }
  else { s with mgmt := { m with dead := x :: m.dead.filter (· != x) } }

/-- Overflow services that an X-die was asked for go to the other one (27 R499), as far as it has room: the source of the rest
stalls (13 R315). -/
def Pkg.moveServices (p : Pkg) (x : Nat) : Pkg :=
  let mine := (p.fwq.getD x []).filter (fun f => f.overflow)
  let other := p.fwq.getD (1 - x) []
  let new := (mine.filter (fun f => !other.any (fun g => g.overflow && g.q == f.q))).map (fun f => { f with locked := none })
  ({ p with fwq := KMap.insert (1 - x) (other ++ new.take (4096 - other.length)) (KMap.erase x p.fwq) } : Pkg).raiseOverflow

/-- The queues that an X-die serves are reset, pairs under examination are abandoned, and the queues read their reset values but
for ERROR (27 R500). -/
def Pkg.loseQueues (p : Pkg) (x : Nat) : Pkg :=
  let qs := p.queues.keys.filter (fun q => queueDie q == x)
  let p : Pkg := { p with launches := (p.launches.map (fun e => (e.1, if qs.contains e.2.q then { e.2 with linking := false } else e.2))) }
  let p := qs.foldl (fun p q => (p.modQueue q (fun k => { k with lost := true })).resetWritten q) p
  ((List.range 512).map (fun i => 512 * x + i)).foldl
    (fun p q => if qs.contains q then p else p.modQueue q (fun _ => { Queue.reset with error := 8 })) p

/-- The groups that an X-die serves are invalid, and their collectives end with cause 0x26. -/
def Pkg.loseGroups (p : Pkg) (x : Nat) : Pkg :=
  ((p.groups.keys ++ p.colls.vals.map Coll.group).dedup.filter (fun g => g % 2 == x)).foldl
    (fun p g => p.loseMember g p.link.pkgid) p

/-- An X-die enters reset (27 R500). -/
def State.resetXdie (s : State) (x : Nat) (byError : Bool) : State :=
  let p := { s.pkg with xreset := KMap.insert x (byError, s.pkg.ptime) s.pkg.xreset }
  let p := ((Pkg.loseQueues p x).loseGroups x).moveServices x
  let p := (List.range 8).foldl (fun p k => p.setPort (8 * x + k) false) p
  let p := p.unfreeze (fun f => (f.cls == 3 && f.id == x) || (f.cls == 4 && f.id / 12 == x))
  let m := s.mgmt
  { s with
    pkg := { p with turn := KMap.erase x p.turn, linker := KMap.erase x p.linker }
    mgmt := { m with
      linkUp := KMap.insert x false m.linkUp
      dead := x :: m.dead.filter (· != x)
      meas := List.filter (fun e => e.1 / 4 != x) m.meas } }

/-- GO is written: ignored while that X-die or the other one is in reset. -/
def State.xdieGo (s : State) (x : Nat) : State := if 2 ≤ x ∨ !s.pkg.xreset.isEmpty then s else s.resetXdie x false

/-- XDIE_RESET. -/
def execXdieReset (x : Nat) (s : State) : Host.Outcome State Fault Refusal := .next (s.xdieGo x)

/-- XDIE_ERROR_RESET: an uncorrectable error in the tables of the X-die. -/
def execXdieErrorReset (x : Nat) (s : State) : Host.Outcome State Fault Refusal :=
  if 2 ≤ x ∨ (s.pkg.xreset.find? x).isSome then .next s else .next (s.resetXdie x true)

/-- An X-die restarts: it boots, and serves its queues. -/
def State.restartXdie (s : State) (x : Nat) : State :=
  if (s.pkg.xreset.find? x).isNone then s
  else State.boot { s with pkg := { s.pkg with xreset := KMap.erase x s.pkg.xreset } } x

/-- XDIE_RELEASE. -/
def execXdieRelease (x : Nat) (s : State) : Host.Outcome State Fault Refusal := .next (s.restartXdie x)

/-- XDIE_AUTO_RELEASE: a reset that an error started ends after 1 ms. -/
def execXdieAutoRelease (x : Nat) (s : State) : Host.Outcome State Fault Refusal :=
  match s.pkg.xreset.find? x with
  | some (true, t) => if s.pkg.ptime.toNat < t.toNat + 1000000 then .next s else .next (s.restartXdie x)
  | _ => .next s

/-! ## Power, monitors and throttling (01 R23, 17 R396, 27 R501-R502) -/

/-- The window of 100 µs that an instant lies in. -/
def powerWindowOf (t : DWord) : Nat := t.toNat / 100000

/-- POWER_WINDOW (01 R23): while the estimate of a window exceeds the limit, density-8 formats are paced, which changes no
result; the pacing is lifted at the end of the first later window whose estimate does not. -/
def execPowerWindow (high : Bool) (s : State) : Host.Outcome State Fault Refusal :=
  let p := s.pkg
  if high then .next { s with pkg := { p with paced := true, powerAt := powerWindowOf p.ptime } }
  else if p.powerAt + 2 ≤ powerWindowOf p.ptime then .next { s with pkg := { p with paced := false } }
  else .next s

/-- T_CUT, T_SHUT in units of 0.125 degrees, V_CUT and V_MIN in mV (27 R501). -/
def tCut : Nat := 1000
/-- Stage 3 entry. -/
def tShut : Nat := 920
/-- Uncontrolled reset. -/
def vCut : Nat := 650
/-- Voltage condition. -/
def vMin : Nat := 700

/-- In-band interrupts of the management port, with their mandatory byte, where its events are enabled (16 R379). -/
def State.interrupt (s : State) (n : Nat) : State :=
  if s.mgmt.i3cEvents.getLsbD 0 then s
  else { s with mgmt := { s.mgmt with i3cIbi := s.mgmt.i3cIbi ++ List.replicate n 0xA0 } }

/-- The greatest temperature of a reading, and the least supply. -/
def Readings.extremes (r : List (BitVec 16)) (v : List (BitVec 16)) : Int × Nat :=
  (r.foldl (fun m t => max m t.toInt) (-32768), v.foldl (fun m x => min m x.toNat) 65535)

/-- The condition under which a stage falls holds (27 R502): below its own entry threshold minus 40, or a good supply. -/
def Throttle.cool (k : Throttle) (t : Int) (v : Nat) : Bool :=
  let own : Nat := if k.stage ≤ 1 then k.tPace else if k.stage = 2 then k.tHold else tShut
  if k.byVolt then decide (vMin ≤ v) else decide (t < (own : Int) - 40)

/-- The stage that a reading asks for. -/
def Throttle.wants (k : Throttle) (t : Int) (volt : Bool) : Nat :=
  if (tShut : Int) ≤ t then 3 else if (k.tHold : Int) ≤ t then 2 else if (k.tPace : Int) ≤ t ∨ volt then 1 else 0

/-- The throttle after a reading; each stage it rises by counts. A die that was shut down cools from when it is below T_PACE
minus 40. -/
def Throttle.update (k : Throttle) (now : DWord) (t : Int) (v : Nat) : Throttle :=
  let low := decide (v < vMin)
  let volt := low && k.low
  let want := k.wants t volt
  let cold : Option DWord := if k.shut ∧ t < (k.tPace : Int) - 40 then some (k.cold.getD now) else none
  let k := { k with low := low, volt := volt, temp := decide ((k.tPace : Int) ≤ t), cold := cold }
  if k.stage < want then
    { k with
      stage := want, events := k.events + BitVec.ofNat 32 (want - k.stage), entered := now, good := none
      byVolt := want == 1 && decide (t < (k.tPace : Int)) }
  else { k with good := if k.stage ≠ 0 ∧ k.cool t v then some (k.good.getD now) else none }

/-- The first n readings of a list, by sensor. -/
def sensors {w : Nat} (n : Nat) (l : List (BitVec w)) : KMap (BitVec w) := (l.take n).zipIdx.map (fun e => (e.2, e.1))

/-- The droop counts after n further events of each core, saturating (17 R396). -/
def addDroops (old : KMap (BitVec 16)) (l : List (BitVec 16)) : KMap (BitVec 16) :=
  (List.range 96).map (fun i => (i, BitVec.ofNat 16 (min 0xFFFF ((old.getD i 0).toNat + (l.getD i 0).toNat))))

/-- Stage 3 is entered: a die that is not in reset or on its way there is shut down (27 R502), to restart by itself. -/
def Pkg.markShut (p : Pkg) (d : Nat) : Pkg :=
  let k := p.die d
  if k.inReset ∨ k.drain.isSome then p else p.modDie d (fun k => { k with thr := { k.thr with shut := true, cold := none } })

/-- MONITOR_UPDATE: every 10 µs the fields of a die's monitor block are read anew, and the throttle acts on them. A cut that
is no rise of a stage raises its own interrupt (16 R379; log 30). -/
def execMonitorUpdate (d : Nat) (r : Readings) (s : State) : Host.Outcome State Fault Refusal :=
  if 4 ≤ d ∨ s.pkg.ptime.toNat < (s.pkg.die d).monDue.toNat then .next s
  else
    let x := Readings.extremes (r.temp.take 32) (r.vcore.take 96)
    let old := s.pkg.die d
    let cut : Bool := decide ((tCut : Int) ≤ x.1 ∨ x.2 < vCut)
    let thr := old.thr.update s.pkg.ptime x.1 x.2
    let p := s.pkg.modDie d (fun k => { k with
      monDue := BitVec.ofNat 64 (s.pkg.ptime.toNat / 10000 * 10000 + 10000)
      temps := sensors 32 r.temp, droops := addDroops k.droops r.droop, vcores := sensors 96 r.vcore, roscs := sensors 16 r.rosc, thr := thr })
    let rises := thr.stage - old.thr.stage
    let p := if old.thr.stage < 3 ∧ thr.stage = 3 then p.markShut d else p
    let s := State.interrupt { s with pkg := p } (if cut then max rises 1 else rises)
    if cut then .next { s with pkg := s.pkg.crashDie d }
    else if old.thr.stage < 3 ∧ thr.stage = 3 then .next { s with pkg := s.pkg.startReset d }
    else .next s

/-- THROTTLE_STAGE_TIMEOUT: 100 ms in stage 2. -/
def execThrottleStageTimeout (d : Nat) (s : State) : Host.Outcome State Fault Refusal :=
  let k := (s.pkg.die d).thr
  if k.stage ≠ 2 ∨ s.pkg.ptime.toNat < k.entered.toNat + 100000000 then .next s
  else
    let p := s.pkg.modDie d (fun x => { x with thr := { k with stage := 3, events := k.events + 1, entered := s.pkg.ptime, good := none } })
    .next (State.interrupt { s with pkg := (p.markShut d).startReset d } 1)

/-- THROTTLE_STEP_DOWN: a stage falls by one after 1 ms. -/
def execThrottleStepDown (d : Nat) (s : State) : Host.Outcome State Fault Refusal :=
  let k := (s.pkg.die d).thr
  match k.good with
  | none => .next s
  | some t =>
    if k.stage = 0 ∨ s.pkg.ptime.toNat < t.toNat + 1000000 then .next s
    else .next { s with pkg := s.pkg.modDie d (fun x =>
      { x with thr := { k with stage := k.stage - 1, entered := s.pkg.ptime, good := none, byVolt := false } }) }

/-- THROTTLE_RESTART: a die that stage 3 shut down restarts after 10 ms below T_PACE minus 40. -/
def execThrottleRestart (d : Nat) (s : State) : Host.Outcome State Fault Refusal :=
  let k := (s.pkg.die d).thr
  match k.cold with
  | none => .next s
  | some t =>
    if !k.shut ∨ !(s.pkg.die d).inReset ∨ s.pkg.ptime.toNat < t.toNat + 10000000 then .next s
    else .next { s with pkg := s.pkg.modDie d (fun x => { x with inReset := false, thr := { k with shut := false, cold := none } }) }

end Sys2Proof.Machine
end

