-- ==== Sys2Proof/Machine/Storage.lean ====
section
/-!
DEFINITION. Storage errors, the scrub of a sector and the clearing of error and region counters
(25_memory_failures.md R448-R455, 26_scheduling_engine_failures.md R480).
-/

namespace Sys2Proof.Machine

/-! ## Storage errors (25 R449-R450, R455) -/

/-- An error that is corrected in place. -/
def Pkg.corrected (p : Pkg) (d : Nat) (f : MemErr → MemErr) : Pkg :=
  if 4 ≤ d then p else p.modDie d (fun k => { k with merr := f k.merr })

/-- A register of a lane is poisoned. -/
def Pkg.poisonReg (p : Pkg) (c b w lane r : Nat) : Pkg :=
  match p.warp? c b w with
  | none => p
  | some x =>
    if x.alloc ≤ r ∨ 32 ≤ lane then p
    else
      (p.modWarp c b w (fun x => { x with
        rpoison := if x.rpoison.contains (32 * r + lane) then x.rpoison else (32 * r + lane) :: x.rpoison })).noteError
        (dieOfCore c) 0 0x01

/-- A granule of a block's scratchpad is poisoned. -/
def Pkg.poisonScratch (p : Pkg) (c b g : Nat) : Pkg :=
  match p.block? c b with
  | none => p
  | some x =>
    if x.spSize ≤ 8 * g then p
    else
      (p.modBlock c b (fun x => { x with spPoison := if x.spPoison.contains g then x.spPoison else g :: x.spPoison })).noteError
        (dieOfCore c) 0 0x02

/-- A sector of an L1 is struck: a clean one is fetched again, one with dirty bytes is poisoned at its home. -/
def Pkg.strikeL1 (p : Pkg) (c x : Nat) : Pkg :=
  let k := p.core c
  let p' := p.modCore c (fun k => { k with l1 := { k.l1 with
    sectors := KMap.erase x k.l1.sectors, dirty := List.filter (fun e => e.1 / 64 != x) k.l1.dirty } })
  if k.l1.dirty.any (fun e => e.1 / 64 == x) then (p'.poisonSector x).noteError (dieOfCore c) (p.sectorPa x) 0x03
  else if (k.l1.sectors.find? x).isSome then p'.corrected (dieOfCore c) (fun m => { m with ceCore := saturate m.ceCore })
  else p

/-- A cell of the macros or accumulators of a core is struck: cause 0x1D on the block that holds the unit. -/
def Pkg.strikeMatrix (p : Pkg) (c cell : Nat) : Pkg :=
  match (p.core c).mx.owner with
  | some b => (p.noteError (dieOfCore c) 0 0x04).blockFault c b 0x1D (BitVec.ofNat 16 (if cell < 12 then cell else 15))
  | none => p

/-- A sector of an L2 is struck: a line that it holds in M or O is poisoned there, another is dropped and fetched again. -/
def Pkg.strikeL2 (p : Pkg) (d x : Nat) : Pkg :=
  if 4 ≤ d then p
  else
    match p.dir.find? (x / 4) with
    | none => p
    | some e =>
      if e.holder = some d ∧ e.owned then (p.poisonSector x).noteError d (p.sectorPa x) 0x05
      else if e.holder = some d ∨ e.sharers.contains d then
        let e' : DirLine := { e with holder := if e.holder = some d then none else e.holder, sharers := e.sharers.filter (· != d) }
        ({ p with dir := KMap.insert (x / 4) e' p.dir } : Pkg).corrected d (fun m => { m with ceL2 := saturate m.ceL2 })
      else p

/-- STORAGE_ERROR. -/
def execStorageError (e : StorageErr) (s : State) : Host.Outcome State Fault Refusal :=
  let p := s.pkg
  .next { s with pkg := match e with
    | .correctedCore d => p.corrected d (fun m => { m with ceCore := saturate m.ceCore })
    | .correctedL2 d => p.corrected d (fun m => { m with ceL2 := saturate m.ceL2 })
    | .correctedHbm d => p.corrected d (fun m => { m with ceHbm := saturate m.ceHbm })
    | .reg c b w l r => p.poisonReg c b w l r
    | .scratch c b g => p.poisonScratch c b g
    | .l1 c x => p.strikeL1 c x
    | .matrix c cell => p.strikeMatrix c cell
    | .l2 d x => p.strikeL2 d x
    | .hbm x => if memSize ≤ 64 * x then p else (p.poisonSector x).noteError (homeDie (64 * x)) (p.sectorPa x) 0x06
    | .region a r page => { p with regions := p.regions.modify (regionKey a r) (fun (v : VRegion) =>
        if v.lost.contains page ∨ v.pages ≤ page then v else { v with lost := page :: v.lost }) } }

/-! ## Scrubs (25 R448, R452) -/

/-- GO is written: a scrub of SCRUB_PA starts, unless one is in progress. -/
def Pkg.scrubGo (p : Pkg) (d : Nat) : Pkg :=
  if 4 ≤ d then p else p.modDie d (fun k => { k with merr := { k.merr with
    scrub := some (k.merr.scrub.getD k.merr.scrubPa) } })

/-- SCRUB. -/
def execScrub (d : Nat) (s : State) : Host.Outcome State Fault Refusal := .next { s with pkg := s.pkg.scrubGo d }

/-- The sector that SCRUB_PA names on this die: bits [5:0] and [55:46] are ignored (25 R448), and an address that is not package
memory homed here names none. -/
def scrubTarget (d : Nat) (x : DWord) : Option Nat :=
  let a := x.toNat % 2 ^ 46 / 64 * 64
  if memSize ≤ a ∨ bits x.toNat 63 56 ≠ 0 ∨ homeDie a ≠ d then none else some a

/-- SCRUB_DONE: 64 zero bytes are written to the sector and its poison is cleared, where it is homed on this die. -/
def execScrubDone (d : Nat) (s : State) : Host.Outcome State Fault Refusal :=
  let p := s.pkg
  match (p.die d).merr.scrub with
  | none => .next s
  | some x =>
    let fin (p : Pkg) : Pkg := p.modDie d (fun k => { k with merr := { k.merr with scrub := none } })
    match scrubTarget d x with
    | none => .next { s with pkg := fin p }
    | some a =>
      if p.barred d a then .next s
      else
        let p := p.engineStore a (List.replicate 64 0)
        .next { s with pkg := fin { p with poison := p.poison.filter (· != a / 64) } }

/-! ## Clearing counters -/

/-- CLEAR of the memory error block. -/
def Pkg.clearErrors (p : Pkg) (d : Nat) : Pkg :=
  p.modDie d (fun k => { k with merr := { MemErr.zero with scrubPa := k.merr.scrubPa, scrub := k.merr.scrub } })

/-- MEMERR_CLEAR. -/
def execMemerrClear (d : Nat) (s : State) : Host.Outcome State Fault Refusal :=
  if 4 ≤ d then .next s else .next { s with pkg := s.pkg.clearErrors d }

/-- CLEAR of the region counters. -/
def Pkg.clearRegionCounters (p : Pkg) (d : Nat) : Pkg := p.countRegions.modDie d (fun k => { k with rctr := [] })

/-- REGION_COUNTER_CLEAR. -/
def execRegionCounterClear (d : Nat) (s : State) : Host.Outcome State Fault Refusal :=
  if 4 ≤ d then .next s else .next { s with pkg := s.pkg.clearRegionCounters d }

end Sys2Proof.Machine
end

