-- ==== Sys2Proof/Machine/Debug.lean ====
section
/-!
DEFINITION. The debug command register of a core: stopping, resuming, stepping, reading and writing a split or the
armature (17_observation.md R392-R395, 23_faults_traps_stops.md R425, R431, 26_scheduling_engine_failures.md R474).
-/

namespace Sys2Proof.Machine

/-! ## Commands and their targets (17 R392) -/

/-- OP of a command word. -/
def dbgOp (v : Word) : Nat := bits v.toNat 31 28

/-- REG of a command word. -/
def dbgReg (v : Word) : Nat := bits v.toNat 10 0

/-- The command register is written: ignored while a command runs; OP 1-5 start one, another OP but 0 is a bad operand, and
OP 0 leaves STATUS as it is. STATUS reads 0 from the start of a command until its end (log 60, DESIGN CHOICE). -/
def Core.dbgWrite (k : Core) (v : Word) : Core :=
  if k.dbgCmd.getLsbD 27 then k
  else
    let f := v &&& 0xF0FFFFFF
    { k with dbgCmd :=
        if dbgOp v = 0 then f ||| (k.dbgCmd &&& 0x07000000) else if dbgOp v ≤ 5 then f ||| 0x08000000 else f ||| 0x03000000 }

/-- A command ends: BUSY falls and STATUS is set. -/
def Core.dbgDone (k : Core) (status : Nat) : Core :=
  { k with dbgCmd := (k.dbgCmd &&& 0xF0FFFFFF) ||| BitVec.ofNat 32 (status * 2 ^ 24) }

/-- What a command names: block slot, warp, split and lane. -/
structure DbgTgt where
  slot : Nat
  w : Nat
  sp : Nat
  lane : Nat
  deriving DecidableEq, Repr

/-- The target of the command: the armature of a block slot, or the warp in a warp slot of the core. -/
def Core.target (k : Core) : Option DbgTgt :=
  if k.dbgTgt.getLsbD 3 then
    let b := bits k.dbgTgt.toNat 2 0
    (k.blocks.find? b).bind (fun bl => (bl.warps.find? armNo).map (fun _ => ⟨b, armNo, 0, 0⟩))
  else
    let v := k.dbgCmd.toNat
    (k.blocks.flatMap (fun b => (List.filter (fun w => w.1 != armNo && w.2.slot == bits v 23 18) b.2.warps).map
      (fun w => (⟨b.1, w.1, bits v 17 16, bits v 15 11⟩ : DbgTgt)))).head?

/-- STATUS of a command whose target is not there: READ and WRITE find no STOPPED split (17 R395), and for the others the operand is
bad (log 60). -/
def absentStatus (op : Nat) : Nat := if 4 ≤ op then 1 else 3

/-- Run a command of an OP on its target: its action gives the package and a status, or waits. A block that is being saved is
left alone. -/
def Pkg.debug (p : Pkg) (c op : Nat) (f : DbgTgt → Block → Warp → Pkg → Option (Pkg × Nat)) : Pkg :=
  let k := p.core c
  if !k.dbgCmd.getLsbD 27 ∨ dbgOp k.dbgCmd ≠ op then p
  else
    let r : Option (Pkg × Nat) :=
      match k.target with
      | none => some (p, absentStatus op)
      | some t =>
        match p.block? c t.slot, p.warp? c t.slot t.w with
        | some bl, some w => if p.saving bl then some (p, 2) else f t bl w p
        | _, _ => some (p, absentStatus op)
    match r with
    | none => p
    | some (p, st) => p.modCore c (fun k => k.dbgDone st)

/-! ## STOP, RESUME and STEP (17 R393-R394) -/

/-- A register write in flight for a lane of a split. -/
def Warp.landing (w : Warp) (m : Mask) : Bool := w.busy.any (fun r => m.getLsbD (r % 32))

/-- Stop a split of a warp: its lanes in a region abort first with reason HALT, and every entry that they are in stops. -/
def Warp.debugStop (w : Warp) (sp : Nat) : Warp :=
  let s := w.split sp
  let w := w.abortMask s.mask (arStatus 0 0 false false 0x0E)
  let w := w.modSplit sp Split.stop
  { w with splits := w.splits.map (fun x => if x.mask &&& s.mask = 0 then x else x.stop) }

/-- STOP. -/
def Pkg.dbgStop (p : Pkg) (c : Nat) : Pkg :=
  p.debug c 1 (fun t bl w p =>
    let s := w.split t.sp
    if s.st = .free then some (p, 3)
    else if s.st = .stopped then some (p, 0)
    else if s.inCow ∨ w.landing s.mask then none
    else
      let p := (p.modWarp c t.slot t.w (fun w => w.debugStop t.sp)).modBlock c t.slot (fun b => { b with stuck := none })
      some (p.emit c t.slot 2 0x05 t.sp (recWarp t.w) s.mask 0 (p.origPc bl t.w s.pc).1, 0))

/-- STOP of the table. -/
def execStop (core : Nat) (s : State) : Host.Outcome State Fault Refusal := .next { s with pkg := s.pkg.dbgStop core }

/-- A warp of a block is at the stop of a halt that a debugger holds. -/
def Block.heldAt (b : Block) (w : Warp) : Bool :=
  w.halt == .stopped && (match b.mode with | .held _ => true | _ => false)

/-- The record of a single step is cleared when its split goes on. -/
def Warp.unstep (w : Warp) : Warp :=
  if w.frec.cause = 0x22 ∧ w.frec.resume.isNone ∧ w.halt = .running then { w with frec := FRec.zero } else w

/-- A held block goes on once none of its splits is STOPPED: each warp by its own ACT (23 R425, R428). -/
def Pkg.releaseHeld (p : Pkg) (c b : Nat) : Pkg :=
  match p.block? c b with
  | none => p
  | some bl =>
    if bl.warps.any (fun w => w.2.splits.any (fun s => s.st == .stopped)) then p
    else
      let act (w : Nat) : Resumed := actOf (((bl.warps.find? w).map (fun x => x.frec.act.toNat)).getD 0)
      let q := p.queueOf bl
      (p.resumeOn c b act).settleHalt q

/-- A STOPPED split returns to its prior state. -/
def Pkg.returnSplit (p : Pkg) (c : Nat) (t : DbgTgt) (bl : Block) (s : Split) (step : Bool) : Pkg :=
  let p := p.modWarp c t.slot t.w (fun w => w.unstep.modSplit t.sp (fun s => { s.unstop with onHold := false, stepping := step }))
  p.emit c t.slot 2 0x06 t.sp (recWarp t.w) s.mask 0 (p.origPc bl t.w s.pc).1

/-- RESUME: of a block that a debugger holds, the last one releases it; one without a STOPPED split is released at once. -/
def Pkg.dbgResume (p : Pkg) (c : Nat) : Pkg :=
  p.debug c 2 (fun t bl w p =>
    let s := w.split t.sp
    let none_ := !bl.warps.any (fun w => w.2.splits.any (fun s => s.st == .stopped))
    if bl.heldAt w then
      if s.st = .stopped then some ((p.returnSplit c t bl s false).releaseHeld c t.slot, 0)
      else if none_ then some (p.releaseHeld c t.slot, 0) else some (p, 1)
    else if s.st ≠ .stopped ∨ w.halt = .stopped then some (p, 1)
    else some (p.returnSplit c t bl s false, 0))

/-- RESUME of the table. -/
def execResume (core : Nat) (s : State) : Host.Outcome State Fault Refusal := .next { s with pkg := s.pkg.dbgResume core }

/-- STEP: the split goes on and stops again after one instruction; the command ends at once. -/
def Pkg.dbgStep (p : Pkg) (c : Nat) : Pkg :=
  p.debug c 3 (fun t bl w p =>
    let s := w.split t.sp
    if s.st ≠ .stopped ∨ (w.halt = .stopped ∧ !bl.heldAt w) then some (p, 1)
    else some (p.returnSplit c t bl s true, 0))

/-- STEP of the table. -/
def execStep (core : Nat) (s : State) : Host.Outcome State Fault Refusal := .next { s with pkg := s.pkg.dbgStep core }

/-! ## READ and WRITE (17 R395, 23 R431) -/

/-- What a REG code names. -/
inductive DbgReg where
  | reg (r : Nat) | pred (k : PReg) | ix (x : Nat) | pc | record (n : Nat) | bad
  deriving DecidableEq, Repr

/-- The register of a code: none of the armature's beyond s63, and it has no index registers. -/
def dbgRegOf (arm : Bool) (alloc r : Nat) : DbgReg :=
  if r < 256 then (if (arm ∧ 64 ≤ r) ∨ alloc ≤ r then .bad else .reg r)
  else if h : 0x100 ≤ r ∧ r ≤ 0x106 then .pred ⟨r - 0x100, by omega⟩
  else if 0x108 ≤ r ∧ r ≤ 0x10B then (if arm then .bad else .ix (r - 0x108))
  else if r = 0x110 then .pc
  else if 0x120 ≤ r ∧ r ≤ 0x12F then .record (r - 0x120)
  else .bad

/-- The lane of a target can be reached: it is in a STOPPED split, or its warp is halted and the lane is in LANES. -/
def Warp.reachable (w : Warp) (t : DbgTgt) : Bool :=
  let s := w.split t.sp
  let halted := w.halt == .stopped
  if t.w = armNo then s.st == .stopped || halted
  else (s.st == .stopped && s.mask.getLsbD t.lane) || (halted && w.frec.lanes.getLsbD t.lane)

/-- The PC of a target: of its STOPPED split, or where a faulted armature resumes; none when it is not stopped. -/
def Warp.stopAt (w : Warp) (t : DbgTgt) : Option DWord :=
  let s := w.split t.sp
  if s.st = .stopped then some s.pc
  else if t.w = armNo ∧ w.halt = .stopped then w.frec.resume.map Resume.pc
  else none

/-- Whether a fault-record word can be reached. -/
def Warp.recordOpen (w : Warp) (t : DbgTgt) : Bool := w.halt == .stopped || (w.split t.sp).st == .stopped

/-- READ. -/
def Pkg.dbgRead (p : Pkg) (c : Nat) : Pkg :=
  p.debug c 4 (fun t bl w p =>
    let give (v : Word) : Option (Pkg × Nat) := some (p.modCore c (fun k => { k with dbgData := v }), 0)
    match dbgRegOf (t.w == armNo) w.alloc (dbgReg (p.core c).dbgCmd) with
    | .bad => some (p, 3)
    | .record n => if w.recordOpen t then give (w.frec.words.getD n 0) else some (p, 1)
    | .pc => (match w.stopAt t with
        | some pc => give (half (p.origPc bl t.w pc).1 0)
        | none => some (p, 1))
    | .reg r => if w.reachable t then give (w.rd r t.lane) else some (p, 1)
    | .pred k => if w.reachable t then give (boolWord (w.pred k t.lane)) else some (p, 1)
    | .ix x => if w.reachable t then give (w.ix x t.lane) else some (p, 1))

/-- READ of the table. -/
def execRead (core : Nat) (s : State) : Host.Outcome State Fault Refusal := .next { s with pkg := s.pkg.dbgRead core }

/-- The address that a PC written to a warp names: in fused code the copied word of the same kernel with that PC (26 R474). -/
def Pkg.resolvePc (p : Pkg) (bl : Block) (w : Nat) (old new : DWord) : Option DWord :=
  match p.fused bl w with
  | none => some new
  | some (base, sp) =>
    let consumer := (p.origPc bl w old).2
    (sp.words.findIdx? (fun f => f.pc == new && f.consumer == consumer && f.kind == .copied)).map (fun i =>
      base + BitVec.ofNat 64 (4 * i))

/-- A STOPPED split is sent to an address: one that waited is READY there. -/
def Split.sendTo (s : Split) (pc : DWord) : Split :=
  { s with pc := pc, wait := none, held := none, pfx := Pfx.none, prior := .ready }

/-- Write the PC of a target. -/
def Pkg.writePc (p : Pkg) (c : Nat) (t : DbgTgt) (w : Warp) (pc : DWord) : Pkg :=
  if (w.split t.sp).st = .stopped then
    ((p.withdrawWait c t.slot t.w t.sp).modWarp c t.slot t.w (fun w => w.modSplit t.sp (fun s => s.sendTo pc))).serveClaims c
  else p.modWarp c t.slot t.w (fun w => { w with frec := { w.frec with resume := w.frec.resume.map (fun (r : Resume) =>
    { r with pc := pc, wait := none, held := none, pfx := Pfx.none }) } })

/-- WRITE. -/
def Pkg.dbgWrite (p : Pkg) (c : Nat) : Pkg :=
  p.debug c 5 (fun t bl w p =>
    let v := (p.core c).dbgData
    let mod (f : Warp → Warp) : Option (Pkg × Nat) := some (p.modWarp c t.slot t.w f, 0)
    match dbgRegOf (t.w == armNo) w.alloc (dbgReg (p.core c).dbgCmd) with
    | .bad => some (p, 3)
    | .record n =>
      if n ≠ 7 then some (p, 3)
      else if w.recordOpen t then mod (fun w => { w with frec := { w.frec with act := v.setWidth 2 } }) else some (p, 1)
    | .pc => (match w.stopAt t with
        | none => some (p, 1)
        | some pc =>
          if v.toNat % 4 ≠ 0 then some (p, 3)
          else match p.resolvePc bl t.w pc (pair v (half (p.origPc bl t.w pc).1 1)) with
            | none => some (p, 3)
            | some x => some (p.writePc c t w x, 0))
    | .reg r => if w.reachable t then mod (fun w => w.wr r t.lane v) else some (p, 1)
    | .pred k => if w.reachable t then mod (fun w => w.setPred k t.lane (v.getLsbD 0)) else some (p, 1)
    | .ix x => if w.reachable t then mod (fun w => w.setIx x t.lane v) else some (p, 1))

/-- WRITE of the table. -/
def execWrite (core : Nat) (s : State) : Host.Outcome State Fault Refusal := .next { s with pkg := s.pkg.dbgWrite core }

end Sys2Proof.Machine
end

