-- ==== Sys2Proof/Machine/Manage.lean ====
section
/-!
DEFINITION. The management space: what every register block reads, and what a write of it does
(01_plinth_and_dies.md R10-R12, 02_execution_model.md R45, 04_memory_hierarchy.md R109, 13_front_end.md R310,
14_splice_linker.md R345, 16_links_and_host.md R369, R372, R380, 17_observation.md R381-R396,
25_memory_failures.md R448, 26_scheduling_engine_failures.md R469, R471, R478, R480,
27_containment_recovery.md R486-R501). Offsets are in bytes; a register is four bytes wide.
-/

namespace Sys2Proof.Machine

/-! ## Parts of words -/

/-- A word of a number. -/
def word (n : Nat) : Word := BitVec.ofNat 32 n

/-- Replace one half of a double word. -/
def putHalf (d : DWord) (k : Nat) (v : Word) : DWord := if k = 0 then pair v (half d 1) else pair (half d 0) v

/-- Entry and offset in it, of an array of `n` entries of `len` bytes from `base` on. -/
def entryOf (base len n off : Nat) : Option (Nat × Nat) :=
  if base ≤ off ∧ off < base + len * n then some ((off - base) / len, (off - base) % len) else none

/-- A flag at a bit. -/
def flag (b : Bool) (k : Nat) : Nat := if b then 2 ^ k else 0

/-! ## Reading: C-dies -/

/-- The core block (17 R381): counters, the register pool, and the debug block. -/
def Pkg.coreReg (p : Pkg) (c off : Nat) : Word :=
  let k := p.core c
  if off < 0x280 then
    let leaf := off % 0x80 / 8
    if off / 0x80 = 4 ∧ !([1, 3, 4, 6, 7, 8, 11, 12] : List Nat).contains leaf then 0
    else half (p.slotCounter c (off / 0x80) leaf) (off / 4 % 2)
  else if off = 0x280 then boolWord k.frozen.isSome
  else if off = 0x300 then word k.poolFree
  else if off = 0x304 then word (carveRegs k.carve)
  else if off = 0x308 then word (k.claims.length * 65536 + (k.claims.head?.map Claim.units).getD 0)
  else if off = 0x30C then
    match k.claims.head? with
    | some q => word (((p.warp? c q.slot q.w).map Warp.slot).getD 0)
    | none => 0
  else
    match entryOf 0x400 16 4 off, entryOf 0x440 16 4 off with
    | some (b, o), _ => (k.bps.getD b []).getD (o / 4) 0
    | none, some (b, o) => (k.wps.getD b []).getD (o / 4) 0
    | none, none =>
      if off = 0x480 then k.dbgCmd else if off = 0x484 then k.dbgTgt else if off = 0x488 then k.dbgData else 0

/-- The memory error block (25 R448). -/
def MemErr.reg (m : MemErr) (o : Nat) : Word :=
  match o / 4 with
  | 0 => m.ceCore
  | 1 => m.ceL2
  | 2 => m.ceHbm
  | 3 => m.ue
  | 4 => m.poisoned
  | 5 => m.tfaults
  | 6 => half m.uePa 0
  | 7 => half m.uePa 1
  | 8 => word m.ueSrc
  | 10 => half m.uePtime 0
  | 11 => half m.uePtime 1
  | 12 => half m.tfVa 0
  | 13 => half m.tfVa 1
  | 14 => word (m.tfCause * 65536 + m.tfAsid)
  | 16 => half m.scrubPa 0
  | 17 => half m.scrubPa 1
  | 18 => word (flag m.scrub.isSome 30)
  | _ => 0

/-- The throttle block (27 R501). -/
def Throttle.reg (t : Throttle) (o : Nat) : Word :=
  match o / 4 with
  | 0 => word (flag t.volt 9 + flag t.temp 8 + t.stage)
  | 1 => word (t.tHold * 65536 + t.tPace)
  | 2 => word (tCut * 65536 + tShut)
  | 3 => word (vCut * 65536 + vMin)
  | 4 => t.events
  | _ => 0

/-- The space of a C-die's socket. -/
def Pkg.dieReg (p : Pkg) (d off : Nat) : Word :=
  let k := p.die d
  match entryOf 0x40000 0x1000 96 off with
  | some (i, o) => p.coreReg (96 * d + i) o
  | none =>
    match entryOf 0x600 4 32 off, entryOf 0x680 4 96 off, entryOf 0x800 4 16 off with
    | some (i, _), _, _ => (k.temps.getD i 0).setWidth 32
    | _, some (i, _), _ => (k.droops.getD i 0) ++ (k.vcores.getD i 0)
    | _, _, some (i, _) => k.roscs.getD i 0
    | _, _, _ =>
      match entryOf 0x900 0x4C 1 off, entryOf 0xA00 4 16 off, entryOf 0xB00 0x14 1 off with
      | some (_, o), _, _ => k.merr.reg o
      | _, some (i, _), _ => k.rctr.getD i 0
      | _, _, some (_, o) => k.thr.reg o
      | _, _, _ => 0

/-! ## Reading: X-dies -/

/-- STATE of a queue (13 R311): an ACTIVE queue whose next packet waits is BLOCKED. -/
def Pkg.queueState (p : Pkg) (q : Nat) : Nat :=
  let k := p.queue q
  match k.st with
  | .idle => 0
  | .active => if k.fetched.isSome && !p.startable q then 2 else 1
  | .preempting => 3
  | .preempted => 4
  | .resetting => 5
  | .halted => 6

/-- A disposition's code. -/
def Disp.code : Disp → Nat
  | .kill => 0
  | .debug => 1
  | .handler => 2

/-- A queue's register block (13 R310). -/
def Pkg.queueReg (p : Pkg) (q o : Nat) : Word :=
  let k := p.queue q
  match o / 4 with
  | 0 => half k.base 0
  | 1 => half k.base 1
  | 2 => word (flag k.enable 31 + p.queueState q * 2 ^ 24 + k.disp.code * 2 ^ 22 + k.prio * 256 + k.log2n)
  | 3 => word (flag k.lap 16 + k.readIdx)
  | 4 => half k.ctx 0
  | 5 => half k.ctx 1
  | 6 => half k.handler 0
  | 7 => half k.handler 1
  | 8 => half k.saveBase 0
  | 9 => half k.saveBase 1
  | 10 => word k.savePages
  | 11 => word k.error
  | _ => 0

/-- The watchdog words of a queue (26 R478). -/
def Pkg.watchReg (p : Pkg) (q o : Nat) : Word :=
  match o / 4 with
  | 0 => (p.queue q).limit
  | 1 => word (p.queue q).fired
  | _ => 0

/-- The refusal register of an X-die's splice linker (14 R345). -/
def LinkerReg.reg (r : LinkerReg) (o : Nat) : Word :=
  match o / 4 with
  | 0 => word (r.reason * 65536 + r.slot)
  | 1 => word r.queue
  | 2 => r.spliced
  | _ => r.refused

/-- The TLB invalidation block (04 R109). -/
def Mgmt.tlbReg (m : Mgmt) (o : Nat) : Word :=
  match o / 4 with
  | 0 => word (flag m.tlbRun.isSome 30 + m.tlbKind * 65536 + m.tlbAsid)
  | 1 => half m.tlbVa 0 &&& 0xFFFFF000
  | _ => half m.tlbVa 1 &&& 0x00FFFFFF

/-- Dies of a list of numbers that a test picks, as bits. -/
def bitsOf (n : Nat) (f : Nat → Bool) : Nat := (List.range n).foldl (fun a k => a + flag (f k) k) 0

/-- The I/O-die reset register (27 R498). -/
def State.xresetReg (s : State) : Word :=
  word (2 * bitsOf 2 (fun x => (s.pkg.xreset.find? x).isSome) + flag s.mgmt.xdie 0)

/-- An entry of the freeze block (27 R486). -/
def Freeze.reg (f : Freeze) (o : Nat) : Word :=
  match o / 4 with
  | 0 => word (f.cls * 2 ^ 24 + f.code * 65536 + f.id)
  | 1 => word f.asid
  | 2 => half (BitVec.ofNat 64 f.pa) 0
  | 3 => half (BitVec.ofNat 64 f.pa) 1
  | 4 => half f.time 0
  | 5 => half f.time 1
  | _ => 0

/-- An entry of the collective group table (16 R372). -/
def Pkg.groupReg (p : Pkg) (g o : Nat) : Word :=
  let r := p.group g
  match o / 4 with
  | 0 => word (flag r.valid 31 + r.rank * 65536 + r.size)
  | 1 => boolWord (p.groupBusy g)
  | 2 => half r.addr 0
  | _ => half r.addr 1

/-- A word of record i of the pending-launch store, zero for a free record (27 R489). -/
def Pkg.storeReg (p : Pkg) (i o : Nat) : Word :=
  match (List.filter (fun e => e.2.stored) p.launches)[i]? with
  | some e => word (recNat e.2.record o 4)
  | none => 0

/-- STEP: any stepping from 0x1 upwards (01 R12, log 8). -/
def stepNo : BitVec 4 := if Config.stepping = 0 then 1 else Config.stepping

/-- The package-wide blocks of socket 12 (27 R499): the registers with one address. -/
def State.plainReg (s : State) (off : Nat) : Word :=
  let p := s.pkg
  let m := s.mgmt
  match off with
  | 0x0000 => word (0x640 * 2 ^ 20 + stepNo.toNat * 2 ^ 16)
  | 0x0004 => 0x3FFF
  | 0x0008 => half p.ptime 0
  | 0x000C => m.ptimeHi
  | 0x0010 => 2100
  | 0x0300 => word (flag p.link.linken 31 + p.link.pkgid)
  | 0x0304 => p.link.portUp
  | 0x0308 => p.link.timeouts
  | 0x1800 => word p.evLive
  | 0x1804 => word ((List.filter (fun e => e.2.spilled) p.events).length)
  | 0x1808 => word (p.events.foldl (fun n e => n + if e.2.spilled then e.2.waiters.length else e.2.waiters.length - 16) 0)
  | 0x180C => p.evStalls
  | 0x1810 => word p.liveHigh
  | 0x1840 => word p.storeUsed
  | 0x1844 => word p.plHigh
  | 0x1848 => p.plFull
  | 0x1860 => word (m.evqAsid.toNat % 65536 * 65536 + m.evqName.toNat % 65536)
  | 0x1864 => s.queried.count
  | 0x1868 => word s.queried.waiters.length
  | 0x1900 => m.freezes
  | 0x1904 => word (bitsOf 8 (fun e => (p.frozenAt e).isSome))
  | 0x1908 => word (m.frzAction * 256 + m.frzEntry)
  | 0x1A00 => word (flag p.resetBusy 30 + m.rstErr * 2 ^ 24 + flag m.rstKind 8 + m.rstDie)
  | 0x1A04 => word (bitsOf 4 (fun d => (p.die d).inReset))
  | 0x1A10 => word (flag m.held 1 + flag p.hold 0)
  | 0x1B00 => boolWord m.check
  | 0x1C00 => word m.waddr &&& 0xFFFFFFFC
  | 0x1C04 => word (m.waddr / 2 ^ 32 % 1024)
  | 0x1C0C => word (flag m.badaddr 1 + flag m.wpoison 0)
  | _ => 0

/-- The package-wide blocks, arrays included. -/
def State.sharedReg (s : State) (off : Nat) : Word :=
  match entryOf 0x400 16 256 off, entryOf 0x1B10 16 8 off, entryOf 0x1D00 32 8 off, entryOf 0x80000 128 4096 off with
  | some (g, o), _, _, _ => s.pkg.groupReg g o
  | _, some (w, o), _, _ =>
    let x := s.mgmt.windows.getD w (0, 0)
    (match o / 4 with
     | 0 => half x.1 0
     | 1 => half x.1 1
     | 2 => x.2
     | _ => 0)
  | _, _, some (e, o), _ => (match s.pkg.frozenAt e with | some f => f.reg o | none => 0)
  | _, _, _, some (i, o) => s.pkg.storeReg i o
  | _, _, _, _ => s.plainReg off

/-- An X-die holds in reset. -/
def State.xdown (s : State) (x : Nat) : Bool := (s.pkg.xreset.find? x).isSome

/-- The package-wide blocks answer in socket 12, and in both sockets while an X-die holds in reset (27 R499). -/
def State.sharedAt (s : State) (x : Nat) : Bool := x == 0 || !s.pkg.xreset.isEmpty

/-- The blocks of one X-die: its linker, measurements, queues and watchdogs. -/
def State.ownReg (s : State) (x off : Nat) : Option Word :=
  match entryOf 0x200 16 1 off, entryOf 0x3000 64 4 off, entryOf 0x10000 64 512 off, entryOf 0x20000 16 512 off with
  | some (_, o), _, _, _ => some ((s.pkg.linker.getD x ⟨0, 0, 0, 0, 0⟩).reg o)
  | _, some (i, o), _, _ => some (((s.mgmt.meas.getD (4 * x + i) 0) >>> (8 * o)).setWidth 32)
  | _, _, some (i, o), _ => some (s.pkg.queueReg (512 * x + i) o)
  | _, _, _, some (i, o) => some (s.pkg.watchReg (512 * x + i) o)
  | _, _, _, _ => none

/-- The space of an X-die's socket. -/
def State.xdieReg (s : State) (x off : Nat) : Word :=
  match s.ownReg x off, entryOf 0x100 12 1 off with
  | some v, _ => if s.xdown x then 0 else v
  | none, some (_, o) => s.mgmt.tlbReg o
  | none, none =>
    if off = 0x1A20 then s.xresetReg
    else if s.sharedAt x then s.sharedReg off else 0

/-- What a register of a socket reads: zero where nothing is populated (01 R11) and in a stack's socket. -/
def State.reg (s : State) (sock off : Nat) : Word :=
  if sock < 4 then s.pkg.dieReg sock off
  else if sock = 12 ∨ sock = 13 then s.xdieReg (sock - 12) off
  else 0

/-! ## The I3C memory window (27 R490) -/

/-- WADDR goes on by 4. -/
def State.windowNext (s : State) : State := { s with mgmt := { s.mgmt with waddr := (s.mgmt.waddr + 4) % 2 ^ 42 } }

/-- Read WDATA; none while the home die does not serve. -/
def State.windowRead (s : State) : Option (State × Word) :=
  let a := s.mgmt.waddr
  if memSize ≤ a then some (State.windowNext { s with mgmt := { s.mgmt with badaddr := true } }, 0)
  else if s.pkg.poisoned a then some (State.windowNext { s with mgmt := { s.mgmt with wpoison := true } }, 0)
  else if s.pkg.barred xdie a then none
  else
    let p := s.pkg.recallStash (a / 256) false
    some (State.windowNext { s with pkg := p }, word (p.readNat a 4))

/-- Write WDATA. -/
def State.windowWrite (s : State) (v : Word) : Option State :=
  let a := s.mgmt.waddr
  if memSize ≤ a then some (State.windowNext { s with mgmt := { s.mgmt with badaddr := true } })
  else if s.pkg.poisoned a then some (State.windowNext { s with mgmt := { s.mgmt with wpoison := true } })
  else if s.pkg.barred xdie a then none
  else some (State.windowNext { s with pkg := s.pkg.engineStore a (bytesOf 4 v.toNat) })

/-- The package-wide register at an offset is named by a socket. -/
def State.namesShared (s : State) (sock off at_ : Nat) : Bool :=
  (sock == 12 || (sock == 13 && s.sharedAt 1)) && off == at_

/-- A read of a register: of PTIME_LO it latches PTIME_HI, of WDATA it takes the next word of memory. -/
def State.regRead (s : State) (sock off : Nat) : Option (State × Word) :=
  if s.namesShared sock off 0x1C08 then s.windowRead
  else if s.namesShared sock off 0x0008 then
    some ({ s with mgmt := { s.mgmt with ptimeHi := half s.pkg.ptime 1 } }, s.reg sock off)
  else some (s, s.reg sock off)

/-- Registers read in order of address. -/
def State.regReads (s : State) (sock off : Nat) : Nat → Option (State × List Byte)
  | 0 => some (s, [])
  | n + 1 =>
    match s.regRead sock off with
    | none => none
    | some (s, v) =>
      (s.regReads sock (off + 4) n).map (fun r => (r.1, bytesOf 4 v.toNat ++ r.2))

/-! ## Writing: fields -/

/-- Replace a word of a list of words, padded with zeros. -/
def putWord (l : List Word) (i : Nat) (v : Word) : List Word := (l ++ List.replicate (i + 1 - l.length) 0).set i v

/-- RW fields of a core block: breakpoints, watchpoints, target and data of the debug register. -/
def Core.setReg (k : Core) (off : Nat) (v : Word) : Core :=
  match entryOf 0x400 16 4 off, entryOf 0x440 16 4 off with
  | some (b, o), _ =>
    if o = 12 then k
    else { k with bps := KMap.insert b (putWord (k.bps.getD b []) (o / 4) (if o = 8 then v &&& 0x8000FFFF else v)) k.bps }
  | none, some (b, o) =>
    if o = 12 then k
    else { k with wps := KMap.insert b (putWord (k.wps.getD b []) (o / 4) (if o = 8 then v &&& 0xFF00FFFF else v)) k.wps }
  | none, none =>
    if off = 0x484 then { k with dbgTgt := v &&& 0xF } else if off = 0x488 then { k with dbgData := v } else k

/-- T_HOLD and T_PACE, unless the order of the thresholds would break (27 R501). -/
def Throttle.setLimits (t : Throttle) (v : Nat) : Throttle :=
  if bits v 15 0 ≤ bits v 31 16 ∧ bits v 31 16 ≤ tShut then { t with tHold := bits v 31 16, tPace := bits v 15 0 } else t

/-- RW fields of a C-die's socket. -/
def Pkg.setDieReg (p : Pkg) (d off : Nat) (v : Word) : Pkg :=
  match entryOf 0x40000 0x1000 96 off with
  | some (i, o) => p.modCore (96 * d + i) (fun k => k.setReg o v)
  | none =>
    if off = 0x940 ∨ off = 0x944 then
      p.modDie d (fun k => { k with merr := { k.merr with scrubPa := putHalf k.merr.scrubPa (off / 4 % 2) v } })
    else if off = 0xB04 then p.modDie d (fun k => { k with thr := k.thr.setLimits v.toNat })
    else p

/-- Control fields of a queue: DISP 3 changes nothing, LOG2N is kept while ENABLE is 1. -/
def Queue.setControl (k : Queue) (v : Nat) : Queue :=
  { k with
    disp := match bits v 23 22 with | 0 => .kill | 1 => .debug | 2 => .handler | _ => k.disp
    prio := bits v 10 8, effPrio := if k.prio = bits v 10 8 then k.effPrio else bits v 10 8
    log2n := if k.enable then k.log2n else bits v 4 0 }

/-- RW fields of a queue's block. -/
def Queue.setReg (k : Queue) (o : Nat) (v : Word) : Queue :=
  match o / 4 with
  | 0 => if k.enable then k else { k with base := putHalf k.base 0 v }
  | 1 => if k.enable then k else { k with base := putHalf k.base 1 v }
  | 2 => k.setControl v.toNat
  | 4 => { k with ctx := putHalf k.ctx 0 v }
  | 5 => { k with ctx := putHalf k.ctx 1 v }
  | 6 => { k with handler := putHalf k.handler 0 v }
  | 7 => { k with handler := putHalf k.handler 1 v }
  | 8 => { k with saveBase := putHalf k.saveBase 0 v }
  | 9 => { k with saveBase := putHalf k.saveBase 1 v }
  | 10 => { k with savePages := v.toNat % 2 ^ 24 }
  | _ => k

/-- The link block (16 R369): PGKID is kept while LINKEN is 1, and LINKEN 1 needs a package id of at most 575. -/
def Link.write (l : Link) (v : Nat) : Link :=
  let l := if l.linken then l else { l with pkgid := bits v 9 0 }
  { l with linken := bit v 31 && (l.linken || decide (l.pkgid ≤ 575)) }

/-- RW fields of the package-wide blocks with one address. -/
def State.setPlain (s : State) (off : Nat) (v : Word) : State :=
  let m := s.mgmt
  match off with
  | 0x0300 => { s with pkg := { s.pkg with link := s.pkg.link.write v.toNat } }
  | 0x1860 => { s with mgmt := { m with evqAsid := word (bits v.toNat 31 16), evqName := word (bits v.toNat 15 0) } }
  | 0x1908 => { s with mgmt := { m with frzAction := bits v.toNat 9 8, frzEntry := bits v.toNat 2 0 } }
  | 0x1A00 => { s with mgmt := { m with rstKind := bit v.toNat 8, rstDie := bits v.toNat 1 0 } }
  | 0x1B00 => { s with mgmt := { m with check := bit v.toNat 0 } }
  | 0x1C00 => { s with mgmt := { m with waddr := m.waddr / 2 ^ 32 * 2 ^ 32 + v.toNat / 4 * 4 } }
  | 0x1C04 => { s with mgmt := { m with waddr := bits v.toNat 9 0 * 2 ^ 32 + m.waddr % 2 ^ 32 } }
  | 0x1C0C => { s with mgmt := { m with badaddr := m.badaddr && !bit v.toNat 1, wpoison := m.wpoison && !bit v.toNat 0 } }
  | _ => s

/-- RW fields of the package-wide blocks. -/
def State.setShared (s : State) (off : Nat) (v : Word) : State :=
  match entryOf 0x400 16 256 off, entryOf 0x1B10 16 8 off with
  | some (g, o), _ =>
    if o < 8 ∨ s.pkg.groupBusy g then s
    else
      let r := s.pkg.group g
      let r : Group := { r with addr := putHalf r.addr (o / 4 % 2) v }
      { s with pkg := { s.pkg with groups := KMap.insert g r s.pkg.groups } }
  | none, some (w, o) =>
    let x := s.mgmt.windows.getD w (0, 0)
    let y : DWord × Word := match o / 4 with
      | 0 => (putHalf x.1 0 v, x.2)
      | 1 => (putHalf x.1 1 v, x.2)
      | 2 => (x.1, v)
      | _ => x
    { s with mgmt := { s.mgmt with windows := KMap.insert w y s.mgmt.windows } }
  | none, none => s.setPlain off v

/-- RW fields of the TLB invalidation block. -/
def Mgmt.setTlb (m : Mgmt) (o : Nat) (v : Word) : Mgmt :=
  match o / 4 with
  | 0 => { m with tlbKind := bits v.toNat 17 16, tlbAsid := bits v.toNat 15 0 }
  | 1 => { m with tlbVa := putHalf m.tlbVa 0 (v &&& 0xFFFFF000) }
  | _ => { m with tlbVa := putHalf m.tlbVa 1 (v &&& 0x00FFFFFF) }

/-- RW fields of an X-die's socket; queue and watchdog blocks of an X-die in reset discard writes. -/
def State.setXdie (s : State) (x off : Nat) (v : Word) : State :=
  match entryOf 0x10000 64 512 off, entryOf 0x20000 16 512 off, entryOf 0x100 12 1 off with
  | some (i, o), _, _ => if s.xdown x then s else { s with pkg := s.pkg.modQueue (512 * x + i) (fun k => k.setReg o v) }
  | _, some (i, o), _ =>
    if s.xdown x ∨ o ≠ 0 then s else { s with pkg := s.pkg.modQueue (512 * x + i) (fun k => { k with limit := v }) }
  | _, _, some (_, o) => { s with mgmt := s.mgmt.setTlb o v }
  | _, _, _ =>
    if off = 0x1A20 then { s with mgmt := { s.mgmt with xdie := bit v.toNat 0 } }
    else if s.sharedAt x then s.setShared off v else s

/-- Write the RW fields of a register. -/
def State.regSet (s : State) (sock off : Nat) (v : Word) : State :=
  if sock < 4 then { s with pkg := s.pkg.setDieReg sock off v }
  else if sock = 12 ∨ sock = 13 then s.setXdie (sock - 12) off v
  else s

/-! ## Writing: what a write starts -/

/-- CLEAR and FREEZE of a core's counters, and the debug command. -/
def Pkg.actCore (p : Pkg) (c off : Nat) (v : Word) : Pkg :=
  if off = 0x280 then
    let p := p.freezeSlots c (bit v.toNat 0)
    if bit v.toNat 1 then p.clearSlots c else p
  else if off = 0x480 then p.modCore c (fun k => k.dbgWrite v)
  else p

/-- CLEAR and GO of a C-die's blocks. -/
def Pkg.actDie (p : Pkg) (d off : Nat) (v : Word) : Pkg :=
  match entryOf 0x40000 0x1000 96 off with
  | some (i, o) => p.actCore (96 * d + i) o v
  | none =>
    if off = 0x93C ∧ bit v.toNat 0 then p.clearErrors d
    else if off = 0x948 ∧ bit v.toNat 31 then p.scrubGo d
    else if off = 0xA40 ∧ bit v.toNat 0 then p.clearRegionCounters d
    else p

/-- ENABLE, PREEMPT, RESUME and RESET of a queue, in this order. -/
def State.actQueue (s : State) (q : Nat) (v : Nat) : State :=
  let s := if bit v 31 then s.enableQueue q else { s with pkg := s.pkg.disableQueue q }
  let s := if bit v 30 then { s with pkg := s.pkg.preemptQueue q } else s
  let s := if bit v 29 then { s with pkg := s.pkg.resumeQueue q } else s
  if bit v 28 then { s with pkg := s.pkg.resetWritten q } else s

/-- What a write of a package-wide register starts; none while WDATA waits for a home die. -/
def State.actShared (s : State) (off : Nat) (v : Word) : Option State :=
  let n := v.toNat
  match entryOf 0x400 16 256 off with
  | some (g, o) => some (if o = 0 then { s with pkg := s.pkg.writeGroup g n } else s)
  | none =>
    match off with
    | 0x1814 => some (if bit n 0 then { s with pkg := { s.pkg with evStalls := 0, liveHigh := 0 } } else s)
    | 0x1908 => some (if bit n 31 then s.thaw s.mgmt.frzAction s.mgmt.frzEntry else s)
    | 0x1A00 =>
      let s := if bit n 31 then (if s.mgmt.rstKind then s.crashGo s.mgmt.rstDie else s.resetGo s.mgmt.rstDie) else s
      some (if bit n 29 then { s with pkg := s.pkg.releaseDies } else s)
    | 0x1A10 =>
      some (if bit n 0 then { s with pkg := s.pkg.holdOn }
        else { s with pkg := s.pkg.holdOff, mgmt := { s.mgmt with held := false } })
    | 0x1C08 => s.windowWrite v
    | _ => some s

/-- What a write in an X-die's socket starts. -/
def State.actXdie (s : State) (x off : Nat) (v : Word) : Option State :=
  let n := v.toNat
  match entryOf 0x10000 64 512 off with
  | some (i, o) => some (if s.xdown x ∨ o ≠ 8 then s else s.actQueue (512 * x + i) n)
  | none =>
    if off = 0x100 then some (s.tlbWrite v)
    else if off = 0x1A20 then
      let t := if s.mgmt.xdie then 1 else 0
      let s := if bit n 31 then s.xdieGo t else s
      some (if bit n 29 then s.restartXdie t else s)
    else if s.sharedAt x then s.actShared off v
    else some s

/-- What a write of a register starts. -/
def State.regAct (s : State) (sock off : Nat) (v : Word) : Option State :=
  if sock < 4 then some { s with pkg := s.pkg.actDie sock off v }
  else if sock = 12 ∨ sock = 13 then s.actXdie (sock - 12) off v
  else some s

/-- Registers of one write, with their offsets. -/
def withOffsets (off : Nat) (vs : List Word) : List (Nat × Word) := vs.zipIdx.map (fun e => (off + 4 * e.2, e.1))

/-- A write of consecutive registers in one transaction: the fields of all of them, then what they start. -/
def State.regWrites (s : State) (sock off : Nat) (vs : List Word) : Option State :=
  let es := withOffsets off vs
  let s := es.foldl (fun s e => s.regSet sock e.1 e.2) s
  es.foldl (fun (r : Option State) e => r.bind (fun s => s.regAct sock e.1 e.2)) (some s)

/-- REGISTER_WRITE: a write of one register; one that waits leaves the state as it is. -/
def execRegisterWrite (sock off : Nat) (v : Word) (s : State) : Host.Outcome State Fault Refusal :=
  if off % 4 ≠ 0 ∨ 2 ^ 20 ≤ off ∨ 16 ≤ sock then .next s
  else .next ((s.regWrites sock off [v]).getD s)

/-- POWER_ON_RESET (01 R19, 16 R380): the package is as after reset, and both X-dies boot. -/
def execPowerOnReset (s : State) : Host.Outcome State Fault Refusal :=
  .next (State.boot (State.boot { State.reset with agenda := s.agenda, pkg := { Pkg.reset with tick := s.pkg.tick } } 0) 1)

/-! ## Control links (16 R378) -/

/-- A control link is up; both are after reset (log 31). -/
def State.linkIsUp (s : State) (k : Nat) : Bool := decide (k < 2) && s.mgmt.linkUp.getD k true

/-- What a control address names. -/
inductive CtlAddr where
  | memory (pa : Nat)
  | management (sock off : Nat)
  | bad
  deriving DecidableEq, Repr

/-- Decode the address of a transaction of n bytes. -/
def ctlAddr (a : DWord) (n : Nat) : CtlAddr :=
  let v := a.toNat
  if (n ≠ 4 ∧ n ≠ 8 ∧ n ≠ 64) ∨ v % n ≠ 0 then .bad
  else if bit v 63 then (if bits v 62 24 = 0 then .management (bits v 23 20) (bits v 19 0) else .bad)
  else if bits v 62 46 = 0 ∧ bits v 45 0 < memSize then .memory (bits v 45 0) else .bad

/-- The answer to a transaction: data, or none for an error response. -/
def State.answering (s : State) (a : Option (List Byte)) : State := { s with mgmt := { s.mgmt with answer := a } }

/-- CONTROL_READ: memory is read at L2. A read of poison answers with an error. -/
def execControlRead (link : Nat) (addr : DWord) (size : Nat) (s : State) : Host.Outcome State Fault Refusal :=
  if !s.linkIsUp link then .next s
  else
    match ctlAddr addr size with
    | .bad => .next (s.answering none)
    | .memory a =>
      if s.pkg.poisoned a then .next (s.answering none)
      else if s.pkg.barred xdie a then .next s
      else
        let p := s.pkg.recallStash (a / 256) false
        .next (State.answering { s with pkg := p } (some (p.readMem a size)))
    | .management sock off =>
      match s.regReads sock off (size / 4) with
      | some (s, bs) => .next (s.answering (some bs))
      | none => .next s

/-- The words of some bytes. -/
def wordsOfBytes (bs : List Byte) : List Word :=
  (List.range (bs.length / 4)).map (fun i => word (ofBytes ((bs.drop (4 * i)).take 4)))

/-- CONTROL_WRITE: memory is written at L2. A write of a whole sector clears its poison; a smaller one of poison answers
with an error. -/
def execControlWrite (link : Nat) (addr : DWord) (data : List Byte) (s : State) : Host.Outcome State Fault Refusal :=
  if !s.linkIsUp link then .next s
  else
    match ctlAddr addr data.length with
    | .bad => .next (s.answering none)
    | .memory a =>
      if s.pkg.poisoned a ∧ data.length ≠ 64 then .next (s.answering none)
      else if s.pkg.barred xdie a then .next s
      else
        let p := s.pkg.engineStore a data
        .next (State.answering { s with pkg := { p with poison := p.poison.filter (· != a / 64) } } (some []))
    | .management sock off =>
      match s.regWrites sock off (wordsOfBytes data) with
      | some s => .next (s.answering (some []))
      | none => .next s

/-- CONTROL_LINK_DOWN: only transactions in flight are lost. -/
def execControlLinkDown (link : Nat) (s : State) : Host.Outcome State Fault Refusal :=
  if 2 ≤ link then .next s else .next { s with mgmt := { s.mgmt with linkUp := KMap.insert link false s.mgmt.linkUp } }

/-- CONTROL_LINK_UP; the link of an X-die in reset stays down. -/
def execControlLinkUp (link : Nat) (s : State) : Host.Outcome State Fault Refusal :=
  if 2 ≤ link ∨ s.xdown link then .next s
  else .next { s with mgmt := { s.mgmt with linkUp := KMap.insert link true s.mgmt.linkUp } }

/-! ## The I3C port (16 R379) -/

/-- The address of a private transfer: management space, on a word. -/
def i3cTarget (v : Word) : Option (Nat × Nat) :=
  match ctlAddr (pair v 0x80000000) 4 with
  | .management sock off => some (sock, off)
  | _ => none

/-- I3C_PRIVATE_READ: the four bytes at the address that a write with command 0x01 set up. -/
def execI3cPrivateRead (s : State) : Host.Outcome State Fault Refusal :=
  match s.mgmt.i3cRead.bind i3cTarget with
  | none => .next (s.answering none)
  | some (sock, off) =>
    match s.regReads sock off 1 with
    | some (s, bs) => .next (s.answering (some bs))
    | none => .next s

/-- I3C_PRIVATE_WRITE: a command byte, an address, and for a write four bytes of data. -/
def execI3cPrivateWrite (data : List Byte) (s : State) : Host.Outcome State Fault Refusal :=
  let a := word (recNat data 1 4)
  if data.length = 5 ∧ recNat data 0 1 = 1 then .next { s with mgmt := { s.mgmt with i3cRead := some a } }
  else if data.length = 9 ∧ recNat data 0 1 = 2 then
    match i3cTarget a with
    | none => .next s
    | some (sock, off) => .next ((s.regWrites sock off [word (recNat data 5 4)]).getD s)
  else .next s

/-- A dynamic address is assigned to a target that has none. -/
def Mgmt.assign (m : Mgmt) (a : BitVec 7) : Mgmt := { m with i3cAddr := some (m.i3cAddr.getD a) }

/-- The static address of the port (16 R379). -/
def i3cStatic : BitVec 7 := 0x4C

/-- SETDASA: only the target with the static address of the command takes the dynamic one. -/
def execSetdasa (a : BitVec 7 × BitVec 7) (s : State) : Host.Outcome State Fault Refusal :=
  if a.1 = i3cStatic then .next { s with mgmt := s.mgmt.assign a.2 } else .next s

/-- ENTDAA. -/
def execEntdaa (a : BitVec 7) (s : State) : Host.Outcome State Fault Refusal := .next { s with mgmt := s.mgmt.assign a }

/-- RSTDAA. -/
def execRstdaa (s : State) : Host.Outcome State Fault Refusal := .next { s with mgmt := { s.mgmt with i3cAddr := none } }

/-- ENEC: events are enabled. -/
def execEnec (m : Byte) (s : State) : Host.Outcome State Fault Refusal :=
  .next { s with mgmt := { s.mgmt with i3cEvents := s.mgmt.i3cEvents &&& ~~~m } }

/-- DISEC: events are disabled. -/
def execDisec (m : Byte) (s : State) : Host.Outcome State Fault Refusal :=
  .next { s with mgmt := { s.mgmt with i3cEvents := s.mgmt.i3cEvents ||| m } }

/-- GETPID: six bytes, most significant first. -/
def execGetpid (s : State) : Host.Outcome State Fault Refusal :=
  .next (s.answering (some (bytesOf 6 Config.i3cPid.toNat).reverse))

/-- GETBCR. -/
def execGetbcr (s : State) : Host.Outcome State Fault Refusal := .next (s.answering (some [Config.i3cBcr]))

/-- GETDCR. -/
def execGetdcr (s : State) : Host.Outcome State Fault Refusal := .next (s.answering (some [Config.i3cDcr]))

/-- GETSTATUS: two bytes, with the interrupts raised in the low four bits. -/
def execGetstatus (s : State) : Host.Outcome State Fault Refusal :=
  .next (s.answering (some [0, BitVec.ofNat 8 (min s.mgmt.i3cIbi.length 15)]))

/-- WDATA_READ. -/
def execWdataRead (s : State) : Host.Outcome State Fault Refusal :=
  match s.windowRead with
  | some (s, v) => .next (s.answering (some (bytesOf 4 v.toNat)))
  | none => .next s

/-- WDATA_WRITE. -/
def execWdataWrite (v : Word) (s : State) : Host.Outcome State Fault Refusal := .next ((s.windowWrite v).getD s)

end Sys2Proof.Machine
end

