-- ==== Sys2Proof/Machine/Dispatch.lean ====
section
/-!
DEFINITION. One arm per instruction, operation or event of spec/opcode_table.json, each a call of its meaning.
-/

namespace Sys2Proof.Machine

/-- What an instruction, operation or event does. -/
def exec (i : Instr) (s : State) : Host.Outcome State Fault Refusal :=
  match i with
  | .pfxLit l => Sys2Proof.Machine.execPfxLit l s
  | .pfxOff o => Sys2Proof.Machine.execPfxOff o s
  | .pfxMod scv sat nb rm => Sys2Proof.Machine.execPfxMod scv sat nb rm s
  | .pfxHint prv pri likely yld => Sys2Proof.Machine.execPfxHint prv pri likely yld s
  | .addI32 g d a b => Sys2Proof.Machine.execAddI32 g d a b s
  | .subI32 g d a b => Sys2Proof.Machine.execSubI32 g d a b s
  | .addiI32 g d a imm => Sys2Proof.Machine.execAddiI32 g d a imm s
  | .addI64 g d a b => Sys2Proof.Machine.execAddI64 g d a b s
  | .subI64 g d a b => Sys2Proof.Machine.execSubI64 g d a b s
  | .mulI32 g d a b => Sys2Proof.Machine.execMulI32 g d a b s
  | .madI32 g d a b => Sys2Proof.Machine.execMadI32 g d a b s
  | .mulhiI32 g d a b => Sys2Proof.Machine.execMulhiI32 g d a b s
  | .mulhiN32 g d a b => Sys2Proof.Machine.execMulhiN32 g d a b s
  | .mulwideI32 g d a b => Sys2Proof.Machine.execMulwideI32 g d a b s
  | .mulwideN32 g d a b => Sys2Proof.Machine.execMulwideN32 g d a b s
  | .minI32 g d a b => Sys2Proof.Machine.execMinI32 g d a b s
  | .maxI32 g d a b => Sys2Proof.Machine.execMaxI32 g d a b s
  | .minN32 g d a b => Sys2Proof.Machine.execMinN32 g d a b s
  | .maxN32 g d a b => Sys2Proof.Machine.execMaxN32 g d a b s
  | .and g d a b => Sys2Proof.Machine.execAnd g d a b s
  | .andn g d a b => Sys2Proof.Machine.execAndn g d a b s
  | .or g d a b => Sys2Proof.Machine.execOr g d a b s
  | .xor g d a b => Sys2Proof.Machine.execXor g d a b s
  | .shl g d a b => Sys2Proof.Machine.execShl g d a b s
  | .shr g d a b => Sys2Proof.Machine.execShr g d a b s
  | .sra g d a b => Sys2Proof.Machine.execSra g d a b s
  | .rotl g d a b => Sys2Proof.Machine.execRotl g d a b s
  | .shli g d a n => Sys2Proof.Machine.execShli g d a n s
  | .shri g d a n => Sys2Proof.Machine.execShri g d a n s
  | .srai g d a n => Sys2Proof.Machine.execSrai g d a n s
  | .rotli g d a n => Sys2Proof.Machine.execRotli g d a n s
  | .andi g d a imm => Sys2Proof.Machine.execAndi g d a imm s
  | .ori g d a imm => Sys2Proof.Machine.execOri g d a imm s
  | .xori g d a imm => Sys2Proof.Machine.execXori g d a imm s
  | .bfeI32 g d a b => Sys2Proof.Machine.execBfeI32 g d a b s
  | .bfeN32 g d a b => Sys2Proof.Machine.execBfeN32 g d a b s
  | .bfi g d a b => Sys2Proof.Machine.execBfi g d a b s
  | .divI32 g d a b => Sys2Proof.Machine.execDivI32 g d a b s
  | .divN32 g d a b => Sys2Proof.Machine.execDivN32 g d a b s
  | .remI32 g d a b => Sys2Proof.Machine.execRemI32 g d a b s
  | .remN32 g d a b => Sys2Proof.Machine.execRemN32 g d a b s
  | .movi g d imm => Sys2Proof.Machine.execMovi g d imm s
  | .mov g d a => Sys2Proof.Machine.execMov g d a s
  | .mov64 g d a => Sys2Proof.Machine.execMov64 g d a s
  | .not g d a => Sys2Proof.Machine.execNot g d a s
  | .negI32 g d a => Sys2Proof.Machine.execNegI32 g d a s
  | .absI32 g d a => Sys2Proof.Machine.execAbsI32 g d a s
  | .popc g d a => Sys2Proof.Machine.execPopc g d a s
  | .clz g d a => Sys2Proof.Machine.execClz g d a s
  | .ctz g d a => Sys2Proof.Machine.execCtz g d a s
  | .brev g d a => Sys2Proof.Machine.execBrev g d a s
  | .sext8 g d a => Sys2Proof.Machine.execSext8 g d a s
  | .sext16 g d a => Sys2Proof.Machine.execSext16 g d a s
  | .zext8 g d a => Sys2Proof.Machine.execZext8 g d a s
  | .zext16 g d a => Sys2Proof.Machine.execZext16 g d a s
  | .negI64 g d a => Sys2Proof.Machine.execNegI64 g d a s
  | .popc64 g d a => Sys2Proof.Machine.execPopc64 g d a s
  | .clz64 g d a => Sys2Proof.Machine.execClz64 g d a s
  | .cvtF64I32 g d a => Sys2Proof.Machine.execCvtF64I32 g d a s
  | .cvtF64N32 g d a => Sys2Proof.Machine.execCvtF64N32 g d a s
  | .cvtF64I64 g d a => Sys2Proof.Machine.execCvtF64I64 g d a s
  | .cvtI32F64 g d a => Sys2Proof.Machine.execCvtI32F64 g d a s
  | .cvtN32F64 g d a => Sys2Proof.Machine.execCvtN32F64 g d a s
  | .cvtI64F64 g d a => Sys2Proof.Machine.execCvtI64F64 g d a s
  | .cvtF32I32 g d a => Sys2Proof.Machine.execCvtF32I32 g d a s
  | .cvtI32F32 g d a => Sys2Proof.Machine.execCvtI32F32 g d a s
  | .cvtF32F64 g d a => Sys2Proof.Machine.execCvtF32F64 g d a s
  | .cvtF64F32 g d a => Sys2Proof.Machine.execCvtF64F32 g d a s
  | .cvtF16F32 g d a => Sys2Proof.Machine.execCvtF16F32 g d a s
  | .cvtF32F16 g d a => Sys2Proof.Machine.execCvtF32F16 g d a s
  | .cvtBf16F32 g d a => Sys2Proof.Machine.execCvtBf16F32 g d a s
  | .cvtF32Bf16 g d a => Sys2Proof.Machine.execCvtF32Bf16 g d a s
  | .lxFrom g d a b => Sys2Proof.Machine.execLxFrom g d a b s
  | .lxMix g d a b => Sys2Proof.Machine.execLxMix g d a b s
  | .lxBack g d a b => Sys2Proof.Machine.execLxBack g d a b s
  | .lxFwd g d a b => Sys2Proof.Machine.execLxFwd g d a b s
  | .xlAll g d a => Sys2Proof.Machine.execXlAll g d a s
  | .xlAny g d a => Sys2Proof.Machine.execXlAny g d a s
  | .xlBits g d a => Sys2Proof.Machine.execXlBits g d a s
  | .xlSame g d a => Sys2Proof.Machine.execXlSame g d a s
  | .xlPeers g d a => Sys2Proof.Machine.execXlPeers g d a s
  | .xlAddI32 g d a => Sys2Proof.Machine.execXlAddI32 g d a s
  | .xlMinI32 g d a => Sys2Proof.Machine.execXlMinI32 g d a s
  | .xlMaxI32 g d a => Sys2Proof.Machine.execXlMaxI32 g d a s
  | .xlAnd g d a => Sys2Proof.Machine.execXlAnd g d a s
  | .xlOr g d a => Sys2Proof.Machine.execXlOr g d a s
  | .xlXor g d a => Sys2Proof.Machine.execXlXor g d a s
  | .xlBelow g d => Sys2Proof.Machine.execXlBelow g d s
  | .ixset g a x => Sys2Proof.Machine.execIxset g a x s
  | .ixadd g a x => Sys2Proof.Machine.execIxadd g a x s
  | .ixget g d x => Sys2Proof.Machine.execIxget g d x s
  | .gets g d x0 => Sys2Proof.Machine.execGets g d x0 s
  | .sets g a x0 => Sys2Proof.Machine.execSets g a x0 s
  | .addF64 g d a b => Sys2Proof.Machine.execAddF64 g d a b s
  | .subF64 g d a b => Sys2Proof.Machine.execSubF64 g d a b s
  | .mulF64 g d a b => Sys2Proof.Machine.execMulF64 g d a b s
  | .fmaF64 g d a b => Sys2Proof.Machine.execFmaF64 g d a b s
  | .fmsF64 g d a b => Sys2Proof.Machine.execFmsF64 g d a b s
  | .fnmaF64 g d a b => Sys2Proof.Machine.execFnmaF64 g d a b s
  | .minF64 g d a b => Sys2Proof.Machine.execMinF64 g d a b s
  | .maxF64 g d a b => Sys2Proof.Machine.execMaxF64 g d a b s
  | .divF64 g d a b => Sys2Proof.Machine.execDivF64 g d a b s
  | .scaleF64 g d a b => Sys2Proof.Machine.execScaleF64 g d a b s
  | .negF64 g d a => Sys2Proof.Machine.execNegF64 g d a s
  | .absF64 g d a => Sys2Proof.Machine.execAbsF64 g d a s
  | .sqrtF64 g d a => Sys2Proof.Machine.execSqrtF64 g d a s
  | .rcpF64 g d a => Sys2Proof.Machine.execRcpF64 g d a s
  | .rsqEstF64 g d a => Sys2Proof.Machine.execRsqEstF64 g d a s
  | .floorF64 g d a => Sys2Proof.Machine.execFloorF64 g d a s
  | .ceilF64 g d a => Sys2Proof.Machine.execCeilF64 g d a s
  | .truncF64 g d a => Sys2Proof.Machine.execTruncF64 g d a s
  | .rintF64 g d a => Sys2Proof.Machine.execRintF64 g d a s
  | .classF64 g d a => Sys2Proof.Machine.execClassF64 g d a s
  | .getexpF64 g d a => Sys2Proof.Machine.execGetexpF64 g d a s
  | .getmantF64 g d a => Sys2Proof.Machine.execGetmantF64 g d a s
  | .addF32 g d a b => Sys2Proof.Machine.execAddF32 g d a b s
  | .subF32 g d a b => Sys2Proof.Machine.execSubF32 g d a b s
  | .mulF32 g d a b => Sys2Proof.Machine.execMulF32 g d a b s
  | .fmaF32 g d a b => Sys2Proof.Machine.execFmaF32 g d a b s
  | .addF32x2 g d a b => Sys2Proof.Machine.execAddF32x2 g d a b s
  | .mulF32x2 g d a b => Sys2Proof.Machine.execMulF32x2 g d a b s
  | .fmaF32x2 g d a b => Sys2Proof.Machine.execFmaF32x2 g d a b s
  | .fnmaF32x2 g d a b => Sys2Proof.Machine.execFnmaF32x2 g d a b s
  | .minF32 g d a b => Sys2Proof.Machine.execMinF32 g d a b s
  | .maxF32 g d a b => Sys2Proof.Machine.execMaxF32 g d a b s
  | .divF32 g d a b => Sys2Proof.Machine.execDivF32 g d a b s
  | .scaleF32 g d a b => Sys2Proof.Machine.execScaleF32 g d a b s
  | .negF32 g d a => Sys2Proof.Machine.execNegF32 g d a s
  | .absF32 g d a => Sys2Proof.Machine.execAbsF32 g d a s
  | .sqrtF32 g d a => Sys2Proof.Machine.execSqrtF32 g d a s
  | .rcpF32 g d a => Sys2Proof.Machine.execRcpF32 g d a s
  | .rsqEstF32 g d a => Sys2Proof.Machine.execRsqEstF32 g d a s
  | .exp2EstF32 g d a => Sys2Proof.Machine.execExp2EstF32 g d a s
  | .log2EstF32 g d a => Sys2Proof.Machine.execLog2EstF32 g d a s
  | .sinEstF32 g d a => Sys2Proof.Machine.execSinEstF32 g d a s
  | .cosEstF32 g d a => Sys2Proof.Machine.execCosEstF32 g d a s
  | .tanhEstF32 g d a => Sys2Proof.Machine.execTanhEstF32 g d a s
  | .floorF32 g d a => Sys2Proof.Machine.execFloorF32 g d a s
  | .ceilF32 g d a => Sys2Proof.Machine.execCeilF32 g d a s
  | .truncF32 g d a => Sys2Proof.Machine.execTruncF32 g d a s
  | .rintF32 g d a => Sys2Proof.Machine.execRintF32 g d a s
  | .classF32 g d a => Sys2Proof.Machine.execClassF32 g d a s
  | .fmaF16x2 g d a b => Sys2Proof.Machine.execFmaF16x2 g d a b s
  | .fmaBf16x2 g d a b => Sys2Proof.Machine.execFmaBf16x2 g d a b s
  | .addF16x2 g d a b => Sys2Proof.Machine.execAddF16x2 g d a b s
  | .mulF16x2 g d a b => Sys2Proof.Machine.execMulF16x2 g d a b s
  | .addBf16x2 g d a b => Sys2Proof.Machine.execAddBf16x2 g d a b s
  | .mulBf16x2 g d a b => Sys2Proof.Machine.execMulBf16x2 g d a b s
  | .dot4E4m3 g d a b => Sys2Proof.Machine.execDot4E4m3 g d a b s
  | .dot4E5m2 g d a b => Sys2Proof.Machine.execDot4E5m2 g d a b s
  | .dot4E3m2 g d a b => Sys2Proof.Machine.execDot4E3m2 g d a b s
  | .dot8E2m1 g d a b => Sys2Proof.Machine.execDot8E2m1 g d a b s
  | .dot4I8 g d a b => Sys2Proof.Machine.execDot4I8 g d a b s
  | .dot8I4 g d a b => Sys2Proof.Machine.execDot8I4 g d a b s
  | .dot2F16 g d a b => Sys2Proof.Machine.execDot2F16 g d a b s
  | .dot2Bf16 g d a b => Sys2Proof.Machine.execDot2Bf16 g d a b s
  | .pk2E4m3 g d a b => Sys2Proof.Machine.execPk2E4m3 g d a b s
  | .pk2E5m2 g d a b => Sys2Proof.Machine.execPk2E5m2 g d a b s
  | .pk2E2m1 g d a b => Sys2Proof.Machine.execPk2E2m1 g d a b s
  | .pk2I4 g d a b => Sys2Proof.Machine.execPk2I4 g d a b s
  | .pk2E3m2 g d a b => Sys2Proof.Machine.execPk2E3m2 g d a b s
  | .pk2I8 g d a b => Sys2Proof.Machine.execPk2I8 g d a b s
  | .upkE4m3 g d a e => Sys2Proof.Machine.execUpkE4m3 g d a e s
  | .upkE5m2 g d a e => Sys2Proof.Machine.execUpkE5m2 g d a e s
  | .upkE3m2 g d a e => Sys2Proof.Machine.execUpkE3m2 g d a e s
  | .upkE2m1 g d a e => Sys2Proof.Machine.execUpkE2m1 g d a e s
  | .upkI8 g d a e => Sys2Proof.Machine.execUpkI8 g d a e s
  | .upkI4 g d a e => Sys2Proof.Machine.execUpkI4 g d a e s
  | .upkF16 g d a e => Sys2Proof.Machine.execUpkF16 g d a e s
  | .upkBf16 g d a e => Sys2Proof.Machine.execUpkBf16 g d a e s
  | .upkK8 g d a e => Sys2Proof.Machine.execUpkK8 g d a e s
  | .setpI32 g p c a b => Sys2Proof.Machine.execSetpI32 g p c a b s
  | .setpN32 g p c a b => Sys2Proof.Machine.execSetpN32 g p c a b s
  | .setpI64 g p c a b => Sys2Proof.Machine.execSetpI64 g p c a b s
  | .setpN64 g p c a b => Sys2Proof.Machine.execSetpN64 g p c a b s
  | .setpF64 g p c a b => Sys2Proof.Machine.execSetpF64 g p c a b s
  | .setpF32 g p c a b => Sys2Proof.Machine.execSetpF32 g p c a b s
  | .pand g p x y => Sys2Proof.Machine.execPand g p x y s
  | .por g p x y => Sys2Proof.Machine.execPor g p x y s
  | .pxor g p x y => Sys2Proof.Machine.execPxor g p x y s
  | .pandn g p x y => Sys2Proof.Machine.execPandn g p x y s
  | .porn g p x y => Sys2Proof.Machine.execPorn g p x y s
  | .pnot g p x => Sys2Proof.Machine.execPnot g p x s
  | .pmov g p x => Sys2Proof.Machine.execPmov g p x s
  | .pset g p => Sys2Proof.Machine.execPset g p s
  | .pclr g p => Sys2Proof.Machine.execPclr g p s
  | .p2v g d => Sys2Proof.Machine.execP2v g d s
  | .v2p g a => Sys2Proof.Machine.execV2p g a s
  | .pmask g d k => Sys2Proof.Machine.execPmask g d k s
  | .bra g t r => Sys2Proof.Machine.execBra g t r s
  | .call g t => Sys2Proof.Machine.execCall g t s
  | .ret g => Sys2Proof.Machine.execRet g s
  | .exit g => Sys2Proof.Machine.execExit g s
  | .jmpr g a => Sys2Proof.Machine.execJmpr g a s
  | .callr g a => Sys2Proof.Machine.execCallr g a s
  | .yield g => Sys2Proof.Machine.execYield g s
  | .wsync g => Sys2Proof.Machine.execWsync g s
  | .splitId g d => Sys2Proof.Machine.execSplitId g d s
  | .splitMask g d => Sys2Proof.Machine.execSplitMask g d s
  | .barArrive g a n => Sys2Proof.Machine.execBarArrive g a n s
  | .barWait g a n => Sys2Proof.Machine.execBarWait g a n s
  | .barSync g a n => Sys2Proof.Machine.execBarSync g a n s
  | .cbarArrive g a n => Sys2Proof.Machine.execCbarArrive g a n s
  | .cbarWait g a n => Sys2Proof.Machine.execCbarWait g a n s
  | .cbarSync g a n => Sys2Proof.Machine.execCbarSync g a n s
  | .abarInit g d a => Sys2Proof.Machine.execAbarInit g d a s
  | .abarOwe g d a => Sys2Proof.Machine.execAbarOwe g d a s
  | .abarArrive g d a => Sys2Proof.Machine.execAbarArrive g d a s
  | .abarWait g d a => Sys2Proof.Machine.execAbarWait g d a s
  | .abarTest g d a => Sys2Proof.Machine.execAbarTest g d a s
  | .abarInval g a => Sys2Proof.Machine.execAbarInval g a s
  | .sleep g a => Sys2Proof.Machine.execSleep g a s
  | .nop g => Sys2Proof.Machine.execNop g s
  | .ld g d a w p => Sys2Proof.Machine.execLd g d a w p s
  | .st g d a w p => Sys2Proof.Machine.execSt g d a w p s
  | .ldSp g d a w => Sys2Proof.Machine.execLdSp g d a w s
  | .stSp g d a w => Sys2Proof.Machine.execStSp g d a w s
  | .ldv32 g d a b => Sys2Proof.Machine.execLdv32 g d a b s
  | .ldv32Chk p d a b => Sys2Proof.Machine.execLdv32Chk p d a b s
  | .ldv64 g d a b => Sys2Proof.Machine.execLdv64 g d a b s
  | .ldv64Chk p d a b => Sys2Proof.Machine.execLdv64Chk p d a b s
  | .atom g d a x0 o => Sys2Proof.Machine.execAtom g d a x0 o s
  | .atomSp g d a x0 o => Sys2Proof.Machine.execAtomSp g d a x0 o s
  | .ldAcq g d a x0 w => Sys2Proof.Machine.execLdAcq g d a x0 w s
  | .stRel g d a x0 w => Sys2Proof.Machine.execStRel g d a x0 w s
  | .fence g x0 k => Sys2Proof.Machine.execFence g x0 k s
  | .stashMap g d a => Sys2Proof.Machine.execStashMap g d a s
  | .stashUnmap g a => Sys2Proof.Machine.execStashUnmap g a s
  | .stashWb g a => Sys2Proof.Machine.execStashWb g a s
  | .stashInv g a => Sys2Proof.Machine.execStashInv g a s
  | .arBegin g t => Sys2Proof.Machine.execArBegin g t s
  | .arEnd g x0 => Sys2Proof.Machine.execArEnd g x0 s
  | .arAbort g a => Sys2Proof.Machine.execArAbort g a s
  | .arStatus g d => Sys2Proof.Machine.execArStatus g d s
  | .prf g a p => Sys2Proof.Machine.execPrf g a p s
  | .wbl g a => Sys2Proof.Machine.execWbl g a s
  | .invl g a => Sys2Proof.Machine.execInvl g a s
  | .qbind g q a c => Sys2Proof.Machine.execQbind g q a c s
  | .qunbind g q => Sys2Proof.Machine.execQunbind g q s
  | .qdepth g d q => Sys2Proof.Machine.execQdepth g d q s
  | .qspace g d q => Sys2Proof.Machine.execQspace g d q s
  | .qdrain g q => Sys2Proof.Machine.execQdrain g q s
  | .qsend g a q => Sys2Proof.Machine.execQsend g a q s
  | .qrecv g d q => Sys2Proof.Machine.execQrecv g d q s
  | .cpG2s g d a => Sys2Proof.Machine.execCpG2s g d a s
  | .cpS2g g d a => Sys2Proof.Machine.execCpS2g g d a s
  | .cpG2g g d a => Sys2Proof.Machine.execCpG2g g d a s
  | .cpS2s g d a => Sys2Proof.Machine.execCpS2s g d a s
  | .cpMcast g d a => Sys2Proof.Machine.execCpMcast g d a s
  | .cpTile2d g d a => Sys2Proof.Machine.execCpTile2d g d a s
  | .cpSeal g => Sys2Proof.Machine.execCpSeal g s
  | .cpWptr g d a => Sys2Proof.Machine.execCpWptr g d a s
  | .waitCnt g c t => Sys2Proof.Machine.execWaitCnt g c t s
  | .collHalo g d a => Sys2Proof.Machine.execCollHalo g d a s
  | .collAllred g d a => Sys2Proof.Machine.execCollAllred g d a s
  | .collA2a g d a => Sys2Proof.Machine.execCollA2a g d a s
  | .collRs g d a => Sys2Proof.Machine.execCollRs g d a s
  | .collAg g d a => Sys2Proof.Machine.execCollAg g d a s
  | .collTest g d a => Sys2Proof.Machine.execCollTest g d a s
  | .stkInit g d a => Sys2Proof.Machine.execStkInit g d a s
  | .stkPush g a => Sys2Proof.Machine.execStkPush g a s
  | .stkPop g d => Sys2Proof.Machine.execStkPop g d s
  | .stkTop g d => Sys2Proof.Machine.execStkTop g d s
  | .stkDepth g d => Sys2Proof.Machine.execStkDepth g d s
  | .mloadB g d a => Sys2Proof.Machine.execMloadB g d a s
  | .mma g d a => Sys2Proof.Machine.execMma g d a s
  | .mzero g d => Sys2Proof.Machine.execMzero g d s
  | .mcvt g d a => Sys2Proof.Machine.execMcvt g d a s
  | .sqPush g a => Sys2Proof.Machine.execSqPush g a s
  | .armWait g => Sys2Proof.Machine.execArmWait g s
  | .armEnd g => Sys2Proof.Machine.execArmEnd g s
  | .trap g a c => Sys2Proof.Machine.execTrap g a c s
  | .brkpt g => Sys2Proof.Machine.execBrkpt g s
  | .evSignal g d a => Sys2Proof.Machine.execEvSignal g d a s
  | .evWait g d a => Sys2Proof.Machine.execEvWait g d a s
  | .evTest g d a => Sys2Proof.Machine.execEvTest g d a s
  | .evReset g a => Sys2Proof.Machine.execEvReset g a s
  | .launch g a => Sys2Proof.Machine.execLaunch g a s
  | .feed g a => Sys2Proof.Machine.execFeed g a s
  | .wpop g d => Sys2Proof.Machine.execWpop g d s
  | .poolGive g u => Sys2Proof.Machine.execPoolGive g u s
  | .poolTake g u => Sys2Proof.Machine.execPoolTake g u s
  | .traceMark g a => Sys2Proof.Machine.execTraceMark g a s
  | .clk g d => Sys2Proof.Machine.execClk g d s
  | .ptime g d => Sys2Proof.Machine.execPtime g d s
  | .verSet g a => Sys2Proof.Machine.execVerSet g a s
  | .verGet g d => Sys2Proof.Machine.execVerGet g d s
  | .verPub g d a => Sys2Proof.Machine.execVerPub g d a s
  | .verRack g d a => Sys2Proof.Machine.execVerRack g d a s
  | .verQuery g d a => Sys2Proof.Machine.execVerQuery g d a s
  | .powerOnReset => Sys2Proof.Machine.execPowerOnReset s
  | .ptimeLoRead => Sys2Proof.Machine.execPtimeLoRead s
  | .registerWrite sock off v => Sys2Proof.Machine.execRegisterWrite sock off v s
  | .tlbInvalidate v => Sys2Proof.Machine.execTlbInvalidate v s
  | .tlbInvalidateDone => Sys2Proof.Machine.execTlbInvalidateDone s
  | .fetcherWake q => Sys2Proof.Machine.execFetcherWake q s
  | .packetStart x => Sys2Proof.Machine.execPacketStart x s
  | .priorityAging q => Sys2Proof.Machine.execPriorityAging q s
  | .nopPacket q n => Sys2Proof.Machine.execNopPacket q n s
  | .launchPacket q n => Sys2Proof.Machine.execLaunchPacket q n s
  | .feedPacket q n => Sys2Proof.Machine.execFeedPacket q n s
  | .signalPacket q n => Sys2Proof.Machine.execSignalPacket q n s
  | .waitPacket q n => Sys2Proof.Machine.execWaitPacket q n s
  | .copyPacket q n len => Sys2Proof.Machine.execCopyPacket q n len s
  | .snapshotOpen q n => Sys2Proof.Machine.execSnapshotOpen q n s
  | .snapshotPublish q n => Sys2Proof.Machine.execSnapshotPublish q n s
  | .snapshotRack q n => Sys2Proof.Machine.execSnapshotRack q n s
  | .snapshotClose q n => Sys2Proof.Machine.execSnapshotClose q n s
  | .snapshotActionApply imm => Sys2Proof.Machine.execSnapshotActionApply imm s
  | .fencePacket q n => Sys2Proof.Machine.execFencePacket q n s
  | .traceOpen q n => Sys2Proof.Machine.execTraceOpen q n s
  | .traceClose q n => Sys2Proof.Machine.execTraceClose q n s
  | .traceFlush q n => Sys2Proof.Machine.execTraceFlush q n s
  | .packetComplete q n => Sys2Proof.Machine.execPacketComplete q n s
  | .launchReady l => Sys2Proof.Machine.execLaunchReady l s
  | .blockPlace l => Sys2Proof.Machine.execBlockPlace l s
  | .guardedReservation l => Sys2Proof.Machine.execGuardedReservation l s
  | .eventWaitBlockSave l => Sys2Proof.Machine.execEventWaitBlockSave l s
  | .blockRestore l => Sys2Proof.Machine.execBlockRestore l s
  | .blockRetire core slot => Sys2Proof.Machine.execBlockRetire core slot s
  | .queueEnable q => Sys2Proof.Machine.execQueueEnable q s
  | .queueDisable q => Sys2Proof.Machine.execQueueDisable q s
  | .queuePreempt q => Sys2Proof.Machine.execQueuePreempt q s
  | .preemptSaveDone q => Sys2Proof.Machine.execPreemptSaveDone q s
  | .queueResume q => Sys2Proof.Machine.execQueueResume q s
  | .queueReset q => Sys2Proof.Machine.execQueueReset q s
  | .firmwareStep x c => Sys2Proof.Machine.execFirmwareStep x c s
  | .overflowService asid => Sys2Proof.Machine.execOverflowService asid s
  | .eventQuery => Sys2Proof.Machine.execEventQuery s
  | .accessComplete core slot w cls => Sys2Proof.Machine.execAccessComplete core slot w cls s
  | .pageWalkDone die => Sys2Proof.Machine.execPageWalkDone die s
  | .atomicBackoffExpire die line => Sys2Proof.Machine.execAtomicBackoffExpire die line s
  | .copyOnWrite => Sys2Proof.Machine.execCopyOnWrite s
  | .copyDelivery core id n => Sys2Proof.Machine.execCopyDelivery core id n s
  | .copyComplete core id => Sys2Proof.Machine.execCopyComplete core id s
  | .matrixOpComplete core => Sys2Proof.Machine.execMatrixOpComplete core s
  | .rast core imm => Sys2Proof.Machine.execRast core imm s
  | .ztest core imm => Sys2Proof.Machine.execZtest core imm s
  | .zclear core imm => Sys2Proof.Machine.execZclear core imm s
  | .zretire core imm => Sys2Proof.Machine.execZretire core imm s
  | .cclear core imm => Sys2Proof.Machine.execCclear core imm s
  | .flat core imm => Sys2Proof.Machine.execFlat core imm s
  | .tile core imm => Sys2Proof.Machine.execTile core imm s
  | .expand core imm => Sys2Proof.Machine.execExpand core imm s
  | .cretire core imm => Sys2Proof.Machine.execCretire core imm s
  | .tri core imm => Sys2Proof.Machine.execTri core imm s
  | .quad core imm => Sys2Proof.Machine.execQuad core imm s
  | .sample core imm => Sys2Proof.Machine.execSample core imm s
  | .box core imm => Sys2Proof.Machine.execBox core imm s
  | .hit core imm => Sys2Proof.Machine.execHit core imm s
  | .peerRecord core slot imm => Sys2Proof.Machine.execPeerRecord core slot imm s
  | .heldCallReexamine core cls => Sys2Proof.Machine.execHeldCallReexamine core cls s
  | .callReturn core id => Sys2Proof.Machine.execCallReturn core id s
  | .collMessage g rank data => Sys2Proof.Machine.execCollMessage g rank data s
  | .collComplete g => Sys2Proof.Machine.execCollComplete g s
  | .peerLostTimeout g pkg => Sys2Proof.Machine.execPeerLostTimeout g pkg s
  | .collAbortReceive g pkg => Sys2Proof.Machine.execCollAbortReceive g pkg s
  | .groupValidate g v => Sys2Proof.Machine.execGroupValidate g v s
  | .podResponse id kind data => Sys2Proof.Machine.execPodResponse id kind data s
  | .podTimeout id => Sys2Proof.Machine.execPodTimeout id s
  | .podLateResponse line => Sys2Proof.Machine.execPodLateResponse line s
  | .ualinkInboundRequest src addr len wr atom data => Sys2Proof.Machine.execUalinkInboundRequest src addr len wr atom data s
  | .portStateChange p up => Sys2Proof.Machine.execPortStateChange p up s
  | .controlRead link addr size => Sys2Proof.Machine.execControlRead link addr size s
  | .controlWrite link addr data => Sys2Proof.Machine.execControlWrite link addr data s
  | .controlLinkDown link => Sys2Proof.Machine.execControlLinkDown link s
  | .i3cPrivateRead => Sys2Proof.Machine.execI3cPrivateRead s
  | .i3cPrivateWrite data => Sys2Proof.Machine.execI3cPrivateWrite data s
  | .setdasa a => Sys2Proof.Machine.execSetdasa a s
  | .entdaa a => Sys2Proof.Machine.execEntdaa a s
  | .rstdaa => Sys2Proof.Machine.execRstdaa s
  | .enec m => Sys2Proof.Machine.execEnec m s
  | .disec m => Sys2Proof.Machine.execDisec m s
  | .getpid => Sys2Proof.Machine.execGetpid s
  | .getbcr => Sys2Proof.Machine.execGetbcr s
  | .getdcr => Sys2Proof.Machine.execGetdcr s
  | .getstatus => Sys2Proof.Machine.execGetstatus s
  | .wdataRead => Sys2Proof.Machine.execWdataRead s
  | .wdataWrite v => Sys2Proof.Machine.execWdataWrite v s
  | .haltWarpStop core slot w cyc => Sys2Proof.Machine.execHaltWarpStop core slot w cyc s
  | .killSettled core slot => Sys2Proof.Machine.execKillSettled core slot s
  | .handlerStart core slot => Sys2Proof.Machine.execHandlerStart core slot s
  | .claimDeadlockDetect core slot => Sys2Proof.Machine.execClaimDeadlockDetect core slot s
  | .sleepExpire core slot w sp => Sys2Proof.Machine.execSleepExpire core slot w sp s
  | .watchdogFire core slot => Sys2Proof.Machine.execWatchdogFire core slot s
  | .stop core => Sys2Proof.Machine.execStop core s
  | .resume core => Sys2Proof.Machine.execResume core s
  | .step core => Sys2Proof.Machine.execStep core s
  | .read core => Sys2Proof.Machine.execRead core s
  | .write core => Sys2Proof.Machine.execWrite core s
  | .counterClear core => Sys2Proof.Machine.execCounterClear core s
  | .counterFreeze core on => Sys2Proof.Machine.execCounterFreeze core on s
  | .traceSample core quad => Sys2Proof.Machine.execTraceSample core quad s
  | .traceFrameWrite q die => Sys2Proof.Machine.execTraceFrameWrite q die s
  | .storageError e => Sys2Proof.Machine.execStorageError e s
  | .scrub die => Sys2Proof.Machine.execScrub die s
  | .scrubDone die => Sys2Proof.Machine.execScrubDone die s
  | .memerrClear die => Sys2Proof.Machine.execMemerrClear die s
  | .eventBlockClear => Sys2Proof.Machine.execEventBlockClear s
  | .regionCounterClear die => Sys2Proof.Machine.execRegionCounterClear die s
  | .masterFreeze v => Sys2Proof.Machine.execMasterFreeze v s
  | .thawResume e => Sys2Proof.Machine.execThawResume e s
  | .thawSkip e => Sys2Proof.Machine.execThawSkip e s
  | .thawReset e => Sys2Proof.Machine.execThawReset e s
  | .packageHold => Sys2Proof.Machine.execPackageHold s
  | .holdComplete => Sys2Proof.Machine.execHoldComplete s
  | .packageUnhold => Sys2Proof.Machine.execPackageUnhold s
  | .dieResetControlled d => Sys2Proof.Machine.execDieResetControlled d s
  | .dieResetSweep d => Sys2Proof.Machine.execDieResetSweep d s
  | .dieResetUncontrolled d => Sys2Proof.Machine.execDieResetUncontrolled d s
  | .dieRelease => Sys2Proof.Machine.execDieRelease s
  | .directoryRebuildDone d => Sys2Proof.Machine.execDirectoryRebuildDone d s
  | .xdieReset x => Sys2Proof.Machine.execXdieReset x s
  | .xdieErrorReset x => Sys2Proof.Machine.execXdieErrorReset x s
  | .xdieRelease x => Sys2Proof.Machine.execXdieRelease x s
  | .xdieAutoRelease x => Sys2Proof.Machine.execXdieAutoRelease x s
  | .powerWindow high => Sys2Proof.Machine.execPowerWindow high s
  | .monitorUpdate d r => Sys2Proof.Machine.execMonitorUpdate d r s
  | .throttleStageTimeout d => Sys2Proof.Machine.execThrottleStageTimeout d s
  | .throttleStepDown d => Sys2Proof.Machine.execThrottleStepDown d s
  | .throttleRestart d => Sys2Proof.Machine.execThrottleRestart d s
  | .illegalEncoding w => Sys2Proof.Machine.execIllegalEncoding w s
  | .controlLinkUp link => Sys2Proof.Machine.execControlLinkUp link s

end Sys2Proof.Machine
end

