-- ==== Sys2Proof/Machine/Step.lean ====
section
/-!
DEFINITION. One step of the machine, and the state whose next step runs a given word.
-/

namespace Sys2Proof.Machine

/-- An operation or event of the table: what happens without an instruction word. -/
def isEvent (e : Instr) : Bool :=
  match encode e with
  | some _ => false
  | none => match e with
    | .illegalEncoding _ => false
    | _ => true

/-- Time passes for a step (01 R18-R20, log 5), and the step is counted. -/
def State.tickOn (s : State) : State := { s with pkg := s.pkg.tickOn }

/-- The next action: the head of the agenda, or a free one when nothing is listed (log 3). -/
def State.nextAction (s : State) : Action × State :=
  match s.agenda with
  | a :: t => (a, { s with agenda := t })
  | [] => (Config.action s.pkg.tick, s)

/-- A split or armature issues: the decision, then the instruction of the word. -/
noncomputable def State.issueWord (s : State) (i : Issuer) : Host.Outcome State Fault Refusal :=
  match s.pkg.present i with
  | (p, none) => .next { s with pkg := p }
  | (p, some w) =>
    match decodeWord w.toNat with
    | .ok k => exec k { s with pkg := p, cur := some i }
    | .error _ => exec (.illegalEncoding w) { s with pkg := p, cur := some i }

/-- One step. -/
noncomputable def step (s : State) : Host.Outcome State Fault Refusal :=
  match s.nextAction with
  | (.run i, t) => t.tickOn.issueWord i
  | (.event e, t) => if isEvent e then exec e t.tickOn else .next t.tickOn

/-- The address that `withFetchWord` gives the word. -/
def probePc : Nat := 0x1000

/-- The record of a launch of one block of one warp, for `withFetchWord`. -/
def probeRecord : List Byte := List.replicate 256 0

/-- The issuer that can run a word: the armature for the armature's majors. -/
def probeIssuer (w : Nat) : Issuer := ⟨0, 0, if armOnlyMajor (bits w 31 25) then armNo else 0, 0⟩

/-- The state with the word stored where the next step fetches: block slot 0 of core 0 holds a block of one
warp and an armature whose code page is translated, and the issuer is next on the agenda (log 2). -/
noncomputable def State.withFetchWord (s : State) (nbits w : Nat) : State :=
  let v := w % 2 ^ nbits
  let i := probeIssuer v
  let ctx : Ctx := ⟨0, 1, 0, 0, 0⟩
  let pc := BitVec.ofNat 64 probePc
  let warps : KMap Warp := [(0, Warp.fresh 0 256 0xFFFFFFFF pc 0), (armNo, Warp.fresh 0 64 1 pc 0)]
  let p := s.pkg.writeMem probePc (bytesOfWord v)
  let p := { p with
    poison := p.poison.filter (· != probePc / 64)
    launches := KMap.insert 0 { Launch.fresh probeRecord 0 none none 0 0 ctx 0 with st := .resident, placed := 1 } p.launches }
  let e : TlbEntry := ⟨1, probePc / 4096, 4096, p.link.pkgid * 2 ^ 46 + probePc, false, false, false, true, true⟩
  let p := p.modCore 0 (fun k => { k with
    blocks := KMap.insert 0 (Block.fresh 0 0 0 0 0 0 0 1 ctx 0 65536 0 warps) k.blocks
    tlb := e :: k.tlb, bps := [] })
  let p := p.modDie 0 (fun d => { d with inReset := false })
  { s with pkg := p, agenda := .run i :: s.agenda }

end Sys2Proof.Machine
end

