-- ==== Sys2Proof/Safety.lean ====
section
/-!
DEFINITION. What counts as a safe run, the canonical form of memory, and the words in which claims speak of the
machine: what it takes for an instruction to be performed, and the state when it is over.
-/

namespace Sys2Proof.Machine

/-- A step of the state goes on. -/
def State.goes (s : State) : Prop := ∃ t, step s = .next t

/-- The canonical form of package memory: addresses strictly rising, and no byte listed that is 0x00. -/
def Memory.wf (m : KMap Byte) : Bool := m.canon 0

end Sys2Proof.Machine

namespace Sys2Proof.Claim

open Sys2Proof.Machine

/-! ## An instruction that is performed -/

/-- The lanes an instruction acts on: those of its split that its guard admits (07 R154). -/
def acts (w : Warp) (i : Issuer) (g : Guard) : Mask := (w.split i.sp).mask &&& w.guardMask g

/-- A handler warp does not run what 23 R427 forbids it. -/
def mayRun (allowed : Bool) : Option Block → Prop
  | some b => allowed = true ∨ ∀ o h, b.mode ≠ .handler o h
  | none => True

/-- Split `i.sp` of warp or armature `w` comes to an instruction of form `f`, or, with `z`, goes on with one that it
waited in, and the checks of 24 R433 that come before the form's own pass but for those of registers: some lane is
admitted, the operand codes and prefixes are legal, no register or predicate waits for a load, no pending trap is due before it
(23 R417), and the split is READY and not stepped by a debugger. -/
structure Comes (s : State) (i : Issuer) (w : Warp) (f : Form) (z : Option Wait) : Prop where
  cur : s.cur = some i
  here : s.pkg.warp? i.core i.slot i.w = some w
  lanes : acts w i f.guard ≠ 0
  legal : f.decodeFault (i.w == armNo) (w.split i.sp).pfx = none
  idle : ∀ l, (acts w i f.guard).getLsbD l = true → ∀ r ∈ f.regsOf w l, 32 * r + l ∉ w.busy
  preds : w.predsBusy (w.split i.sp).mask = false
  mode : mayRun (f.handler && !f.namesQ && !f.namesSq) (s.pkg.block? i.core i.slot)
  ready : (w.split i.sp).st = .ready
  waits : (w.split i.sp).wait = z
  noStep : (w.split i.sp).stepping = false
  noTrap : (w.split i.sp).pend = none ∨ f.ends (w.split i.sp).cstack.length = false ∨ w.onlyReady i.sp = false

/-- No lane of the warp is in an atomic region; lanes in one are the subject of other claims. -/
structure Offered (s : State) (i : Issuer) (w : Warp) (f : Form) (z : Option Wait) : Prop extends Comes s i w f z where
  noRegion : w.regions = []

/-- The registers of every admitted lane are legal too (step 7 of 24 R433). -/
structure Checked (s : State) (i : Issuer) (w : Warp) (f : Form) (z : Option Wait) : Prop extends Offered s i w f z where
  regs : ∀ l, (acts w i f.guard).getLsbD l = true → f.laneFault w l = none

/-- And no operand takes its word from a queue or from `sq`. -/
structure IssuesAt (s : State) (i : Issuer) (w : Warp) (f : Form) (z : Option Wait) : Prop extends Checked s i w f z where
  noQueue : f.namesQ = false
  noFeed : f.namesSq = false

/-- An instruction is issued. -/
abbrev Issues (s : State) (i : Issuer) (w : Warp) (f : Form) : Prop := IssuesAt s i w f none

/-- The address after the instruction's last word (07 R163). -/
def nextPc (w : Warp) (i : Issuer) : DWord :=
  (w.split i.sp).pc + BitVec.ofNat 64 (4 * ((w.split i.sp).pfx.words + 1))

/-- The `pfx.lit` value of the run, 0 without one (07 R160). -/
def litOf (w : Warp) (i : Issuer) : DWord := (w.split i.sp).pfx.lit.getD 0

/-- The `pfx.off` value of the run (07 R160). -/
def offOf (w : Warp) (i : Issuer) : DWord := (w.split i.sp).pfx.off.getD 0

/-- A 32-bit source of a lane: a register, directly or by an index register, zero, or the literal (07 R164-R167). -/
def src32 (w : Warp) (i : Issuer) (o : Operand) (l : Nat) : Word :=
  match o with
  | .reg n => w.rd n.val l
  | .ix _ => match w.regOf o l with | some r => w.rd r l | none => 0
  | .lit => (litOf w i).setWidth 32
  | .zero | .q _ | .sq => 0

/-- A 64-bit source of a lane: a pair of registers, zero or the literal (07 R165). -/
def src64 (w : Warp) (i : Issuer) (o : Operand) (l : Nat) : DWord :=
  match o with
  | .reg n => w.rd64 n.val l
  | .ix _ => match w.regOf o l with | some r => w.rd64 r l | none => 0
  | .lit => litOf w i
  | .zero | .q _ | .sq => 0

/-! ## What an instruction leaves -/

/-- The issuing warp is `v` in a package `p`, and its block has just issued an instruction (26 R478), which the others of
its port have yet to note (02 R57). -/
def leave (s : State) (p : Pkg) (i : Issuer) (v : Warp) : State :=
  { s with pkg := (p.modBlock i.core i.slot (fun b =>
      { b with lastIssue := p.ptime, stuck := none, warps := b.warps.modify i.w (fun _ => v) })).noteIssue i }

/-- The issuing warp is `v` in a package `p`; a split that goes on after a wait counts as no issue of its block. -/
def leaveWait (s : State) (p : Pkg) (i : Issuer) (v : Warp) : State :=
  { s with pkg := p.modWarp i.core i.slot i.w (fun _ => v) }

/-- The warp with the hint of the issuing split's prefix run applied, and the split changed (07 R161). -/
def hinted (i : Issuer) (v : Warp) (f : Split → Split) : Warp :=
  let h := (v.split i.sp).pfx.hint
  { v with
    pri := match h with | some x => if x.prv then x.pri else v.pri | none => v.pri
    splits := v.splits.modify i.sp (fun x =>
      if h.any PfxHint.yld then (f x).yield else f x) }

/-- The issuing split at an address, its prefix run used up and the run's hint applied (07 R161-R163). -/
def moved (i : Issuer) (now : DWord) (pc : DWord) (v : Warp) : Warp :=
  hinted i v (fun x => { x with pc := pc, pfx := Pfx.none, held := none, wait := none, noBreak := false, since := now, passed := 0 })

/-- The issuing split BLOCKED in a wait (02 R29). -/
def blocked (i : Issuer) (now : DWord) (z : Wait) (v : Warp) : Warp :=
  hinted i v (fun x => { x with st := .blocked, wait := some z, since := now, passed := 0 })

/-- The instruction is over: the package is `p` but for the issuing warp, which is `v` at the next word; nothing else
of the machine changed. -/
def done (s : State) (p : Pkg) (i : Issuer) (w v : Warp) : State :=
  leave s p i (moved i p.ptime (nextPc w i) v)

/-- The same after a wait. -/
def doneWait (s : State) (p : Pkg) (i : Issuer) (w v : Warp) : State :=
  leaveWait s p i (moved i p.ptime (nextPc w i) v)

/-- The instruction completes and leaves the package `p`, the issuing warp as it is there. -/
def Ends (k : Instr) (s : State) (i : Issuer) (w : Warp) (p : Pkg) : Prop :=
  ∃ v, p.warp? i.core i.slot i.w = some v ∧ exec k s = .next (done s p i w v)

/-- The same after a wait. -/
def EndsWait (k : Instr) (s : State) (i : Issuer) (w : Warp) (p : Pkg) : Prop :=
  ∃ v, p.warp? i.core i.slot i.w = some v ∧ exec k s = .next (doneWait s p i w v)

/-- The instruction waits: the package is `p`, the issuing split BLOCKED in `z` at its own address. -/
def Waits (k : Instr) (s : State) (i : Issuer) (p : Pkg) (z : Wait) : Prop :=
  ∃ v, p.warp? i.core i.slot i.w = some v ∧ exec k s = .next (leave s p i (blocked i p.ptime z v))

/-- The place of register `r` of lane `l` among the `n` registers that destination `d` names for the lanes `m`. -/
def place (w : Warp) (m : Mask) (d : Operand) (n : Nat) (l r : Nat) : Option Nat :=
  match w.regOf d l with
  | some b => if m.getLsbD l = true ∧ b ≤ r ∧ r < b + n then some (r - b) else none
  | none => none

/-- `v` is `w` with the `n` words of `val` written to destination `d` of every lane of `m`: no other register, and
nothing but registers and their poison marks, differs. A destination `zero` names no register. -/
structure Wrote (w v : Warp) (m : Mask) (d : Operand) (n : Nat) (val : Nat → Nat → Word) : Prop where
  regs : ∀ l < 32, ∀ r, v.rd r l = match place w m d n l r with
    | some k => val l k
    | none => w.rd r l
  poison : ∀ l < 32, ∀ r, 32 * r + l ∈ v.rpoison ↔ 32 * r + l ∈ w.rpoison ∧ place w m d n l r = none
  rest : v = { w with regs := v.regs, rpoison := v.rpoison }

/-- The two words of a 64-bit value, low word first (07 R165). -/
def two (v : Nat → DWord) (l k : Nat) : Word := if k = 0 then half (v l) 0 else half (v l) 1

/-- One word of a lane. -/
def one (v : Nat → Word) (l _k : Nat) : Word := v l

/-- The instruction writes `n` words per lane to `d`, goes on at the next word and changes nothing else. -/
def Writes (k : Instr) (s : State) (i : Issuer) (w : Warp) (g : Guard) (d : Operand) (n : Nat)
    (val : Nat → Nat → Word) : Prop :=
  ∃ v, Wrote w v (acts w i g) d n val ∧ exec k s = .next (done s s.pkg i w v)

end Sys2Proof.Claim
end

