-- ==== Sys2Proof/Certificates/Slice0/Obligations.lean ====
section
/-!
DEFINITION. The statements for the provers, one per `Obligations.<Name>`, with the rules that they are about written
in integers and natural numbers.
-/

/-! ## Integer instructions (08 R179-R182) -/

namespace Sys2Proof.Claim

open Sys2Proof.Machine

/-- The forms with three operands, two and one. -/
abbrev Form3 := Guard → Operand → Operand → Operand → Instr
/-- A form with a destination and one source. -/
abbrev Form2 := Guard → Operand → Operand → Instr

/-- Leading zeros of a number of n bits. -/
def clzRule (n v : Nat) : Nat := if v = 0 then n else n - 1 - Nat.log2 v

/-- Trailing zeros: the greatest k up to n for which 2^k divides the number. -/
def ctzRule (n v : Nat) : Nat := ((List.range (n + 1)).filter (fun k => v % 2 ^ k == 0)).length - 1

/-- The length of a bit field (R181). -/
def lenRule (b : Word) : Nat := min (b.toNat / 256 % 64) 32

/-- R179 and R181 on 32-bit operands, in integers and natural numbers. -/
def rules32 : List (Form3 × (Word → Word → Word)) := [
  (.addI32, fun x y => BitVec.ofInt 32 (x.toInt + y.toInt)),
  (.subI32, fun x y => BitVec.ofInt 32 (x.toInt - y.toInt)),
  (.mulI32, fun x y => BitVec.ofInt 32 (x.toInt * y.toInt)),
  (.mulhiI32, fun x y => BitVec.ofInt 32 (x.toInt * y.toInt / 2 ^ 32)),
  (.mulhiN32, fun x y => BitVec.ofNat 32 (x.toNat * y.toNat / 2 ^ 32)),
  (.minI32, fun x y => BitVec.ofInt 32 (min x.toInt y.toInt)),
  (.maxI32, fun x y => BitVec.ofInt 32 (max x.toInt y.toInt)),
  (.minN32, fun x y => BitVec.ofNat 32 (min x.toNat y.toNat)),
  (.maxN32, fun x y => BitVec.ofNat 32 (max x.toNat y.toNat)),
  (.and, fun x y => x &&& y),
  (.andn, fun x y => x &&& ~~~y),
  (.or, fun x y => x ||| y),
  (.xor, fun x y => x ^^^ y),
  (.shl, fun x y => BitVec.ofNat 32 (x.toNat * 2 ^ (y.toNat % 32))),
  (.shr, fun x y => BitVec.ofNat 32 (x.toNat / 2 ^ (y.toNat % 32))),
  (.sra, fun x y => BitVec.ofInt 32 (x.toInt / 2 ^ (y.toNat % 32))),
  (.rotl, fun x y => (x <<< (y.toNat % 32)) ||| (x >>> (32 - y.toNat % 32)))]

/-- R181, and R179 with the division rules of 03 R64. -/
def rulesField : List (Form3 × (Word → Word → Word)) := [
  (.bfeI32, fun x y => BitVec.ofInt 32 (
    let v : Int := x.toInt / 2 ^ (y.toNat % 32) % 2 ^ lenRule y
    if lenRule y ≠ 0 ∧ (2 : Int) ^ lenRule y ≤ 2 * v then v - 2 ^ lenRule y else v)),
  (.bfeN32, fun x y => BitVec.ofNat 32 (x.toNat / 2 ^ (y.toNat % 32) % 2 ^ lenRule y)),
  (.divI32, fun x y => if y = 0 then BitVec.ofNat 32 0xFFFFFFFF else BitVec.ofInt 32 (x.toInt.tdiv y.toInt)),
  (.divN32, fun x y => if y = 0 then BitVec.ofNat 32 0xFFFFFFFF else BitVec.ofNat 32 (x.toNat / y.toNat)),
  (.remI32, fun x y => if y = 0 then x else BitVec.ofInt 32 (x.toInt.tmod y.toInt)),
  (.remN32, fun x y => if y = 0 then x else BitVec.ofNat 32 (x.toNat % y.toNat))]

/-- R181 and R179: forms that read d before they write it. -/
def rulesUpdate : List (Form3 × (Word → Word → Word → Word)) := [
  (.madI32, fun d x y => BitVec.ofInt 32 (x.toInt * y.toInt + d.toInt)),
  (.bfi, fun d x y =>
    let m : Word := BitVec.ofNat 32 ((2 ^ lenRule y - 1) * 2 ^ (y.toNat % 32))
    (d &&& ~~~m) ||| (BitVec.ofNat 32 (x.toNat * 2 ^ (y.toNat % 32)) &&& m))]

/-- R179: a pair from two 32-bit operands. -/
def rulesWide : List (Form3 × (Word → Word → DWord)) := [
  (.mulwideI32, fun x y => BitVec.ofInt 64 (x.toInt * y.toInt)),
  (.mulwideN32, fun x y => BitVec.ofNat 64 (x.toNat * y.toNat))]

/-- R179 on pairs. -/
def rules64 : List (Form3 × (DWord → DWord → DWord)) := [
  (.addI64, fun x y => BitVec.ofInt 64 (x.toInt + y.toInt)),
  (.subI64, fun x y => BitVec.ofInt 64 (x.toInt - y.toInt))]

/-- R182 on 32-bit operands. -/
def rulesUnary : List (Form2 × (Word → Word)) := [
  (.mov, fun x => x),
  (.not, fun x => ~~~x),
  (.negI32, fun x => BitVec.ofInt 32 (-x.toInt)),
  (.absI32, fun x => BitVec.ofInt 32 |x.toInt|),
  (.popc, fun x => BitVec.ofNat 32 ((List.range 32).countP (fun i => x.getLsbD i))),
  (.clz, fun x => BitVec.ofNat 32 (clzRule 32 x.toNat)),
  (.ctz, fun x => BitVec.ofNat 32 (ctzRule 32 x.toNat)),
  (.brev, fun x => x.reverse),
  (.sext8, fun x => BitVec.ofInt 32 (BitVec.ofNat 8 x.toNat).toInt),
  (.sext16, fun x => BitVec.ofInt 32 (BitVec.ofNat 16 x.toNat).toInt),
  (.zext8, fun x => BitVec.ofNat 32 (x.toNat % 2 ^ 8)),
  (.zext16, fun x => BitVec.ofNat 32 (x.toNat % 2 ^ 16))]

/-- R182 on pairs. -/
def rulesUnary64 : List (Form2 × (DWord → DWord)) := [
  (.mov64, fun x => x),
  (.negI64, fun x => BitVec.ofInt 64 (-x.toInt))]

/-- R182: a count of a pair. -/
def rulesNarrow : List (Form2 × (DWord → Word)) := [
  (.popc64, fun x => BitVec.ofNat 32 ((List.range 64).countP (fun i => x.getLsbD i))),
  (.clz64, fun x => BitVec.ofNat 32 (clzRule 64 x.toNat))]

/-- R180: shifts by the amount n mod 32. -/
def rulesShift : List ((Guard → Operand → Operand → BitVec 6 → Instr) × (Word → Nat → Word)) := [
  (.shli, fun x n => BitVec.ofNat 32 (x.toNat * 2 ^ (n % 32))),
  (.shri, fun x n => BitVec.ofNat 32 (x.toNat / 2 ^ (n % 32))),
  (.srai, fun x n => BitVec.ofInt 32 (x.toInt / 2 ^ (n % 32))),
  (.rotli, fun x n => (x <<< (n % 32)) ||| (x >>> (32 - n % 32))),
  (.andi, fun x n => x &&& BitVec.ofNat 32 n),
  (.ori, fun x n => x ||| BitVec.ofNat 32 n),
  (.xori, fun x n => x ^^^ BitVec.ofNat 32 n)]

/-- A word with its fields: major, guard, d, a and the function code in [7:0] (07 R156, the U format). -/
def wordU (major : Nat) (g : Guard) (d a func : Nat) : Nat :=
  major * 2 ^ 25 + guardCode g * 2 ^ 22 + d * 2 ^ 15 + a * 2 ^ 8 + func

/-- The function codes of a major for forms that name d and a (08 R182, R187). -/
def HasCodes (major : Nat) (fs : List (Form2 × Nat)) : Prop :=
  ∀ e ∈ fs, ∀ g d a, encode (e.1 g d a) = some (wordU major g (operandCode d) (operandCode a) e.2)

/-- A 32-bit form of two sources, and what it may leave. -/
def Runs32 (k : Form3) (f : Word → Word → Word) : Prop :=
  ∀ s i w g d a b, Issues s i w (Form.wa g [(.dst .w32, d), (.src .w32, a), (.src .w32, b)]) →
    Writes (k g d a b) s i w g d 1 (one fun l => f (src32 w i a l) (src32 w i b l))

end Sys2Proof.Claim

open Sys2Proof Sys2Proof.Machine Sys2Proof.Claim

/-- 08 R179: each lane of `exec` writes d := a op b on 32-bit operands, wrapping; and, by the frame of `Writes`, no
other register, flag, predicate or byte of memory changes. -/
def Sys2Proof.Claim.IntegerThreeOperandRule : Prop := ∀ e ∈ rules32, Runs32 e.1 e.2

/-- 08 R181 and the divisions of R179 with the corners of 03 R64: division by zero and the most negative value
divided by −1 included. -/
def Sys2Proof.Claim.FieldAndDivisionRule : Prop := ∀ e ∈ rulesField, Runs32 e.1 e.2

/-- 08 R179, R181: `mad.i32` and `bfi` read d before they write it; `mulwide` writes the whole product to a pair;
`add.i64` and `sub.i64` act on pairs modulo 2^64. -/
def Sys2Proof.Claim.UpdateWideAndPairRule : Prop :=
  (∀ e ∈ rulesUpdate, ∀ s i w g d a b,
    Issues s i w (Form.wa g [(.upd .w32, d), (.src .w32, a), (.src .w32, b)]) →
    Writes (e.1 g d a b) s i w g d 1 (one fun l => e.2 (src32 w i d l) (src32 w i a l) (src32 w i b l))) ∧
  (∀ e ∈ rulesWide, ∀ s i w g d a b,
    Issues s i w (Form.wa g [(.dst .w64, d), (.src .w32, a), (.src .w32, b)]) →
    Writes (e.1 g d a b) s i w g d 2 (two fun l => e.2 (src32 w i a l) (src32 w i b l))) ∧
  (∀ e ∈ rules64, ∀ s i w g d a b,
    Issues s i w (Form.wa g [(.dst .w64, d), (.src .w64, a), (.src .w64, b)]) →
    Writes (e.1 g d a b) s i w g d 2 (two fun l => e.2 (src64 w i a l) (src64 w i b l)))

/-- 08 R180: the immediate forms, the shift amount taken mod 32 and imm[5:0] zero-extended; `addi.i32` and `movi`
sign-extend their immediates. -/
def Sys2Proof.Claim.IntegerImmediateRule : Prop :=
  (∀ e ∈ rulesShift, ∀ s i w g d a n, Issues s i w (Form.wa g [(.dst .w32, d), (.src .w32, a)]) →
    Writes (e.1 g d a n) s i w g d 1 (one fun l => e.2 (src32 w i a l) n.toNat)) ∧
  (∀ s i w g d a imm, Issues s i w (Form.wa g [(.dst .w32, d), (.src .w32, a)]) →
    Writes (.addiI32 g d a imm) s i w g d 1 (one fun l => BitVec.ofInt 32 ((src32 w i a l).toInt + imm.toInt))) ∧
  (∀ s i w g d imm, Issues s i w (Form.wa g [(.dst .w32, d)]) →
    Writes (.movi g d imm) s i w g d 1 (one fun _ => BitVec.ofInt 32 imm.toInt))

/-- The rules `IntegerThreeOperandRule`, `FieldAndDivisionRule`, `UpdateWideAndPairRule`, `IntegerImmediateRule` together.
-/
def Obligations.IntegerArithmetic : Prop :=
  IntegerThreeOperandRule ∧ FieldAndDivisionRule ∧ UpdateWideAndPairRule ∧ IntegerImmediateRule

/-- 08 R182: the functions of major 0x14, with their codes; a queue or `sq` as an operand is `QueueOperands`. -/
def Obligations.IntegerUnary : Prop :=
  (∀ e ∈ rulesUnary, ∀ s i w g d a, Issues s i w (Form.wa g [(.dst .w32, d), (.src .w32, a)]) →
    Writes (e.1 g d a) s i w g d 1 (one fun l => e.2 (src32 w i a l))) ∧
  (∀ e ∈ rulesUnary64, ∀ s i w g d a, Issues s i w (Form.wa g [(.dst .w64, d), (.src .w64, a)]) →
    Writes (e.1 g d a) s i w g d 2 (two fun l => e.2 (src64 w i a l))) ∧
  (∀ e ∈ rulesNarrow, ∀ s i w g d a, Issues s i w (Form.wa g [(.dst .w32, d), (.src .w64, a)]) →
    Writes (e.1 g d a) s i w g d 1 (one fun l => e.2 (src64 w i a l))) ∧
  HasCodes 0x14 [(.mov, 0x00), (.mov64, 0x01), (.not, 0x02), (.negI32, 0x03), (.absI32, 0x04), (.popc, 0x05), (.clz, 0x06),
    (.ctz, 0x07), (.brev, 0x08), (.sext8, 0x09), (.sext16, 0x0A), (.zext8, 0x0B), (.zext16, 0x0C), (.negI64, 0x0D),
    (.popc64, 0x0E), (.clz64, 0x0F)]

/-! ## Lane exchange and votes (08 R186-R187) -/

namespace Sys2Proof.Claim

open Sys2Proof.Machine

/-- R186: the source lane of each form, from the lane's number and its b. -/
def rulesExchange : List (Form3 × (Nat → Word → Int)) := [
  (.lxFrom, fun _ b => b.toNat % 32),
  (.lxMix, fun l b => l ^^^ (b.toNat % 32)),
  (.lxBack, fun l b => l - b.toInt),
  (.lxFwd, fun l b => l + b.toNat)]

/-- The lane that a source number names, when it lies in 0-31 and takes part. -/
def partner (m : Mask) (x : Int) : Option Nat := if 0 ≤ x ∧ x ≤ 31 ∧ m.getLsbD x.toNat = true then some x.toNat else none

/-- The least and the greatest of signed values, the first one's own for a single value. -/
def leastOf (xs : List Int) : Int := xs.foldl min (xs.headD 0)

/-- The greatest value. -/
def greatestOf (xs : List Int) : Int := xs.foldl max (xs.headD 0)

/-- R187: the result of lane `l` from the values of the lanes that take part. -/
def rulesVote : List (Form2 × (List (Nat × Word) → Nat → Word)) := [
  (.xlAll, fun vs _ => if ∀ v ∈ vs, v.2 ≠ 0 then 1 else 0),
  (.xlAny, fun vs _ => if ∃ v ∈ vs, v.2 ≠ 0 then 1 else 0),
  (.xlBits, fun vs _ => maskOf (fun j => vs.any (fun v => v.1 == j && v.2 != 0))),
  (.xlSame, fun vs _ => if ∀ v ∈ vs, ∀ u ∈ vs, v.2 = u.2 then 1 else 0),
  (.xlPeers, fun vs l => maskOf (fun j => vs.any (fun v => v.1 == j && vs.any (fun u => u.1 == l && u.2 == v.2)))),
  (.xlAddI32, fun vs _ => BitVec.ofNat 32 ((vs.map (fun v => v.2.toNat)).sum)),
  (.xlMinI32, fun vs _ => BitVec.ofInt 32 (leastOf (vs.map (fun v => v.2.toInt)))),
  (.xlMaxI32, fun vs _ => BitVec.ofInt 32 (greatestOf (vs.map (fun v => v.2.toInt)))),
  (.xlAnd, fun vs _ => (vs.map (fun v => v.2)).foldl (· &&& ·) 0xFFFFFFFF#32),
  (.xlOr, fun vs _ => (vs.map (fun v => v.2)).foldl (· ||| ·) 0#32),
  (.xlXor, fun vs _ => (vs.map (fun v => v.2)).foldl (· ^^^ ·) 0#32)]

end Sys2Proof.Claim

/-- 08 R186: lane l receives a of its source lane when that lies in 0-31 and takes part, else its own a; every a is read
before any d is written. That the sum of `lx.fwd` is not reduced modulo 2^32 is log 73. Choices of the model that it
rests on: log 73. -/
def Obligations.LaneExchange : Prop :=
  ∀ e ∈ rulesExchange, ∀ s i w g d a b,
    Issues s i w (Form.w g [(.dst .w32, d), (.src .w32, a), (.src .w32, b)]) →
    Writes (e.1 g d a b) s i w g d 1 (one fun l =>
      src32 w i a ((partner (acts w i g) (e.2 l (src32 w i b l))).getD l))

/-- 08 R187: the votes and reductions over the lanes that take part, and `xl.below`, with
the function codes of major 0x18. -/
def Obligations.VotesAndReductions : Prop :=
  (∀ e ∈ rulesVote, ∀ s i w g d a, Issues s i w (Form.w g [(.dst .w32, d), (.src .w32, a)]) →
    Writes (e.1 g d a) s i w g d 1
      (one fun l => e.2 ((lanesOf (acts w i g)).map (fun k => (k, src32 w i a k))) l)) ∧
  (∀ s i w g d, Issues s i w (Form.w g [(.dst .w32, d)]) →
    Writes (.xlBelow g d) s i w g d 1 (one fun l => BitVec.ofNat 32 (2 ^ l - 1))) ∧
  HasCodes 0x18 [(.xlAll, 0x00), (.xlAny, 0x01), (.xlBits, 0x02), (.xlSame, 0x03), (.xlPeers, 0x04), (.xlAddI32, 0x05),
    (.xlMinI32, 0x06), (.xlMaxI32, 0x07), (.xlAnd, 0x08), (.xlOr, 0x09), (.xlXor, 0x0A)] ∧
  ∀ g d, encode (.xlBelow g d) = some (wordU 0x18 g (operandCode d) 124 0x0B)

/-! ## Index registers, special registers and clocks (08 R183-R185, 12 R304-R305) -/

namespace Sys2Proof.Claim

open Sys2Proof.Machine

/-- `v` is `w` with index register `x` of the lanes of `m` set to `val`, the reserved bits [13:9] zero (R183). -/
structure WroteIx (w v : Warp) (m : Mask) (x : Nat) (val : Nat → Word) : Prop where
  ixs : ∀ l < 32, ∀ y, v.ix y l = if m.getLsbD l = true ∧ y = x then val l &&& 0xFFFFC1FF else w.ix y l
  rest : v = { w with xs := v.xs }

/-- The highest lane of a mask. -/
def topLane (m : Mask) : Nat := Nat.log2 m.toNat

/-- R173, R184: what `gets` delivers to lane `l`, in block `b` of launch `n`. -/
def getsRule (s : State) (i : Issuer) (w : Warp) (b : Block) (n : Launch) (l : Nat) : GetsSel → Word
  | .lane => BitVec.ofNat 32 l
  | .warp => if i.w = armNo then 0xFFFFFFFF else BitVec.ofNat 32 i.w
  | .split => BitVec.ofNat 32 i.sp
  | .blockX => BitVec.ofNat 32 b.bx
  | .blockY => BitVec.ofNat 32 b.by_
  | .blockZ => BitVec.ofNat 32 b.bz
  | .gridX => BitVec.ofNat 32 (recNat n.record 0x28 4)
  | .gridY => BitVec.ofNat 32 (recNat n.record 0x2C 2)
  | .gridZ => BitVec.ofNat 32 (recNat n.record 0x2E 2)
  | .cpos => BitVec.ofNat 32 b.cpos
  | .core => BitVec.ofNat 32 i.core
  | .die => BitVec.ofNat 32 (i.core / 96)
  | .depth => BitVec.ofNat 32 n.depth
  | .wver => w.wver
  | .fpflags => w.fpflags.setWidth 32
  | .clock => (s.pkg.die (i.core / 96)).cyc.setWidth 32
  | .fpmode => match w.fprm with | .rne => 0 | .rz => 1 | .ru => 2 | .rd => 3
  | .fptrap => w.fptrap.setWidth 32

/-- R185: the warp after `sets` of a value. -/
def setsRule (w : Warp) (x : SetsSel) (v : Word) : Warp :=
  match x with
  | .wver => { w with wver := v }
  | .fpmode => { w with fprm := match v.toNat % 4 with | 0 => .rne | 1 => .rz | 2 => .ru | _ => .rd }
  | .fpclear => { w with fpflags := w.fpflags &&& ~~~(v.setWidth 5) }
  | .fptrap => { w with fptrap := v.setWidth 5 }
  | .fpflags => { w with fpflags := v.setWidth 5 }

/-! ## Compares and predicates (08 R188-R190) -/

/-- R169 on integers; `any` and `none` test the bitwise AND. -/
def cmpRule {n : Nat} (signed : Bool) (c : Cmp) (a b : BitVec n) : Bool :=
  let x : Int := if signed then a.toInt else a.toNat
  let y : Int := if signed then b.toInt else b.toNat
  match c with
  | .eq => x == y
  | .ne => x != y
  | .lt => decide (x < y)
  | .le => decide (x ≤ y)
  | .gt => decide (y < x)
  | .ge => decide (y ≤ x)
  | .any => a &&& b != 0
  | .none => a &&& b == 0

/-- The number that a finite value is. -/
def ratOf : Fp → ℚ
  | .fin s m e => (if s then -1 else 1) * (m : ℚ) * (2 : ℚ) ^ e
  | _ => 0

/-- The order of values: −∞ below and +∞ above every number, a NaN in no order. -/
def ltRule : Fp → Fp → Bool
  | .nan _, _ => false
  | _, .nan _ => false
  | .inf s, .inf t => s && !t
  | .inf s, .fin _ _ _ => s
  | .fin _ _ _, .inf t => !t
  | a, b => decide (ratOf a < ratOf b)

/-- Equal values; −0 equals +0. -/
def eqRule : Fp → Fp → Bool
  | .nan _, _ => false
  | _, .nan _ => false
  | .inf s, .inf t => s == t
  | .inf _, .fin _ _ _ => false
  | .fin _ _ _, .inf _ => false
  | a, b => decide (ratOf a = ratOf b)

/-- R169 on floating values. -/
def floatCmpRule (c : Cmp) (a b : Fp) : Bool :=
  match c with
  | .eq => eqRule a b
  | .ne => !eqRule a b
  | .lt => ltRule a b
  | .le => ltRule a b || eqRule a b
  | .gt => ltRule b a
  | .ge => ltRule b a || eqRule a b
  | .any => a.isNan || b.isNan
  | .none => !(a.isNan || b.isNan)

/-- What a compare's destination makes of predicate `k`, given the answer (07 R157). -/
def cdstOf (p : CDst) (k : PReg) (r old : Bool) : Bool :=
  match p with
  | .discard => old
  | .one j => if k = j then r else old
  | .two j => if k.val = 2 * j.val then r else if k.val = 2 * j.val + 1 then !r else old

/-- `v` is `w` with predicate `k` of lane `l` of `m` set to `val k l`; lanes outside `m` keep theirs. -/
structure WrotePred (w v : Warp) (m : Mask) (val : PReg → Nat → Bool) : Prop where
  preds : ∀ k, ∀ l < 32, v.pred k l = if m.getLsbD l = true then val k l else w.pred k l
  rest : v = { w with preds := v.preds }

/-- A predicate field as it is read: code 7 is true (07 R157). -/
def pselRule (w : Warp) (x : PSel) (l : Nat) : Bool := match x with | .p n => w.pred n l | .pt => true

/-- R189: the functions of two predicates. -/
def rulesPred2 : List ((Guard → PSel → PSel → PSel → Instr) × (Bool → Bool → Bool)) := [
  (.pand, fun x y => x && y), (.por, fun x y => x || y), (.pxor, fun x y => x != y),
  (.pandn, fun x y => x && !y), (.porn, fun x y => x || !y)]

/-- R189: the functions of one predicate. -/
def rulesPred1 : List ((Guard → PSel → PSel → Instr) × (Bool → Bool)) := [
  (.pnot, fun x => !x), (.pmov, fun x => x)]

/-- R189: the constants. -/
def rulesPred0 : List ((Guard → PSel → Instr) × Bool) := [(.pset, true), (.pclr, false)]

/-- What a predicate destination makes of predicate `k`: code 7 discards the result. -/
def pdstOf (p : PSel) (k : PReg) (r old : Bool) : Bool :=
  match p with | .p j => if k = j then r else old | .pt => old

/-- An instruction that sets predicates, goes on at the next word and changes nothing else. -/
def WritesPred (k : Instr) (s : State) (i : Issuer) (w : Warp) (g : Guard) (val : PReg → Nat → Bool) : Prop :=
  ∃ v, WrotePred w v (acts w i g) val ∧ exec k s = .next (done s s.pkg i w v)

end Sys2Proof.Claim

/-- 08 R183: `ixset` ignores the reserved bits, `ixadd` moves OFF modulo 512 and leaves BASE and LIMIT, `ixget` reads
the register with the reserved bits zero; nothing else changes. -/
def Obligations.IndexRegisters : Prop :=
  (∀ s i w g a x, Issues s i w (Form.w g [(.src .w32, a)]) →
    ∃ v, WroteIx w v (acts w i g) x.val (fun l => src32 w i a l) ∧
      exec (.ixset g a x) s = .next (done s s.pkg i w v)) ∧
  (∀ s i w g a x, Issues s i w (Form.w g [(.src .w32, a)]) →
    ∃ v, WroteIx w v (acts w i g) x.val (fun l =>
        BitVec.ofNat 32 ((w.ix x.val l).toNat / 512 * 512 +
          ((((w.ix x.val l).toNat : Int) + (src32 w i a l).toInt) % 512).toNat)) ∧
      exec (.ixadd g a x) s = .next (done s s.pkg i w v)) ∧
  (∀ s i w g d x, Issues s i w (Form.w g [(.dst .w32, d)]) →
    Writes (.ixget g d x) s i w g d 1 (one fun l => w.ix x.val l &&& 0xFFFFC1FF)) ∧
  (∀ g o (x : Fin 4), encode (.ixset g o x) = some (wordU 0x19 g 124 (operandCode o) (0x00 + x.val)) ∧
    encode (.ixadd g o x) = some (wordU 0x19 g 124 (operandCode o) (0x04 + x.val)) ∧
    encode (.ixget g o x) = some (wordU 0x19 g (operandCode o) 124 (0x08 + x.val)))

/-- 08 R184-R185, 12 R304-R305: `gets`, `clk`, `ptime` and `ver.get` read, and `sets` and `ver.set` write, the words of
the warp; `sets` takes the value of the highest lane of `exec`. On the armature `gets` of lane, split, fpflags, fpmode
and fptrap, and `sets` of anything but wver, are excluded by 07 R173: `TrapInstructions` states their cause. -/
def Sys2Proof.Claim.SpecialRegistersRule : Prop :=
  (∀ s i w b n g d x, Issues s i w (Form.wa g [(.dst .w32, d)]) →
    s.pkg.block? i.core i.slot = some b → s.pkg.launch? b.launch = some n →
    (i.w ≠ armNo ∨ x ∉ [GetsSel.lane, .split, .fpflags, .fpmode, .fptrap]) →
    Writes (.gets g d x) s i w g d 1 (one fun l => getsRule s i w b n l x)) ∧
  (∀ s i w g a x, Issues s i w (Form.wa g [(.src .w32, a)]) → (i.w ≠ armNo ∨ x = .wver) →
    exec (.sets g a x) s = .next (done s s.pkg i w (setsRule w x (src32 w i a (topLane (acts w i g)))))) ∧
  (∀ s i w g d, Issues s i w (Form.wa g [(.dst .w64, d)]) →
    Writes (.clk g d) s i w g d 2 (two fun _ => (s.pkg.die (i.core / 96)).cyc) ∧
    Writes (.ptime g d) s i w g d 2 (two fun _ => s.pkg.ptime)) ∧
  (∀ s i w g a, Issues s i w { Form.wa g [(.src .w32, a)] with once := true } →
    exec (.verSet g a) s = .next (done s s.pkg i w { w with wver := src32 w i a (topLane (acts w i g)) })) ∧
  (∀ s i w g d, Issues s i w { Form.wa g [(.dst .w32, d)] with once := true } →
    Writes (.verGet g d) s i w g d 1 (one fun _ => w.wver))

/-- 08 R188, 07 R169: an integer compare sets its predicates of the lanes of `exec`, the second of a pair to the
opposite; other lanes and predicates keep their values and no flag changes. -/
def Sys2Proof.Claim.IntegerComparesRule : Prop :=
  (∀ s i w g p c a b, Issues s i w (Form.wa g [(.src .w32, a), (.src .w32, b)]) →
    WritesPred (.setpI32 g p c a b) s i w g
      (fun k l => cdstOf p k (cmpRule true c (src32 w i a l) (src32 w i b l)) (w.pred k l)) ∧
    WritesPred (.setpN32 g p c a b) s i w g
      (fun k l => cdstOf p k (cmpRule false c (src32 w i a l) (src32 w i b l)) (w.pred k l))) ∧
  (∀ s i w g p c a b, Issues s i w (Form.wa g [(.src .w64, a), (.src .w64, b)]) →
    WritesPred (.setpI64 g p c a b) s i w g
      (fun k l => cdstOf p k (cmpRule true c (src64 w i a l) (src64 w i b l)) (w.pred k l)) ∧
    WritesPred (.setpN64 g p c a b) s i w g
      (fun k l => cdstOf p k (cmpRule false c (src64 w i a l) (src64 w i b l)) (w.pred k l)))

/-- 08 R188, 03 R71: a floating compare, where no signalling NaN raises a flag that FPTRAP enables: the predicates as
for integers, a NaN unordered, and NV raised for a signalling NaN of any lane. -/
def Sys2Proof.Claim.FloatComparesRule : Prop :=
  ∀ x ∈ [(Instr.setpF64, f64, OpW.w64), (Instr.setpF32, f32, OpW.w32)], ∀ s i w g p c a b,
    Issues s i w (Form.w g [(.src x.2.2, a), (.src x.2.2, b)]) →
    let num (o : Operand) (l : Nat) : Fp := x.2.1.decode (match x.2.2 with
      | .w32 => (src32 w i o l).toNat
      | _ => (src64 w i o l).toNat)
    let nv (l : Nat) : Bool := (num a l).isSnan || (num b l).isSnan
    (w.fptrap.getLsbD 4 = false ∨ ∀ l ∈ lanesOf (acts w i g), nv l = false) →
    ∃ v, WrotePred w v (acts w i g) (fun k l => cdstOf p k (floatCmpRule c (num a l) (num b l)) (w.pred k l)) ∧
      exec (x.1 g p c a b) s = .next (done s s.pkg i w
        { v with fpflags := if ∃ l ∈ lanesOf (acts w i g), nv l = true then w.fpflags ||| 16 else w.fpflags })

/-- The rules `IntegerComparesRule`, `FloatComparesRule` together. -/
def Obligations.Compares : Prop :=
  IntegerComparesRule ∧ FloatComparesRule

/-- 08 R189-R190: predicate logic, and predicates read and written as words. -/
def Sys2Proof.Claim.PredicateLogicRule : Prop :=
  (∀ e ∈ rulesPred2, ∀ s i w g p x y, Issues s i w (Form.wa g []) →
    WritesPred (e.1 g p x y) s i w g (fun k l => pdstOf p k (e.2 (pselRule w x l) (pselRule w y l)) (w.pred k l))) ∧
  (∀ e ∈ rulesPred1, ∀ s i w g p x, Issues s i w (Form.wa g []) →
    WritesPred (e.1 g p x) s i w g (fun k l => pdstOf p k (e.2 (pselRule w x l)) (w.pred k l))) ∧
  (∀ e ∈ rulesPred0, ∀ s i w g p, Issues s i w (Form.wa g []) →
    WritesPred (e.1 g p) s i w g (fun k l => pdstOf p k e.2 (w.pred k l))) ∧
  (∀ s i w g d, Issues s i w (Form.wa g [(.dst .w32, d)]) →
    Writes (.p2v g d) s i w g d 1 (one fun l =>
      BitVec.ofNat 32 ((List.finRange 7).map (fun k => if w.pred k l then 2 ^ k.val else 0)).sum)) ∧
  (∀ s i w g a, Issues s i w (Form.wa g [(.src .w32, a)]) →
    WritesPred (.v2p g a) s i w g (fun k l => (src32 w i a l).getLsbD k.val)) ∧
  (∀ s i w g d k, Issues s i w (Form.wa g [(.dst .w32, d)]) →
    Writes (.pmask g d k) s i w g d 1 (one fun _ => maskOf (fun j => (acts w i g).getLsbD j && w.pred k j)))

/-- The rules `SpecialRegistersRule`, `PredicateLogicRule` together. -/
def Obligations.SpecialRegistersAndPredicates : Prop :=
  SpecialRegistersRule ∧ PredicateLogicRule

/-! ## Floating instructions (09 R206-R230, 03 R59-R79) -/

namespace Sys2Proof.Claim

open Sys2Proof.Machine

/-- The effective rounding mode: the prefix's, else FPMODE (03 R68). -/
def modeOf (w : Warp) (i : Issuer) : RM :=
  match (w.split i.sp).pfx.md with | some m => m.rm.getD w.fprm | none => w.fprm

/-- The saturation control of the prefix (03 R77). -/
def satOf (w : Warp) (i : Issuer) : Bool := match (w.split i.sp).pfx.md with | some m => m.sat | none => false

/-- A source's bits. -/
def bitsOf (w : Warp) (i : Issuer) (k : OpW) (o : Operand) (l : Nat) : Nat :=
  match k with | .w32 => (src32 w i o l).toNat | _ => (src64 w i o l).toNat

/-- The words of a result of 32 or 64 bits. -/
def wordOf (v : Nat → Nat) (l k : Nat) : Word := BitVec.ofNat 32 (v l / 2 ^ (32 * k))

/-- The flags that the lanes of a mask raise together (03 R70). -/
def flagsOf (m : Mask) (fl : Nat → FFlags) : FFlags := (lanesOf m).foldl (fun x l => x ||| fl l) 0

/-- A floating instruction of which no lane raises a flag that FPTRAP enables: d is written, the flags of all lanes
are added to FPFLAGS, and nothing else changes. -/
def WritesFloat (k : Instr) (s : State) (i : Issuer) (w : Warp) (g : Guard) (d : Operand) (n : Nat)
    (val : Nat → Nat × FFlags) : Prop :=
  flagsOf (acts w i g) (fun l => (val l).2) &&& w.fptrap = 0 →
    ∃ v, Wrote w v (acts w i g) d n (wordOf fun l => (val l).1) ∧
      exec k s = .next (done s s.pkg i w
        { v with fpflags := w.fpflags ||| flagsOf (acts w i g) (fun l => (val l).2) })

/-- 09 R209-R213: two operands of one format. The last component says that the form rounds in the effective mode. -/
def rulesFloat2 : List (Form3 × Fmt × OpW × Bool × (RM → Fp → Fp → Nat × FFlags)) := [
  (.addF64, f64, .w64, true, fun m x y => f64.add m x y),
  (.subF64, f64, .w64, true, fun m x y => f64.add m x y.flip),
  (.mulF64, f64, .w64, true, fun m x y => f64.mul m x y),
  (.divF64, f64, .w64, true, fun m x y => f64.div m x y),
  (.addF32, f32, .w32, true, fun m x y => f32.add m x y),
  (.subF32, f32, .w32, true, fun m x y => f32.add m x y.flip),
  (.mulF32, f32, .w32, true, fun m x y => f32.mul m x y),
  (.divF32, f32, .w32, true, fun m x y => f32.div m x y)]

/-- 03 R75: minimumNumber and maximumNumber, in the order of the numbers with −0 below +0; a NaN gives the other
operand, two NaNs the canonical one. -/
def minmaxRule (t : Fmt) (isMax : Bool) (x y : Nat) : Nat × FFlags :=
  let a := t.decode x
  let b := t.decode y
  let low := ltRule a b || (eqRule a b && a.neg)
  let nv : FFlags := if a.isSnan || b.isSnan then flagNV else 0
  if a.isNan && b.isNan then (t.nanBits, nv)
  else if a.isNan then (y, nv)
  else if b.isNan then (x, nv)
  else (if low = isMax then y else x, 0)

/-- The forms of 03 R75. -/
def rulesMinMax : List (Form3 × Fmt × OpW × Bool) := [
  (.minF64, f64, .w64, false), (.maxF64, f64, .w64, true), (.minF32, f32, .w32, false), (.maxF32, f32, .w32, true)]

/-- 09 R210: a × b + d rounded once; the Booleans invert the signs of a and of d. -/
def rulesFused : List (Form3 × Fmt × OpW × Bool × Bool) := [
  (.fmaF64, f64, .w64, false, false), (.fmsF64, f64, .w64, false, true), (.fnmaF64, f64, .w64, true, false),
  (.fmaF32, f32, .w32, false, false)]

/-- A value with its sign inverted when asked. -/
def flipIf (b : Bool) (x : Fp) : Fp := if b then x.flip else x

/-- Element `j` of a packed operand whose elements have the width of a format (03 R67). -/
def elemOf (t : Fmt) (n j v : Nat) : Fp := t.decode (v / 2 ^ (n * j) % 2 ^ n)

/-- Two elements side by side, the flags of both (09 R207). -/
def packRule (n : Nat) (f : Nat → Nat × FFlags) : Nat × FFlags :=
  ((f 0).1 + (f 1).1 * 2 ^ n, (f 0).2 ||| (f 1).2)

/-- 09 R214-R215: packed pairs of two operands. -/
def rulesPacked2 : List (Form3 × Fmt × OpW × (RM → Fp → Fp → Nat × FFlags)) := [
  (.addF32x2, f32, .w64, fun m x y => f32.add m x y), (.mulF32x2, f32, .w64, fun m x y => f32.mul m x y),
  (.addF16x2, f16, .w32, fun m x y => f16.add m x y), (.mulF16x2, f16, .w32, fun m x y => f16.mul m x y),
  (.addBf16x2, bf16, .w32, fun m x y => bf16.add m x y), (.mulBf16x2, bf16, .w32, fun m x y => bf16.mul m x y)]

/-- 09 R214-R215: packed fused pairs. -/
def rulesPacked3 : List (Form3 × Fmt × OpW × Bool) := [
  (.fmaF32x2, f32, .w64, false), (.fnmaF32x2, f32, .w64, true), (.fmaF16x2, f16, .w32, false),
  (.fmaBf16x2, bf16, .w32, false)]

/-- 09 R216-R220, 03 R76: one operand. -/
def rulesFloat1 : List (Form2 × OpW × OpW × Bool × (RM → Nat → Nat × FFlags)) := [
  (.negF64, .w64, .w64, false, fun _ x => (x ^^^ 2 ^ 63, 0)),
  (.absF64, .w64, .w64, false, fun _ x => (x % 2 ^ 63, 0)),
  (.sqrtF64, .w64, .w64, true, fun m x => f64.sqrt m (f64.decode x)),
  (.rcpF64, .w64, .w64, true, fun m x => f64.div m (.fin false 1 0) (f64.decode x)),
  (.floorF64, .w64, .w64, false, fun _ x => f64.toIntegral .rd false x),
  (.ceilF64, .w64, .w64, false, fun _ x => f64.toIntegral .ru false x),
  (.truncF64, .w64, .w64, false, fun _ x => f64.toIntegral .rz false x),
  (.rintF64, .w64, .w64, true, fun m x => f64.toIntegral m true x),
  (.classF64, .w32, .w64, false, fun _ x => (f64.classMask x, 0)),
  (.getexpF64, .w64, .w64, false, fun _ x => f64.getexp x),
  (.getmantF64, .w64, .w64, false, fun _ x => f64.getmant x),
  (.negF32, .w32, .w32, false, fun _ x => (x ^^^ 2 ^ 31, 0)),
  (.absF32, .w32, .w32, false, fun _ x => (x % 2 ^ 31, 0)),
  (.sqrtF32, .w32, .w32, true, fun m x => f32.sqrt m (f32.decode x)),
  (.rcpF32, .w32, .w32, true, fun m x => f32.div m (.fin false 1 0) (f32.decode x)),
  (.floorF32, .w32, .w32, false, fun _ x => f32.toIntegral .rd false x),
  (.ceilF32, .w32, .w32, false, fun _ x => f32.toIntegral .ru false x),
  (.truncF32, .w32, .w32, false, fun _ x => f32.toIntegral .rz false x),
  (.rintF32, .w32, .w32, true, fun m x => f32.toIntegral m true x),
  (.classF32, .w32, .w32, false, fun _ x => (f32.classMask x, 0))]

/-- 09 R221-R223: the estimates; where no rule fixes the value it is a free value inside the stated bound (log 7). -/
def rulesEstimate : List (Form2 × OpW × (Nat → Nat × FFlags)) := [
  (.rsqEstF64, .w64, fun x => f64.rsqEst 0 x), (.rsqEstF32, .w32, fun x => f32.rsqEst 1 x),
  (.exp2EstF32, .w32, exp2Est), (.log2EstF32, .w32, log2Est), (.sinEstF32, .w32, trigEst false),
  (.cosEstF32, .w32, trigEst true), (.tanhEstF32, .w32, tanhEst)]

/-- A signed reading of the low n bits. -/
def signedRule (n v : Nat) : Int := if v % 2 ^ n < 2 ^ (n - 1) then v % 2 ^ n else (v % 2 ^ n : Int) - 2 ^ n

/-- The low n bits of an integer result, with its flags. -/
def lowBits (n : Nat) (r : Int × FFlags) : Nat × FFlags := ((r.1 % 2 ^ n).toNat, r.2)

/-- 09 R224, 03 R77-R79: conversions; the two Booleans say that the form takes a rounding mode and a saturation
control from a prefix. -/
def rulesConvert : List (Form2 × OpW × OpW × Bool × Bool × (RM → Bool → Nat → Nat × FFlags)) := [
  (.cvtF64I32, .w64, .w32, false, false, fun _ _ x => f64.ofInt .rne (signedRule 32 x)),
  (.cvtF64N32, .w64, .w32, false, false, fun _ _ x => f64.ofInt .rne x),
  (.cvtF64I64, .w64, .w64, true, false, fun m _ x => f64.ofInt m (signedRule 64 x)),
  (.cvtI32F64, .w32, .w64, true, false, fun m _ x => lowBits 32 (toInteger m (-2 ^ 31) (2 ^ 31 - 1) (f64.decode x))),
  (.cvtN32F64, .w32, .w64, true, false, fun m _ x => lowBits 32 (toInteger m 0 (2 ^ 32 - 1) (f64.decode x))),
  (.cvtI64F64, .w64, .w64, true, false, fun m _ x => lowBits 64 (toInteger m (-2 ^ 63) (2 ^ 63 - 1) (f64.decode x))),
  (.cvtF32I32, .w32, .w32, true, false, fun m _ x => f32.ofInt m (signedRule 32 x)),
  (.cvtI32F32, .w32, .w32, true, false, fun m _ x => lowBits 32 (toInteger m (-2 ^ 31) (2 ^ 31 - 1) (f32.decode x))),
  (.cvtF32F64, .w32, .w64, true, false, fun m _ x => f32.convert .ieee m (f64.decode x)),
  (.cvtF64F32, .w64, .w32, false, false, fun _ _ x => f64.convert .ieee .rne (f32.decode x)),
  (.cvtF16F32, .w32, .w32, true, true, fun m s x => f16.convert (if s then .sat else .ieee) m (f32.decode x)),
  (.cvtF32F16, .w32, .w32, false, false, fun _ _ x => f32.convert .ieee .rne (f16.decode (x % 2 ^ 16))),
  (.cvtBf16F32, .w32, .w32, true, true, fun m s x => bf16.convert (if s then .sat else .ieee) m (f32.decode x)),
  (.cvtF32Bf16, .w32, .w32, false, false, fun _ _ x => f32.convert .ieee .rne (bf16.decode (x % 2 ^ 16)))]

/-- 09 R225-R226: dot products over n elements of a format in fields of the width given, added to d. -/
def rulesDot : List (Form3 × Fmt × Nat × Nat) := [
  (.dot4E4m3, e4m3, 8, 4), (.dot4E5m2, e5m2, 8, 4), (.dot4E3m2, e3m2, 6, 4), (.dot8E2m1, e2m1, 4, 8),
  (.dot2F16, f16, 16, 2), (.dot2Bf16, bf16, 16, 2)]

/-- 09 R227: integer dot products. -/
def rulesDotInt : List (Form3 × Nat × Nat) := [(.dot4I8, 8, 4), (.dot8I4, 4, 8)]

/-- 09 R228-R229: packing to a floating format; what an overflow delivers without and with SAT (03 R77). -/
def rulesPack : List (Form3 × Fmt × Nat × Over × Over) := [
  (.pk2E4m3, e4m3, 8, .sat, .nan), (.pk2E5m2, e5m2, 8, .ieee, .sat), (.pk2E2m1, e2m1, 4, .sat, .sat),
  (.pk2E3m2, e3m2, 6, .sat, .sat)]

/-- 09 R228-R229: packing to integers. -/
def rulesPackInt : List (Form3 × Nat) := [(.pk2I4, 4), (.pk2I8, 8)]

/-- 09 R230: a floating element as FP32, exactly. -/
def unpackRule (t : Fmt) (n e x : Nat) : Nat × FFlags := f32.convert .ieee .rne (elemOf t n e x)

/-- 09 R230: an integer element as FP32. -/
def unpackInt (n e x : Nat) : Nat × FFlags := f32.ofInt .rne (signedRule n (x / 2 ^ (n * e)))

end Sys2Proof.Claim

/-- 09 R209-R215, 03 R68-R75: the arithmetic of FP64, FP32 and of packed pairs, fused forms rounded once. -/
def Sys2Proof.Claim.FloatArithmeticRule : Prop :=
  (∀ e ∈ rulesFloat2, ∀ s i w g d a b,
    Issues s i w { Form.w g [(.dst e.2.2.1, d), (.src e.2.2.1, a), (.src e.2.2.1, b)] with rm := e.2.2.2.1 } →
    WritesFloat (e.1 g d a b) s i w g d e.2.2.1.regs (fun l => e.2.2.2.2 (modeOf w i)
      (e.2.1.decode (bitsOf w i e.2.2.1 a l)) (e.2.1.decode (bitsOf w i e.2.2.1 b l)))) ∧
  (∀ e ∈ rulesMinMax, ∀ s i w g d a b,
    Issues s i w (Form.w g [(.dst e.2.2.1, d), (.src e.2.2.1, a), (.src e.2.2.1, b)]) →
    WritesFloat (e.1 g d a b) s i w g d e.2.2.1.regs (fun l =>
      minmaxRule e.2.1 e.2.2.2 (bitsOf w i e.2.2.1 a l) (bitsOf w i e.2.2.1 b l))) ∧
  (∀ e ∈ rulesFused, ∀ s i w g d a b,
    Issues s i w { Form.w g [(.upd e.2.2.1, d), (.src e.2.2.1, a), (.src e.2.2.1, b)] with rm := true } →
    WritesFloat (e.1 g d a b) s i w g d e.2.2.1.regs (fun l => e.2.1.fma (modeOf w i)
      (flipIf e.2.2.2.1 (e.2.1.decode (bitsOf w i e.2.2.1 a l))) (e.2.1.decode (bitsOf w i e.2.2.1 b l))
      (flipIf e.2.2.2.2 (e.2.1.decode (bitsOf w i e.2.2.1 d l))))) ∧
  (∀ e ∈ [(Instr.scaleF64, f64, OpW.w64), (Instr.scaleF32, f32, OpW.w32)], ∀ s i w g d a b,
    Issues s i w { Form.w g [(.dst e.2.2, d), (.src e.2.2, a), (.src .w32, b)] with rm := true } →
    WritesFloat (e.1 g d a b) s i w g d e.2.2.regs (fun l => e.2.1.scale (modeOf w i)
      (e.2.1.decode (bitsOf w i e.2.2 a l)) (src32 w i b l).toInt)) ∧
  (∀ e ∈ rulesPacked2, ∀ s i w g d a b,
    Issues s i w { Form.w g [(.dst e.2.2.1, d), (.src e.2.2.1, a), (.src e.2.2.1, b)] with rm := true } →
    WritesFloat (e.1 g d a b) s i w g d e.2.2.1.regs (fun l => packRule e.2.1.width (fun j =>
      e.2.2.2 (modeOf w i) (elemOf e.2.1 e.2.1.width j (bitsOf w i e.2.2.1 a l))
        (elemOf e.2.1 e.2.1.width j (bitsOf w i e.2.2.1 b l))))) ∧
  (∀ e ∈ rulesPacked3, ∀ s i w g d a b,
    Issues s i w { Form.w g [(.upd e.2.2.1, d), (.src e.2.2.1, a), (.src e.2.2.1, b)] with rm := true } →
    WritesFloat (e.1 g d a b) s i w g d e.2.2.1.regs (fun l => packRule e.2.1.width (fun j =>
      e.2.1.fma (modeOf w i) (flipIf e.2.2.2 (elemOf e.2.1 e.2.1.width j (bitsOf w i e.2.2.1 a l)))
        (elemOf e.2.1 e.2.1.width j (bitsOf w i e.2.2.1 b l)) (elemOf e.2.1 e.2.1.width j (bitsOf w i e.2.2.1 d l)))))

/-- 09 R216-R223, 03 R76: roots, reciprocals, roundings to integers, classes, exponents, mantissas, sign operations and
the estimates, whose open values are free (log 7). -/
def Sys2Proof.Claim.FloatFunctionsRule : Prop :=
  (∀ e ∈ rulesFloat1, ∀ s i w g d a,
    Issues s i w { Form.w g [(.dst e.2.1, d), (.src e.2.2.1, a)] with rm := e.2.2.2.1 } →
    WritesFloat (e.1 g d a) s i w g d e.2.1.regs (fun l => e.2.2.2.2 (modeOf w i) (bitsOf w i e.2.2.1 a l))) ∧
  (∀ e ∈ rulesEstimate, ∀ s i w g d a, Issues s i w (Form.w g [(.dst e.2.1, d), (.src e.2.1, a)]) →
    WritesFloat (e.1 g d a) s i w g d e.2.1.regs (fun l => e.2.2 (bitsOf w i e.2.1 a l)))

/-- The rules `FloatArithmeticRule`, `FloatFunctionsRule` together. Choices of the model that it rests on: log 7. -/
def Obligations.FloatingArithmetic : Prop :=
  FloatArithmeticRule ∧ FloatFunctionsRule

/-- 09 R224, 03 R77-R79: the conversions. -/
def Sys2Proof.Claim.ConversionsRule : Prop :=
  ∀ e ∈ rulesConvert, ∀ s i w g d a,
    Issues s i w { Form.w g [(.dst e.2.1, d), (.src e.2.2.1, a)] with rm := e.2.2.2.1, sat := e.2.2.2.2.1 } →
    WritesFloat (e.1 g d a) s i w g d e.2.1.regs (fun l =>
      e.2.2.2.2.2 (modeOf w i) (satOf w i) (bitsOf w i e.2.2.1 a l))

/-- 09 R225-R230: dot products, packing and unpacking of narrow elements. -/
def Sys2Proof.Claim.NarrowElementsRule : Prop :=
  (∀ e ∈ rulesDot, ∀ s i w g d a b,
    Issues s i w { Form.w g [(.upd .w32, d), (.src .w32, a), (.src .w32, b)] with rm := true } →
    WritesFloat (e.1 g d a b) s i w g d 1 (fun l => f32.dot (modeOf w i) (f32.decode (bitsOf w i .w32 d l))
      ((List.range e.2.2.2).map fun j =>
        (elemOf e.2.1 e.2.2.1 j (bitsOf w i .w32 a l), elemOf e.2.1 e.2.2.1 j (bitsOf w i .w32 b l))))) ∧
  (∀ e ∈ rulesDotInt, ∀ s i w g d a b,
    Issues s i w (Form.w g [(.upd .w32, d), (.src .w32, a), (.src .w32, b)]) →
    Writes (e.1 g d a b) s i w g d 1 (one fun l => BitVec.ofInt 32 ((src32 w i d l).toInt +
      ((List.range e.2.2).map fun j => signedRule e.2.1 ((src32 w i a l).toNat / 2 ^ (e.2.1 * j)) *
        signedRule e.2.1 ((src32 w i b l).toNat / 2 ^ (e.2.1 * j))).sum))) ∧
  (∀ e ∈ rulesPack, ∀ s i w g d a b,
    Issues s i w { Form.w g [(.dst .w32, d), (.src .w32, a), (.src .w32, b)] with rm := true, sat := true } →
    WritesFloat (e.1 g d a b) s i w g d 1 (fun l => packRule e.2.2.1 (fun j =>
      e.2.1.convert (if satOf w i then e.2.2.2.2 else e.2.2.2.1) (modeOf w i)
        (f32.decode (bitsOf w i .w32 (if j = 0 then a else b) l))))) ∧
  (∀ e ∈ rulesPackInt, ∀ s i w g d a b,
    Issues s i w { Form.w g [(.dst .w32, d), (.src .w32, a), (.src .w32, b)] with rm := true } →
    WritesFloat (e.1 g d a b) s i w g d 1 (fun l => packRule e.2 (fun j =>
      lowBits e.2 (toInteger (modeOf w i) (-2 ^ (e.2 - 1)) (2 ^ (e.2 - 1) - 1)
        (f32.decode (bitsOf w i .w32 (if j = 0 then a else b) l)))))) ∧
  (∀ s i w g d a, Issues s i w (Form.w g [(.dst .w32, d), (.src .w32, a)]) →
    (∀ e : Fin 4,
      WritesFloat (.upkE4m3 g d a e) s i w g d 1 (fun l => unpackRule e4m3 8 e.val (bitsOf w i .w32 a l)) ∧
      WritesFloat (.upkE5m2 g d a e) s i w g d 1 (fun l => unpackRule e5m2 8 e.val (bitsOf w i .w32 a l)) ∧
      WritesFloat (.upkE3m2 g d a e) s i w g d 1 (fun l => unpackRule e3m2 6 e.val (bitsOf w i .w32 a l)) ∧
      WritesFloat (.upkI8 g d a e) s i w g d 1 (fun l => unpackInt 8 e.val (bitsOf w i .w32 a l)) ∧
      WritesFloat (.upkK8 g d a e) s i w g d 1 (fun l =>
        f32.convert .ieee .rne (k8Value (bitsOf w i .w32 a l / 2 ^ (8 * e.val) % 2 ^ 8)))) ∧
    (∀ e : Fin 8,
      WritesFloat (.upkE2m1 g d a e) s i w g d 1 (fun l => unpackRule e2m1 4 e.val (bitsOf w i .w32 a l)) ∧
      WritesFloat (.upkI4 g d a e) s i w g d 1 (fun l => unpackInt 4 e.val (bitsOf w i .w32 a l))) ∧
    (∀ e : Fin 2,
      WritesFloat (.upkF16 g d a e) s i w g d 1 (fun l => unpackRule f16 16 e.val (bitsOf w i .w32 a l)) ∧
      WritesFloat (.upkBf16 g d a e) s i w g d 1 (fun l => unpackRule bf16 16 e.val (bitsOf w i .w32 a l))))

/-- The rules `ConversionsRule`, `NarrowElementsRule` together. Choices of the model that it rests on: log 15. -/
def Obligations.ConversionsAndNarrow : Prop :=
  ConversionsRule ∧ NarrowElementsRule

/-- 03 R68-R71: rounding returns a value that the format represents unchanged and raises no flag, in every format,
mode and treatment of overflows. -/
def Sys2Proof.Claim.RepresentableIsExactRule : Prop :=
  ∀ f ∈ [f64, f32, f16, bf16, e4m3, e5m2, e3m2, e2m1], ∀ v < 2 ^ f.width, ∀ neg m e, f.decode v = .fin neg m e → m ≠ 0 →
    ∀ o rm, f.round o rm neg m e false = (v, 0)

/-- 03 R68-R71: a nonzero exact value that does not overflow is rounded as its mode says: `rne` to a nearest value of
the format and to the even one of two, `rz` to the nearest that is no larger in magnitude, `ru` up and `rd` down; NX is raised exactly when the
result differs from the exact value. -/
def Sys2Proof.Claim.RoundingIsCorrectRule : Prop :=
  ∀ f ∈ [f64, f32, f16, bf16, e4m3, e5m2, e3m2, e2m1], ∀ rm neg m e, 0 < m →
    let x := ratOf (.fin neg m e)
    let r := f.round .ieee rm neg m e false
    r.2 &&& flagOF = 0 →
    ∃ ry my ey, r.1 < 2 ^ f.width ∧ f.decode r.1 = .fin ry my ey ∧
      let y := ratOf (.fin ry my ey)
      (r.2 &&& flagNX ≠ 0 ↔ y ≠ x) ∧
      ∀ v < 2 ^ f.width, ∀ nz mz ez, f.decode v = .fin nz mz ez →
        let z := ratOf (.fin nz mz ez)
        match rm with
        | .rne => |y - x| ≤ |z - x| ∧ (z ≠ y → |y - x| = |z - x| → r.1 % 2 = 0)
        | .rz => |y| ≤ |x| ∧ 0 ≤ x * y ∧ (|z| ≤ |x| → |z| ≤ |y|)
        | .ru => x ≤ y ∧ (x ≤ z → y ≤ z)
        | .rd => y ≤ x ∧ (z ≤ x → z ≤ y)

/-- The rules `RepresentableIsExactRule`, `RoundingIsCorrectRule` together. -/
def Obligations.Rounding : Prop :=
  RepresentableIsExactRule ∧ RoundingIsCorrectRule

/-- 03 R72: lanes that raise a flag which FPTRAP enables complete first, and then are masked off with a pending record
of cause 0x28 whose AUX is the enabled flags raised; stated for the arithmetic of two operands, in a warp whose split
keeps other lanes. -/
def Obligations.FloatTrapDeferred : Prop :=
  ∀ e ∈ rulesFloat2, ∀ s i w g d a b,
    Issues s i w { Form.w g [(.dst e.2.2.1, d), (.src e.2.2.1, a), (.src e.2.2.1, b)] with rm := e.2.2.2.1 } →
    let m := acts w i g
    let val (l : Nat) := e.2.2.2.2 (modeOf w i)
      (e.2.1.decode (bitsOf w i e.2.2.1 a l)) (e.2.1.decode (bitsOf w i e.2.2.1 b l))
    let bad := maskOf (fun l => m.getLsbD l && (val l).2 &&& w.fptrap != 0)
    let all := flagsOf m (fun l => (val l).2)
    bad ≠ 0 → (w.split i.sp).mask ≠ bad → (w.split i.sp).pend = none → i.w ≠ armNo →
    ∃ v, Wrote w v m d e.2.2.1.regs (wordOf fun l => (val l).1) ∧
      exec (e.1 g d a b) s = .next (leave s s.pkg i
        ((moved i s.pkg.ptime (nextPc w i) { v with fpflags := w.fpflags ||| all }).modSplit i.sp (fun x =>
          { x with mask := x.mask &&& ~~~bad
                   pend := some ⟨0x28, (w.split i.sp).pc, nextPc w i, 0, bad, (all &&& w.fptrap).setWidth 16, false⟩ })))

/-! ## Control (08 R191-R196, R205; 11 R270) -/

namespace Sys2Proof.Claim

open Sys2Proof.Machine

/-- The target of a `bra` or `call`: the next word plus 4 × target (07 R157). -/
def targetOf (w : Warp) (i : Issuer) (t : BitVec 13) : DWord := nextPc w i + BitVec.ofInt 64 (4 * t.toInt)

/-- The reconvergence PC of a `bra`: its own address plus 4 × reconv; 0 for none (07 R157). -/
def joinOf (w : Warp) (i : Issuer) (r : BitVec 9) : DWord :=
  if r = 0 then 0 else nextPc w i - 4 + BitVec.ofNat 64 (4 * r.toNat)

/-- Room for a new split: a FREE entry, or fewer than 16 on the divergence stack (02 R30). -/
def hasRoom (w : Warp) : Prop := (∃ x ∈ w.splits, x.st = .free) ∨ w.dstack.length < 16

/-- RECONV and OUTER of the splits that a divergence makes: with a reconvergence PC that becomes RECONV and the old
one OUTER, else both stay (02 R30). -/
def forkMarks (x : Split) (q : DWord) : DWord × DWord := if q = 0 then (x.reconv, x.outer) else (q, x.reconv)

/-- 02 R30: the lanes `m` go on in the issuing entry at `target` with call stack `cs`; the lanes `rest` at `next` in the
lowest FREE entry, or on top of the divergence stack when none is FREE; nothing else of the warp changes. -/
structure Forked (w v : Warp) (i : Issuer) (now : DWord) (m rest : Mask) (target next q : DWord) (cs : List DWord) :
    Prop where
  own : v.split i.sp = { (moved i now target w).split i.sp with
    mask := m, reconv := (forkMarks (w.split i.sp) q).1, outer := (forkMarks (w.split i.sp) q).2, cstack := cs }
  other : match w.splits.findIdx? (fun x => x.st == .free) with
    | some k => v.split k = { Split.free with
        mask := rest, st := .ready, pc := next, reconv := (forkMarks (w.split i.sp) q).1
        outer := (forkMarks (w.split i.sp) q).2, cstack := (w.split i.sp).cstack } ∧ v.dstack = w.dstack ∧
        ∀ j, j ≠ k → j ≠ i.sp → v.split j = w.split j
    | none => v.dstack = ⟨rest, next, (forkMarks (w.split i.sp) q).1, (forkMarks (w.split i.sp) q).2,
        (w.split i.sp).cstack, false, none, none, false⟩ :: w.dstack ∧ ∀ j, j ≠ i.sp → v.split j = w.split j
  rest : v = { w with splits := v.splits, dstack := v.dstack, pri := (moved i now target w).pri }

/-- The split goes on at `t`, its warp `v` otherwise. -/
def Jumps (k : Instr) (s : State) (i : Issuer) (v : Warp) (t : DWord) : Prop :=
  exec k s = .next (leave s s.pkg i (moved i s.pkg.ptime t v))

/-- The split forks. -/
def Forks (k : Instr) (s : State) (i : Issuer) (w : Warp) (m rest : Mask) (target next q : DWord) (cs : List DWord) :
    Prop :=
  ∃ v, Forked w v i s.pkg.ptime m rest target next q cs ∧ exec k s = .next (leave s s.pkg i v)

/-- Lanes of the split whose guard is false. -/
def passedOver (w : Warp) (i : Issuer) (g : Guard) : Mask := (w.split i.sp).mask &&& ~~~(acts w i g)

/-- The forms that end lanes: `exit`, and `ret` with an empty call stack (08 R194). -/
def EndForm (k : Instr) (f : Form) (g : Guard) (x : Split) : Prop :=
  (k = .exit g ∧ f = { Form.wa g [] with ends := fun _ => true }) ∨
  (k = .ret g ∧ f = { Form.wa g [] with ends := fun d => d == 0 } ∧ x.cstack = [])

/-- The call stack of the issuing split changed. -/
def withCalls (w : Warp) (i : Issuer) (cs : List DWord) : Warp :=
  { w with splits := w.splits.modify i.sp (fun x => { x with cstack := cs }) }

end Sys2Proof.Claim

/-- 08 R191-R192, R194, 02 R30, R35: where every lane of the split takes them, `bra` and `call` go to their targets and
`ret` to the top of the call stack; `call` pushes the next address, `ret` pops it. -/
def Sys2Proof.Claim.UniformBranchesRule : Prop :=
  (∀ s i w g t r, Issues s i w (Form.wa g []) → acts w i g = (w.split i.sp).mask →
    Jumps (.bra g t r) s i w (targetOf w i t)) ∧
  (∀ s i w g t, Issues s i w (Form.wa g []) → acts w i g = (w.split i.sp).mask → (w.split i.sp).cstack.length < 8 →
    Jumps (.call g t) s i (withCalls w i ((w.split i.sp).cstack ++ [nextPc w i])) (targetOf w i t)) ∧
  (∀ s i w g cs t, Issues s i w { Form.wa g [] with ends := fun d => d == 0 } → acts w i g = (w.split i.sp).mask →
    (w.split i.sp).cstack = cs ++ [t] → Jumps (.ret g) s i (withCalls w i cs) t)

/-- 02 R30, 08 R191-R192, R194: where some lanes of the split are guarded off, the split forks: `bra` may name a
reconvergence PC, `call` uses the next address as one, `ret` none; the guarded lanes go on at the next word. -/
def Sys2Proof.Claim.DivergentBranchesRule : Prop :=
  (∀ s i w g t r, Issues s i w (Form.wa g []) → acts w i g ≠ (w.split i.sp).mask → hasRoom w → s.pkg.traces = [] →
    Forks (.bra g t r) s i w (acts w i g) (passedOver w i g) (targetOf w i t) (nextPc w i) (joinOf w i r)
      (w.split i.sp).cstack) ∧
  (∀ s i w g t, Issues s i w (Form.wa g []) → acts w i g ≠ (w.split i.sp).mask → hasRoom w → s.pkg.traces = [] →
    (w.split i.sp).cstack.length < 8 →
    Forks (.call g t) s i w (acts w i g) (passedOver w i g) (targetOf w i t) (nextPc w i) (nextPc w i)
      ((w.split i.sp).cstack ++ [nextPc w i])) ∧
  (∀ s i w g cs t, Issues s i w { Form.wa g [] with ends := fun d => d == 0 } →
    acts w i g ≠ (w.split i.sp).mask → hasRoom w → s.pkg.traces = [] → (w.split i.sp).cstack = cs ++ [t] →
    Forks (.ret g) s i w (acts w i g) (passedOver w i g) t (nextPc w i) 0 cs)

/-- The rules `UniformBranchesRule`, `DivergentBranchesRule` together. -/
def Obligations.DirectBranches : Prop :=
  UniformBranchesRule ∧ DivergentBranchesRule

/-- 08 R193: `jmpr` and `callr` take one target per pass. Where all lanes of the split name one aligned address below
2^56 the split goes there; where they name several, the lanes that share the lowest lane's target go there and the
others stay at the instruction in a split of their own. -/
def Obligations.IndirectBranches : Prop :=
  ∀ s i w g a, Issues s i w (Form.wa g [(.src .w64, a)]) → acts w i g = (w.split i.sp).mask →
    let lead := (lanesOf (acts w i g)).headD 0
    let t := src64 w i a lead
    let same := maskOf (fun l => (acts w i g).getLsbD l && src64 w i a l == t)
    t.toNat % 4 = 0 → t.toNat < 2 ^ 56 →
    (same = acts w i g →
      Jumps (.jmpr g a) s i w t ∧
      ((w.split i.sp).cstack.length < 8 →
        Jumps (.callr g a) s i (withCalls w i ((w.split i.sp).cstack ++ [nextPc w i])) t)) ∧
    (same ≠ acts w i g → hasRoom w → s.pkg.traces = [] →
      Forks (.jmpr g a) s i w same (acts w i g &&& ~~~same) t (w.split i.sp).pc 0 (w.split i.sp).cstack ∧
      ((w.split i.sp).cstack.length < 8 →
        Forks (.callr g a) s i w same (acts w i g &&& ~~~same) t (w.split i.sp).pc 0
          ((w.split i.sp).cstack ++ [nextPc w i])))

/-- 08 R195-R196, R205: `nop` only goes on; `yield` marks its split, which has seen no other issue since; `split.id` and `split.mask` write the number and
the mask of their split; `wsync` parks its split; `sleep` waits until `ptime` plus at most 1,000,000 ns, a sleep of 0
yields, and it goes on once its deadline has come. -/
def Obligations.SplitControl : Prop :=
  (∀ s i w g, Issues s i w (Form.wa g []) → exec (.nop g) s = .next (done s s.pkg i w w)) ∧
  (∀ s i w g, Issues s i w (Form.w g []) →
    exec (.yield g) s = .next (done s s.pkg i w
      { w with splits := w.splits.modify i.sp (fun x => { x with yielded := true, seen := [] }) })) ∧
  (∀ s i w g d, Issues s i w (Form.w g [(.dst .w32, d)]) →
    Writes (.splitId g d) s i w g d 1 (one fun _ => BitVec.ofNat 32 i.sp) ∧
    Writes (.splitMask g d) s i w g d 1 (one fun _ => (w.split i.sp).mask)) ∧
  (∀ s i w g, Issues s i w { Form.w g [] with ends := fun _ => true } → (w.split i.sp).pend = none →
    exec (.wsync g) s = .next (leave s s.pkg i (hinted i w (fun x =>
      { x with pfx := Pfx.none, st := .parked, wait := some ⟨.wsync, 0, false, [nextPc w i], none⟩
               since := s.pkg.ptime, passed := 0 })))) ∧
  (∀ s i w g a, Issues s i w { Form.wa g [(.src .w32, a)] with once := true } → (w.split i.sp).pend = none →
    let n := (src32 w i a ((lanesOf (acts w i g)).headD 0)).toNat
    (n ≠ 0 → Waits (.sleep g a) s i s.pkg
      (Wait.of (.sleep (s.pkg.ptime + BitVec.ofNat 64 (min n 1000000))))) ∧
    (n = 0 → exec (.sleep g a) s = .next (done s s.pkg i w
      { w with splits := w.splits.modify i.sp (fun x => { x with yielded := true, seen := [] }) }))) ∧
  (∀ s i w g a t z, IssuesAt s i w { Form.wa g [(.src .w32, a)] with once := true } (some z) → z.kind = .sleep t →
    z.took = none → t.toNat ≤ s.pkg.ptime.toNat → exec (.sleep g a) s = .next (doneWait s s.pkg i w w))

/-- 08 R194, 11 R270: `exit`, and `ret` with an empty call stack, end the lanes that take them; lanes that remain go
on, and a split without lanes is FREE. Stated where no barrier waits for the lanes, no further lane of the warp ends
with an engine's fault, and nothing is on the divergence stack. On the armature both act as `arm.end`, which ends the
context once its engines are idle and gives the matrix unit back. -/
def Obligations.Exits : Prop :=
  (∀ k f s i w g b, EndForm k f g (w.split i.sp) → Issues s i w f → i.w ≠ armNo → s.pkg.block? i.core i.slot = some b → (∀ o h, b.mode ≠ .handler o h) → b.bars = [] →
    (∀ n, s.pkg.launch? b.launch = some n → n.cbars = []) → w.dstack = [] → (w.split i.sp).pend = none →
    (w.ops = [] ∧ w.batchFaults = []) →
    ∃ t v, exec k s = .next t ∧ t.pkg.warp? i.core i.slot i.w = some v ∧
      v.exited = w.exited ||| acts w i g ∧ v.regs = w.regs ∧ v.preds = w.preds ∧
      (passedOver w i g ≠ 0 → (v.split i.sp).mask = passedOver w i g ∧ (v.split i.sp).pc = nextPc w i) ∧
      (passedOver w i g = 0 → (v.split i.sp).st = .free ∧ (v.split i.sp).mask = 0 ∧ ∀ j, j ≠ i.sp → v.split j = w.split j) ∧
      t.pkg.mem = s.pkg.mem) ∧
  (∀ k f s i w g b, EndForm k f g (w.split i.sp) ∨ (k = Instr.armEnd g ∧ f = { Form.wa g [] with warp := false }) →
    Issues s i w f → i.w = armNo →
    s.pkg.block? i.core i.slot = some b → (∀ o h, b.mode ≠ .handler o h) → b.bars = [] →
    (∀ n, s.pkg.launch? b.launch = some n → n.cbars = []) → w.dstack = [] → (w.split i.sp).pend = none →
    acts w i g = w.live → (∀ o ∈ (s.pkg.core i.core).mx.ops, o.slot ≠ i.slot) → w.cnt = Vector.replicate 7 0 →
    (w.ops = [] ∧ w.batchFaults = []) → acts w i g = (w.split i.sp).mask →
    ∃ t v c, exec k s = .next t ∧ t.pkg.warp? i.core i.slot i.w = some v ∧ t.pkg.block? i.core i.slot = some c ∧
      c.armEnded = true ∧ v.live = 0 ∧ (v.split i.sp).st = .free ∧ (v.split i.sp).mask = 0 ∧
      (t.pkg.core i.core).mx.owner ≠ some i.slot ∧ t.pkg.mem = s.pkg.mem)

/-! ## Numbered and cluster barriers (08 R197-R200) -/

namespace Sys2Proof.Claim

open Sys2Proof.Machine

/-- The counts that the lanes give: operand code `zero`, or one number (08 R198). -/
def wantOf (w : Warp) (i : Issuer) (m : Mask) (a : Operand) (want : Option Nat) : Prop :=
  if a = .zero then want = none
  else ∃ n, want = some n ∧ ∀ l ∈ lanesOf m, (src32 w i a l).toNat = n

/-- A barrier accepts an arrival: the lanes have not arrived in this phase, a number is in range, and the phase's
first arrival or an equal count and kind (08 R198). -/
def accepts (r : Bar) (key hi : Nat) (m : Mask) (want : Option Nat) : Prop :=
  (r.arrived.getD key 0) &&& m = 0 ∧ (∀ n, want = some n → 1 ≤ n ∧ n ≤ hi) ∧
    (r.expect = none ∨ r.expect = some want)

/-- The barrier with the lanes of a participant arrived. -/
def arriveRule (r : Bar) (key : Nat) (m : Mask) (want : Option Nat) : Bar :=
  { r with expect := some want, arrived := KMap.insert key (r.arrived.getD key 0 ||| m) r.arrived }

/-- The thread has no pod-remote access without its response, which a release waits for (06 R135). -/
def Drained (s : State) (i : Issuer) : Prop :=
  ∀ e ∈ s.pkg.pods, ¬(e.2.core = i.core ∧ e.2.slot = i.slot ∧ e.2.w = i.w)

/-- A numbered barrier of a block replaced. -/
def withBar (n : Nat) (r : Bar) (b : Block) : Block := { b with bars := KMap.insert n r b.bars }

/-- A wait for a phase of a numbered barrier. -/
def onBar (n ph : Nat) (k : WaitKind) : Bool := match k with | .bar m p => m == n && p == ph | _ => false

/-- A warp whose waits that a test picks are released: a BLOCKED split is READY again. -/
def woken (sel : WaitKind → Bool) (w : Warp) : Warp := { w with splits := w.splits.map (fun (x : Split) =>
  match x.wait with
  | some z => if sel z.kind = true ∧ x.st ≠ .parked then
      { x with wait := some { z with released := true }, st := if x.st = .blocked then .ready else x.st
               prior := if x.st = .stopped ∧ x.prior = .blocked then .ready else x.prior } else x
  | none => x) }

end Sys2Proof.Claim

/-- 08 R197-R199, 06 R135: an arrival, which waits for its thread's pod-remote accesses, sets the expected count and the
lanes' bits. While the phase lacks arrivals `bar.arrive`
goes on and `bar.sync` waits; the last arrival raises the phase, clears the barrier and releases the waiters, and both
go on. `bar.wait` waits for the present phase, and a wait goes on once it is released. The form is not for handlers. -/
def Sys2Proof.Claim.NumberedBarriersRule : Prop :=
  (∀ s i w g a n b want, Issues s i w { Form.wa g [(.src .w32, a)] with handler := false } →
    s.pkg.block? i.core i.slot = some b → wantOf w i (acts w i g) a want → Drained s i →
    let r := b.bar n.toNat
    let r' := arriveRule r i.w (acts w i g) want
    accepts r i.w 33 (acts w i g) want →
    ((withBar n.toNat r' b).barDone r' = false →
      Ends (.barArrive g a n) s i w (s.pkg.modBlock i.core i.slot (withBar n.toNat r')) ∧
      ((w.split i.sp).pend = none → Waits (.barSync g a n) s i (s.pkg.modBlock i.core i.slot (withBar n.toNat r'))
        (Wait.of (.bar n.toNat r.phase)))) ∧
    ((withBar n.toNat r' b).barDone r' = true → ∀ k ∈ [Instr.barArrive g a n, .barSync g a n],
      Ends k s i w (s.pkg.modBlock i.core i.slot (fun c =>
        { withBar n.toNat ⟨r.phase + 1, none, []⟩ c with
          warps := (c.warps.map (fun e => (e.1, woken (onBar n.toNat r.phase) e.2)) : KMap Warp) })))) ∧
  (∀ s i w g a n b, Issues s i w { Form.wa g [(.src .w32, a)] with handler := false } →
    s.pkg.block? i.core i.slot = some b → (w.split i.sp).pend = none →
    Waits (.barWait g a n) s i s.pkg (Wait.of (.bar n.toNat (b.bar n.toNat).phase))) ∧
  (∀ s i w g a n z m ph, IssuesAt s i w { Form.wa g [(.src .w32, a)] with handler := false } (some z) →
    z.kind = .bar m ph → z.took = none → z.released = true → ∀ k ∈ [Instr.barWait g a n, .barSync g a n], exec k s = .next (doneWait s s.pkg i w w))

/-- 08 R200, 04 R91: a cluster barrier lives in the launch; an arrival is a release and a wait an acquire at cluster
scope, so that the core's dirty bytes are written back and, after a wait, its L1 is invalid. -/
def Sys2Proof.Claim.ClusterBarriersRule : Prop :=
  (∀ s i w g a n b ln want, Issues s i w { Form.wa g [(.src .w32, a)] with handler := false } →
    s.pkg.block? i.core i.slot = some b → s.pkg.launch? b.launch = some ln → wantOf w i (acts w i g) a want → Drained s i →
    let r := ln.cbar b.cluster n.toNat
    let key := b.cpos * 64 + i.w
    let p := ((s.pkg.l1WriteBack i.core).modLaunch b.launch (fun x =>
      { x with cbars := KMap.insert (8 * b.cluster + n.toNat) (arriveRule r key (acts w i g) want) x.cbars })).completeCbar
        i.core i.slot n.toNat
    accepts r key 8 (acts w i g) want →
    Ends (.cbarArrive g a n) s i w p ∧
    (∀ x, p.launch? b.launch = some x →
      ((x.cbar b.cluster n.toNat).phase ≠ r.phase →
        Ends (.cbarSync g a n) s i w ((p.l1WriteBack i.core).l1Invalidate i.core)) ∧
      ((x.cbar b.cluster n.toNat).phase = r.phase → (w.split i.sp).pend = none →
        Waits (.cbarSync g a n) s i p (Wait.of (.cbar n.toNat r.phase))))) ∧
  (∀ s i w g a n b ln, Issues s i w { Form.wa g [(.src .w32, a)] with handler := false } →
    s.pkg.block? i.core i.slot = some b → s.pkg.launch? b.launch = some ln → (w.split i.sp).pend = none →
    Waits (.cbarWait g a n) s i s.pkg (Wait.of (.cbar n.toNat (ln.cbar b.cluster n.toNat).phase))) ∧
  (∀ s i w g a n z m ph, IssuesAt s i w { Form.wa g [(.src .w32, a)] with handler := false } (some z) →
    z.kind = .cbar m ph → z.took = none → z.released = true → ∀ k ∈ [Instr.cbarWait g a n, .cbarSync g a n],
      EndsWait k s i w ((s.pkg.l1WriteBack i.core).l1Invalidate i.core))

/-- The rules `NumberedBarriersRule`, `ClusterBarriersRule` together. Choices of the model that it rests on: log 4. -/
def Obligations.BlockAndClusterBarriers : Prop :=
  NumberedBarriersRule ∧ ClusterBarriersRule

/-! ## Arrival barriers (08 R201-R204) -/

namespace Sys2Proof.Claim

open Sys2Proof.Machine

/-- The lowest lane that an instruction acts on (12 R275). -/
def lead (w : Warp) (i : Issuer) (g : Guard) : Nat := (lanesOf (acts w i g)).headD 0

/-- The instruction writes `n` words per lane to `d`, and otherwise leaves the package `p`. -/
def WritesIn (k : Instr) (s : State) (i : Issuer) (w : Warp) (p : Pkg) (g : Guard) (d : Operand) (n : Nat)
    (val : Nat → Nat → Word) : Prop :=
  ∃ u v, p.warp? i.core i.slot i.w = some u ∧ Wrote u v (acts w i g) d n val ∧ exec k s = .next (done s p i w v)

/-- The same after a wait. -/
def WritesWait (k : Instr) (s : State) (i : Issuer) (w : Warp) (p : Pkg) (g : Guard) (d : Operand) (n : Nat)
    (val : Nat → Nat → Word) : Prop :=
  ∃ u v, p.warp? i.core i.slot i.w = some u ∧ Wrote u v (acts w i g) d n val ∧ exec k s = .next (doneWait s p i w v)

/-- A release at cluster scope or wider writes the core's dirty bytes back (04 R91). -/
def released (p : Pkg) (c : Nat) (wide : Bool) : Pkg := if wide then p.l1WriteBack c else p

/-- An acquire at cluster scope or wider also invalidates the core's L1 (04 R91). -/
def acquired (p : Pkg) (c : Nat) (wide : Bool) : Pkg := if wide then (p.l1WriteBack c).l1Invalidate c else p

/-- No matrix instruction is in flight that an access of an armature to its scratchpad would wait for (07 R155). -/
def NoTile (s : State) (i : Issuer) : Prop := i.w ≠ armNo ∨ (s.pkg.core i.core).mx.ops = []

/-- The object that operand a names lies at offset `o` of block slot `b` of core `c` (08 R202, 12 R275), in scratchpad
that no stash window covers and no error has struck; no matrix instruction of an issuing armature is in flight. -/
structure Names (s : State) (i : Issuer) (w : Warp) (g : Guard) (a : Operand) (c b o : Nat) : Prop where
  at_ : s.pkg.spAddr i.core i.slot (src32 w i a (lead w i g)) 32 = .ok (c, b, o)
  plain : ∃ x, s.pkg.block? c b = some x ∧ x.stash = [] ∧ x.spPoison = []
  noTile : NoTile s i

/-- An operation finds the object in a valid state (08 R201). -/
def Sound (x : Abar) : Prop := x.reserved = false ∧ x.arrived ≤ x.expected

/-- Scope: `pfx.mod` names one of cluster or wider, or the object is another block's (08 R204). -/
def wideObject (w : Warp) (i : Issuer) (c b : Nat) : Bool :=
  match (w.split i.sp).pfx.md.bind (fun m => m.scv) with
  | some sc => decide (3 ≤ sc.toNat)
  | none => c != i.core || b != i.slot

/-- A token's phase bit. -/
def token (w : Warp) (i : Issuer) (d : Operand) (l : Nat) : Bool := (src32 w i d l).getLsbD 0

end Sys2Proof.Claim

/-- 08 R202-R204, 06 R135: the forms of an arrival barrier on an object that is in a valid state. `abar.init` needs a
count of 1 to 1024 and an object that nothing uses; `abar.owe` adds bytes to a source; `abar.arrive` adds its lanes
and gives each the phase as it stood; `abar.wait` and `abar.test` first complete a phase that lacks nothing;
`abar.wait` gives 1 where the phase has passed every lane's token, 0 where the object is not valid, and else waits; it
goes on with 1, or 0 after an invalidation, once it is released; `abar.test` answers at once; `abar.inval` clears.
Choices of the model that it rests on: log 4. -/
def Obligations.ArrivalBarriers : Prop :=
  (∀ s i w g d a c b o, Issues s i w { Form.wa g [(.src .w32, d), (.src .w32, a)] with once := true } →
    Names s i w g a c b o →
    let n := (src32 w i d (lead w i g)).toNat % 2048
    let x := s.pkg.abarAt c b o
    Sound x → (1 ≤ n ∧ n ≤ 1024 → (x.valid = false ∨ (s.pkg.abarWaited c b o = false ∧ (∀ v ∈ x.owed, v = 0) ∧
        s.pkg.abarNamed c b o = false)) →
      Ends (.abarInit g d a) s i w (s.pkg.setAbar c b o
        ⟨false, true, n, 0, 0, [0, 0, 0, 0, 0, 0, 0, 0], false⟩)) ∧
    (let v := (src32 w i d (lead w i g)).toNat
     let j := v / 2 ^ 24 % 8
     let m : Int := x.owed.getD j 0 + (v % 2 ^ 24 : Nat)
     v < 2 ^ 27 → x.valid = true → -8388608 ≤ m ∧ m ≤ 8388607 →
      Ends (.abarOwe g d a) s i w ((s.pkg.setAbar c b o { x with owed := x.owed.set j m }).completeAbar c b o))) ∧
  (∀ s i w g d a c b o, Issues s i w { Form.wa g [(.dst .w32, d), (.src .w32, a)] with scv := some 2 } →
    Names s i w g a c b o →
    let x := s.pkg.abarAt c b o
    let n := (lanesOf (acts w i g)).length
    x.valid = true → x.reserved = false → x.arrived + n ≤ x.expected → Drained s i →
    WritesIn (.abarArrive g d a) s i w
      (((released s.pkg i.core (wideObject w i c b)).setAbar c b o { x with arrived := x.arrived + n }).completeAbar c b o)
      g d 1 (one fun _ => boolWord x.phase)) ∧
  (∀ s i w g d a c b o bl, Issues s i w { Form.wa g [(.upd .w32, d), (.src .w32, a)] with scv := some 2 } →
    Names s i w g a c b o → s.pkg.block? c b = some bl →
    Sound (s.pkg.abarAt c b o) →
    let p := s.pkg.completeAbar c b o
    let x := p.abarAt c b o
    let q := acquired p i.core (wideObject w i c b)
    (x.valid = false →
      WritesIn (.abarWait g d a) s i w q g d 1 (one fun _ => 0) ∧
      WritesIn (.abarTest g d a) s i w p g d 1 (one fun _ => 0)) ∧
    (x.valid = true → (∀ l ∈ lanesOf (acts w i g), token w i d l ≠ x.phase) →
      WritesIn (.abarWait g d a) s i w q g d 1 (one fun _ => 1)) ∧
    (x.valid = true → (∃ l ∈ lanesOf (acts w i g), token w i d l = x.phase) → (w.split i.sp).pend = none →
      Waits (.abarWait g d a) s i p (Wait.of (.abar bl.cpos o))) ∧
    (x.valid = true →
      WritesIn (.abarTest g d a) s i w
        (if (lanesOf (acts w i g)).any (fun l => token w i d l != x.phase) then q else p) g d 1
        (one fun l => if token w i d l = x.phase then 0 else 1))) ∧
  (∀ s i w g d a c b o z, IssuesAt s i w { Form.wa g [(.upd .w32, d), (.src .w32, a)] with scv := some 2 } (some z) →
    Names s i w g a c b o → (∃ q f, z.kind = .abar q f) → z.took = none → z.released = true →
    WritesWait (.abarWait g d a) s i w (acquired s.pkg i.core (wideObject w i c b)) g d 1
      (one fun _ => if z.data.headD 0 = 1 then 1 else 0)) ∧
  (∀ s i w g a c b o, Issues s i w { Form.wa g [(.src .w32, a)] with once := true } → Names s i w g a c b o →
    let x := s.pkg.abarAt c b o
    Sound x → Ends (.abarInval g a) s i w (((s.pkg.abarMark c b o).setAbar c b o
      { x with valid := false, arrived := 0, owed := [0, 0, 0, 0, 0, 0, 0, 0] }).releaseAbar c b o false))

/-! ## Memory (10 R231-R247) -/

namespace Sys2Proof.Claim

open Sys2Proof.Machine

/-- One lane after another; none where a lane is not performed. -/
def eachLane (f : Nat → Pkg → Option Pkg) : List Nat → Pkg → Option Pkg
  | [], p => some p
  | l :: ls, p => (f l p).bind (eachLane f ls)

/-- The global address of a lane: its operand plus the `pfx.off` value (10 R231). -/
def gAddr (w : Warp) (i : Issuer) (a : Operand) (l : Nat) : DWord := src64 w i a l + offOf w i

/-- The scratchpad address of a lane (10 R231). -/
def sAddr (w : Warp) (i : Issuer) (a : Operand) (l : Nat) : Word := src32 w i a l + (offOf w i).setWidth 32

/-- The words of a data operand of a lane (07 R165). -/
def srcWords (w : Warp) (i : Issuer) (n : Nat) (o : Operand) (l : Nat) : List Word :=
  match o with
  | .reg r => (List.range n).map (fun k => w.rd (r.val + k) l)
  | .ix _ => match w.regOf o l with | some r => (List.range n).map (fun k => w.rd (r + k) l) | none => []
  | .lit => [half (litOf w i) 0, half (litOf w i) 1]
  | .zero => List.replicate n 0
  | .q _ | .sq => [0]

/-- The context of the issuing block. -/
def ctxOf (p : Pkg) (i : Issuer) : Ctx :=
  match p.block? i.core i.slot with | some b => b.ctx | none => ⟨0, 0, 0, 0, 0⟩

/-- Step 9 of 24 R433: an address below 2^56 that is aligned to n bytes, and its translation. -/
def reached (p : Pkg) (i : Issuer) (va : DWord) (n : Nat) (acc : Acc) : Option (Pkg × Xl) :=
  if va.toNat < 2 ^ 56 ∧ va.toNat % n = 0 then
    match p.xlate i.core (ctxOf p i) va acc with
    | .ok r => some r
    | .error _ => none
  else none

/-- No watchpoint of the core matches an access (17 R391). -/
def unwatched (p : Pkg) (i : Issuer) (va : DWord) (n : Nat) (wr : Bool) : Bool :=
  !p.watched i.core (ctxOf p i).asid va n wr

/-- A lane's load of package memory: where it is, its value in the destination registers (10 R233-R234). -/
def laneLoad (i : Issuer) (w : Warp) (pol : Policy) (wd : Width) (d a : Operand) (l : Nat) (p : Pkg) : Option Pkg :=
  match reached p i (gAddr w i a l) (widthBytes wd) .load with
  | none => none
  | some (p, x) =>
    match x.loc, p.plainPa x with
    | some _, some pa =>
      if p.poisoned pa then none
      else
        let r := p.load i.core (x.policy pol) pa (widthBytes wd)
        let q := r.1.modWarp i.core i.slot i.w (fun v => w.land v d l (loadWords wd r.2))
        if unwatched r.1 i (gAddr w i a l) (widthBytes wd) false then some q else none
    | _, _ => none

/-- Where a lane's store goes, with the package after its translation (05 R117). -/
def storePlace (i : Issuer) (w : Warp) (n : Nat) (a : Operand) (l : Nat) (p : Pkg) : Option (Pkg × Xl × Nat) :=
  match reached p i (gAddr w i a l) n .store with
  | none => none
  | some (p, x) =>
    match x.loc, p.verStore w.wver x with
    | some _, .at pa => if p.poisoned pa then none else some (p, x, pa)
    | _, _ => none

/-- A lane's store to package memory. -/
def laneStore (i : Issuer) (w : Warp) (pol : Policy) (wd : Width) (d a : Operand) (l : Nat) (p : Pkg) : Option Pkg :=
  match storePlace i w (widthBytes wd) a l p with
  | none => none
  | some (p, x, pa) =>
    if unwatched p i (gAddr w i a l) (widthBytes wd) true then
      some (p.store i.core (x.policy pol) pa (storeBytes wd (srcWords w i (widthOp wd).regs d l)))
    else none

/-- An operation of a wait class that has been performed is counted by a warp; an armature counts classes 2, 4 and 6
only (06 R141). -/
def countedOp (p : Pkg) (i : Issuer) (cls op : Nat) : Pkg :=
  if i.w = armNo ∧ cls ≠ 2 ∧ cls ≠ 4 ∧ cls ≠ 6 then p
  else p.modWarp i.core i.slot i.w (fun v => v.beginOp cls op true)

/-- The package from which a counted operation begins: the operation has a number of its own. -/
def numbered (p : Pkg) : Pkg := { p with nextId := p.nextId + 1 }

/-- The split holds no page lock, and no pod-remote access bears the number that an operation takes next. -/
def Fresh (s : State) (i : Issuer) : Prop :=
  (∀ q ∈ s.pkg.cows, q.owner ≠ .split i.core i.slot i.w i.sp) ∧ ∀ e ∈ s.pkg.pods, e.2.op ≠ s.pkg.nextId

/-- A counter has room for an operation. -/
def counts (w : Warp) (i : Issuer) (cls : Nat) : Prop := i.w = armNo ∨ w.count cls < 63

end Sys2Proof.Claim

/-- 10 R233-R234, 06 R141: where every lane's address is aligned, translates to package memory without poison and meets no
watchpoint, `ld` writes each lane's bytes, extended as its width says, to its destination and counts in class 0; `st`
writes the operand's bytes, lanes ascending, and counts in class 1. Choices of the model that it rests on: log 4. -/
def Obligations.LoadsAndStores : Prop :=
  (∀ s i w g d a wd pol p, Issues s i w { Form.wa g [(.ldst (widthOp wd), d), (.addr, a)] with off := true } →
    counts w i 0 → s.pkg.calm = true → Fresh s i →
    eachLane (laneLoad i w pol wd d a) (lanesOf (acts w i g)) (numbered s.pkg) = some p →
    Ends (.ld g d a wd pol) s i w (countedOp p i 0 s.pkg.nextId)) ∧
  (∀ s i w g d a wd pol p, Issues s i w { Form.wa g [(.src (widthOp wd), d), (.addr, a)] with off := true } →
    counts w i 1 → s.pkg.calm = true → Fresh s i →
    eachLane (laneStore i w pol wd d a) (lanesOf (acts w i g)) (numbered s.pkg) = some p →
    Ends (.st g d a wd pol) s i w (countedOp p i 1 s.pkg.nextId))

namespace Sys2Proof.Claim

open Sys2Proof.Machine

/-- The bytes that the lanes store to, in turn: address and length. -/
def places (i : Issuer) (w : Warp) (pol : Policy) (wd : Width) (d a : Operand) : List Nat → Pkg → List (Nat × Nat)
  | [], _ => []
  | l :: ls, p =>
    match storePlace i w (widthBytes wd) a l p, laneStore i w pol wd d a l p with
    | some (_, _, pa), some q => (pa, widthBytes wd) :: places i w pol wd d a ls q
    | _, _ => []

/-- An address lies in one of the stored places. -/
def inPlaces (ps : List (Nat × Nat)) (x : Nat) : Prop := ∃ e ∈ ps, e.1 ≤ x ∧ x < e.1 + e.2

end Sys2Proof.Claim

/-- The frame of `st` in a package without stash windows: registers, predicates, special registers and splits of the
warp stay but for its class counter and the split's advance; and a byte of package memory outside the bytes stored to
stays, or becomes what the core's own L1 held dirty for it before (an eviction writes back, 04 R89). -/
def Sys2Proof.Claim.StoreFrameRule : Prop :=
  ∀ s i w g d a wd pol p, Issues s i w { Form.wa g [(.src (widthOp wd), d), (.addr, a)] with off := true } →
    counts w i 1 → s.pkg.calm = true →
    (∀ e ∈ s.pkg.cores, ∀ f ∈ e.2.blocks, f.2.stash = []) →
    eachLane (laneStore i w pol wd d a) (lanesOf (acts w i g)) (numbered s.pkg) = some p →
    ∃ t v, exec (.st g d a wd pol) s = .next t ∧ t.pkg.warp? i.core i.slot i.w = some v ∧
      v.regs = w.regs ∧ v.preds = w.preds ∧ v.xs = w.xs ∧ v.fpflags = w.fpflags ∧ v.fprm = w.fprm ∧
      v.wver = w.wver ∧ v.frec = w.frec ∧ v.rpoison = w.rpoison ∧
      (∀ j, j ≠ i.sp → v.split j = w.split j) ∧ v.dstack = w.dstack ∧
      ∀ x, ¬ inPlaces (places i w pol wd d a (lanesOf (acts w i g)) (numbered s.pkg)) x →
        t.pkg.byte x = s.pkg.byte x ∨ (s.pkg.core i.core).l1.dirty.find? x = some (t.pkg.byte x)

/-- 04 R89-R90: what a core's store leaves in its own view: the bytes stored to read as the stored data, whatever the
policy; under policies `l2` and `noalloc` they are so at L2. -/
def Sys2Proof.Claim.StoreThenLoadRule : Prop :=
  ∀ (p : Pkg) (c : Nat) (pol : Policy) (pa : Nat) (vs : List Byte), pa / 64 = (pa + vs.length - 1) / 64 →
    (∀ k, k < vs.length → (p.store c pol pa vs).viewByte c (pa + k) = vs.getD k 0) ∧
    (pol = .l2 ∨ pol = .noalloc → ∀ k, k < vs.length → (p.store c pol pa vs).byte (pa + k) = vs.getD k 0)

/-- The rules `StoreFrameRule`, `StoreThenLoadRule` together. Choices of the model that it rests on: log 4. -/
def Obligations.StoreEffect : Prop :=
  StoreFrameRule ∧ StoreThenLoadRule

namespace Sys2Proof.Claim

open Sys2Proof.Machine

/-- A lane's load from scratchpad, its own block's or a peer's (04 R86-R87). -/
def laneLoadSp (i : Issuer) (w : Warp) (wd : Width) (d a : Operand) (l : Nat) (p : Pkg) : Option Pkg :=
  match p.spAddr i.core i.slot (sAddr w i a l) (widthBytes wd) with
  | .error _ => none
  | .ok (c, b, o) =>
    match p.spRead c b o (widthBytes wd) (i.w == armNo) with
    | .error _ => none
    | .ok (q, bs) => some (q.modWarp i.core i.slot i.w (fun v => w.land v d l (loadWords wd bs)))

/-- A lane's store to scratchpad. -/
def laneStoreSp (i : Issuer) (w : Warp) (wd : Width) (d a : Operand) (l : Nat) (p : Pkg) : Option Pkg :=
  match p.spAddr i.core i.slot (sAddr w i a l) (widthBytes wd) with
  | .error _ => none
  | .ok (c, b, o) =>
    match p.spWrite c b o (storeBytes wd (srcWords w i (widthOp wd).regs d l)) with
    | .error _ => none
    | .ok q => some q

/-- The new value of an integer or bitwise atomic (10 R239); a float one uses the addition and extrema of 03. -/
def atomRule (o : AtomOp) (old x y : Nat) : Nat :=
  match o with
  | .addI32 => (old + x) % 2 ^ 32
  | .addI64 => (old + x) % 2 ^ 64
  | .minI32 => if (BitVec.ofNat 32 x).toInt < (BitVec.ofNat 32 old).toInt then x else old
  | .maxI32 => if (BitVec.ofNat 32 old).toInt < (BitVec.ofNat 32 x).toInt then x else old
  | .minN32 => min old x
  | .maxN32 => max old x
  | .and32 => old &&& x
  | .or32 => old ||| x
  | .xor32 => old ^^^ x
  | .exch32 | .exch64 => x
  | .cas32 | .cas64 => if old = x then y else old
  | .incN32 => if x ≤ old then 0 else old + 1
  | .decN32 => if old = 0 ∨ x < old then x else old - 1
  | _ => atomNew o old x y

/-- A destination operand of an atomic that receives the old value. -/
def returns : Operand → Bool
  | .reg _ | .ix _ => true
  | _ => false

/-- A lane's atomic on scratchpad (10 R238-R240). -/
def laneAtomSp (i : Issuer) (w : Warp) (o : AtomOp) (d a : Operand) (l : Nat) (p : Pkg) : Option Pkg :=
  let n := atomBytes o
  match p.spAddr i.core i.slot (sAddr w i a l) n with
  | .error _ => none
  | .ok (c, b, f) =>
    match p.spRead c b f n true with
    | .error _ => none
    | .ok (q, bs) =>
      let ws := srcWords w i (atomOpW o).regs d l
      match q.spWrite c b f (bytesOf n (atomRule o (ofBytes bs) (wordsNat (ws.take (n / 4)))
          (wordsNat ((ws.drop (n / 4)).take (n / 4))))) with
      | .error _ => none
      | .ok q => some (if returns d then
          q.modWarp i.core i.slot i.w (fun v => w.land v d l (oldWords o (ofBytes bs))) else q)

end Sys2Proof.Claim

/-- 10 R233, R235, R238-R240, 04 R98: loads, stores and atomics of scratchpad, lanes ascending and uncounted; an atomic
gives the old value where d is a register and orders at its scope. -/
def Obligations.Scratchpad : Prop :=
  (∀ s i w g d a wd p, Issues s i w { Form.wa g [(.ldst (widthOp wd), d), (.src .w32, a)] with off := true } →
    NoTile s i → s.pkg.calm = true → eachLane (laneLoadSp i w wd d a) (lanesOf (acts w i g)) s.pkg = some p →
    Ends (.ldSp g d a wd) s i w p) ∧
  (∀ s i w g d a wd p, Issues s i w { Form.wa g [(.src (widthOp wd), d), (.src .w32, a)] with off := true } →
    NoTile s i → s.pkg.calm = true → eachLane (laneStoreSp i w wd d a) (lanesOf (acts w i g)) s.pkg = some p →
    Ends (.stSp g d a wd) s i w p) ∧
  (∀ s i w g d a sc o p, Issues s i w { Form.wa g [(.atom (atomOpW o), d), (.src .w32, a)] with off := true } →
    Drained s i → NoTile s i → s.pkg.calm = true →
    eachLane (laneAtomSp i w o d a) (lanesOf (acts w i g)) (released s.pkg i.core (wideScope sc)) = some p →
    Ends (.atomSp g d a sc o) s i w (acquired p i.core (wideScope sc)))

namespace Sys2Proof.Claim

open Sys2Proof.Machine

/-- A lane's versioned load of version b (10 R236): the frame with the greatest tag at or below it, where the version is
published and not below the floor. A checked form sets its predicate, and reads nothing where it is not. -/
def laneVersioned (i : Issuer) (w : Warp) (wd : Width) (chk : Option PReg) (d a b : Operand) (l : Nat) (p : Pkg) :
    Option Pkg :=
  let mark (ok : Bool) (p : Pkg) : Pkg := match chk with
    | some k => p.modWarp i.core i.slot i.w (fun v => v.setPred k l ok)
    | none => p
  match reached p i (gAddr w i a l) (widthBytes wd) .load with
  | none => none
  | some (p, x) =>
    match x.loc, p.versionPa x (src32 w i b l) with
    | some _, .ok pa =>
      if p.poisoned pa then none
      else
        let r := p.load i.core (x.policy .default) pa (widthBytes wd)
        let q := mark true r.1
        if unwatched q i (gAddr w i a l) (widthBytes wd) false then
          some (q.modWarp i.core i.slot i.w (fun v => w.land v d l (loadWords wd r.2)))
        else none
    | some _, .error c => if chk.isSome ∧ (c = 0x0C ∨ c = 0x0D) then some (mark false p) else none
    | _, _ => none

end Sys2Proof.Claim

/-- 10 R236-R237, 05 R120-R121: versioned loads; the checked forms run on every lane of `exec`. -/
def Obligations.VersionedLoads : Prop :=
  ∀ s i w g d a b wd p (chk : Option PReg), wd = .w32 ∨ wd = .w64 → (chk ≠ none → g = .always) →
    Issues s i w { Form.w g [(.dst (widthOp wd), d), (.addr, a), (.src .w32, b)] with off := true } →
    counts w i 0 → s.pkg.calm = true → Fresh s i →
    eachLane (laneVersioned i w wd chk d a b) (lanesOf (acts w i g)) (numbered s.pkg) = some p →
    Ends (match wd, chk with
      | .w64, none => .ldv64 g d a b
      | .w64, some k => .ldv64Chk k d a b
      | _, none => .ldv32 g d a b
      | _, some k => .ldv32Chk k d a b) s i w (countedOp p i 0 s.pkg.nextId)

namespace Sys2Proof.Claim

open Sys2Proof.Machine

/-- The lines that an instruction's lanes name in package memory. -/
def lineSet (i : Issuer) (w : Warp) (a : Operand) (n : Nat) (p : Pkg) (ls : List Nat) : List Nat :=
  (ls.filterMap (fun l => (reached p i (gAddr w i a l) n .store).bind (fun r =>
    (r.1.plainPa r.2).map (fun pa => pa / 256)))).dedup

/-- A lane's atomic on package memory, performed at L2 (04 R96, 10 R238-R239). -/
def laneAtom (i : Issuer) (w : Warp) (o : AtomOp) (d a : Operand) (l : Nat) (p : Pkg) : Option Pkg :=
  let n := atomBytes o
  match storePlace i w n a l p with
  | none => none
  | some (p, _, pa) =>
    let p := p.toL2 i.core pa true
    let old := p.readNat pa n
    let ws := srcWords w i (atomOpW o).regs d l
    let q := p.writeMem pa (bytesOf n (atomRule o old (wordsNat (ws.take (n / 4)))
      (wordsNat ((ws.drop (n / 4)).take (n / 4)))))
    let q := if returns d then q.modWarp i.core i.slot i.w (fun v => w.land v d l (oldWords o old)) else q
    if unwatched q i (gAddr w i a l) n false ∧ unwatched q i (gAddr w i a l) n true then some q else none

/-- The class of an atomic: 0 where it returns a value, else 1 (10 R238). -/
def atomClass (d : Operand) : Nat := if returns d then 0 else 1

end Sys2Proof.Claim

/-- 10 R238-R242, 04 R91, R96-R97: an atomic whose lines no other die holds within its interval is performed at L2,
acquire and release at its scope; `ld.acq` loads, at cluster scope or wider at L2 and with L1 invalid after it;
`st.rel` waits for nothing when its counters are zero, writes dirty bytes back at cluster scope or wider and then
stores. Choices of the model that it rests on: log 4. -/
def Obligations.AtomicsAndOrdered : Prop :=
  (∀ s i w g d a sc o p, Issues s i w { Form.wa g [(.atom (atomOpW o), d), (.addr, a)] with off := true } →
    counts w i (atomClass d) → s.pkg.calm = true → Drained s i → Fresh s i →
    let lines := lineSet i w a (atomBytes o) s.pkg (lanesOf (acts w i g))
    (∀ n ∈ lines, s.pkg.contended (dieOfCore i.core) n = none) →
    let q := lines.foldl (fun q n => (q.noWait (dieOfCore i.core) n).startBatch (dieOfCore i.core) n
      (i.core, i.slot, i.w, i.sp)) s.pkg
    eachLane (laneAtom i w o d a) (lanesOf (acts w i g))
      (released { q with nextId := s.pkg.nextId + 1 } i.core (wideScope sc)) = some p →
    Ends (.atom g d a sc o) s i w (acquired (countedOp p i (atomClass d) s.pkg.nextId) i.core (wideScope sc))) ∧
  (∀ s i w g d a sc wd p, Issues s i w { Form.wa g [(.ldst (widthOp wd), d), (.addr, a)] with off := true } →
    counts w i 0 → s.pkg.calm = true → Fresh s i →
    let q := if wideScope sc then (lineSet i w a (widthBytes wd) s.pkg (lanesOf (acts w i g))).foldl
      (fun p line => p.l1WriteBackLine i.core line) s.pkg else s.pkg
    eachLane (laneLoad i w (if wideScope sc then .l2 else .default) wd d a) (lanesOf (acts w i g)) (numbered q) = some p →
    Ends (.ldAcq g d a sc wd) s i w (acquired (countedOp p i 0 s.pkg.nextId) i.core (wideScope sc))) ∧
  (∀ s i w g d a sc wd p, Issues s i w { Form.wa g [(.src (widthOp wd), d), (.addr, a)] with off := true } →
    counts w i 1 → s.pkg.calm = true → Drained s i → Fresh s i → sc = .thread ∨ (w.count 0 = 0 ∧ w.count 1 = 0) →
    eachLane (laneStore i w (if wideScope sc then .l2 else .default) wd d a) (lanesOf (acts w i g))
      (released (numbered s.pkg) i.core (wideScope sc)) = some p →
    Ends (.stRel g d a sc wd) s i w (countedOp p i 1 s.pkg.nextId))

/-- 10 R243-R244, R247, 06 R143, R148, 04 R92: a fence with nothing to wait for does its parts in the order cross-path,
stash, release, acquire; `wbl` and `invl` write back, and drop, each lane's line of plain package memory and count in
class 1. -/
def Sys2Proof.Claim.FencesAndLinesRule : Prop :=
  (∀ s i w g sc (k : BitVec 5), Issues s i w (Form.wa g []) → Drained s i → w.cnt = Vector.replicate 7 0 →
    w.ops = [] →
    let p1 := acquired s.pkg i.core (k.getLsbD 2)
    let p2 := if k.getLsbD 3 = true ∧ i.w ≠ armNo then p1.stashFlush i.core i.slot else p1
    let p3 := released p2 i.core (k.getLsbD 1 && wideScope sc)
    Ends (.fence g sc k) s i w (acquired p3 i.core (k.getLsbD 0 && wideScope sc))) ∧
  (∀ s i w g sc (k : BitVec 5), Issues s i w (Form.wa g []) → w.count 6 ≠ 0 → k.getLsbD 4 = true →
    (w.split i.sp).pend = none → Waits (.fence g sc k) s i s.pkg (Wait.of (.count 6))) ∧
  (∀ s i w g a p, Issues s i w { Form.wa g [(.addr, a)] with off := true } → counts w i 1 → s.pkg.calm = true →
    (eachLane (fun l p => (reached p i (gAddr w i a l) 1 .load).map (fun r =>
        match r.2.loc with
        | some pa => if r.2.nc ∨ r.2.ver.isSome then r.1 else r.1.l1WriteBackLine i.core (pa / 256)
        | none => r.1)) (lanesOf (acts w i g)) (numbered s.pkg) = some p →
      Ends (.wbl g a) s i w (countedOp p i 1 s.pkg.nextId)) ∧
    (eachLane (fun l p => (reached p i (gAddr w i a l) 1 .load).map (fun r =>
        match r.2.loc with
        | some pa => if r.2.nc ∨ r.2.ver.isSome then r.1
            else (r.1.l1WriteBackLine i.core (pa / 256)).l1InvalidateLine i.core (pa / 256)
        | none => r.1)) (lanesOf (acts w i g)) (numbered s.pkg) = some p →
      Ends (.invl g a) s i w (countedOp p i 1 s.pkg.nextId)))

namespace Sys2Proof.Claim

open Sys2Proof.Machine

/-- A prefetch of one lane (10 R247, 25 R445, R451, R458): a cached translation fills the sector it leads to, or waits for its
home die; another waits for a page walk of the die; an address beyond 2^56 or one that does not translate is dropped. -/
def lanePrefetch (i : Issuer) (w : Warp) (pol : Policy) (a : Operand) (l : Nat) (p : Pkg) : Pkg :=
  let va := gAddr w i a l
  let later (q : Pkg) : Pkg :=
    q.modDie (dieOfCore i.core) (fun k => { k with walks := k.walks ++ [⟨i.core, ctxOf p i, va, pol⟩] })
  if 2 ^ 56 ≤ va.toNat then p
  else if p.cached i.core (ctxOf p i).asid va.toNat then
    match p.xlate i.core (ctxOf p i) va .load with
    | .error 0 => later p
    | .error _ => p
    | .ok (q, x) => (q.prefetch i.core pol x).getD (later q)
  else later p

end Sys2Proof.Claim

/-- `prf` always completes, lane after lane, and changes no register. -/
def Sys2Proof.Claim.PrefetchRule : Prop :=
  ∀ s i w g a pol, Issues s i w { Form.wa g [(.addr, a)] with off := true } →
    Ends (.prf g a pol) s i w ((lanesOf (acts w i g)).foldl (fun p l => lanePrefetch i w pol a l p) s.pkg)

/-- The rules `FencesAndLinesRule`, `PrefetchRule` together. Choices of the model that it rests on: log 4. -/
def Obligations.FencesLinesPrefetch : Prop :=
  FencesAndLinesRule ∧ PrefetchRule

/-! ## Stash windows and atomic regions (10 R245-R255) -/

namespace Sys2Proof.Claim

open Sys2Proof.Machine

/-- The low 32-bit word of one operand of the lowest lane. -/
def leadWord (w : Warp) (i : Issuer) (g : Guard) (o : Operand) : Word := src32 w i o (lead w i g)

/-- The form of an instruction that acts once per warp (12 R275). -/
def onceForm (g : Guard) (ops : List (Pos × Operand)) : Form := { Form.wa g ops with once := true }

/-- The warp gives its lanes' registers and predicates back as the open region's checkpoint has them (10 R254). -/
structure GaveBack (w v : Warp) (l : Nat) (r : Region) : Prop where
  saved : ∀ k x, r.saved.find? k = some x → v.rd k l = x
  others : ∀ k, r.saved.find? k = none → v.rd k l = w.rd k l
  preds : ∀ k : PReg, v.pred k l = r.preds.getLsbD k

/-- The issuing warp stands in the package in its place: putting it back changes nothing. So it is wherever cores, blocks
and warps are listed by rising number. -/
def Placed (p : Pkg) (i : Issuer) : Prop := p.modWarp i.core i.slot i.w (fun v => v) = p

/-- The environment in which an instruction of a split's lanes in regions is performed. -/
def regionEnv (s : State) (i : Issuer) (w : Warp) (g : Guard) : Env :=
  { is := i, arm := i.w == armNo, exec := (w.split i.sp).mask, on := acts w i g, act := acts w i g, pc := (w.split i.sp).pc
    npc := nextPc w i, lit := litOf w i, off := offOf w i, md := (w.split i.sp).pfx.md, sq := 0, qv := []
    resume := none, orig := s.pkg }

/-- The form of `ar.begin` and `ar.end`: not for handlers (23 R427). -/
def regionForm (g : Guard) : Form := { Form.w g [] with region := true, handler := false }

/-- The commit engine gets every line of a region's lock at once (10 R253, 04 R97): every die serves its directory, and no
other die holds a line of it within its interval. -/
def LocksAtOnce (s : State) (i : Issuer) (w : Warp) (g : Guard) (q : Pkg) (r : Region) : Prop :=
  s.pkg.calm = true ∧ ∃ p lock r', (regionEnv s i w g).lockOf q r = .ok (p, lock, r') ∧
    ∀ n ∈ lock, q.contended (dieOfCore i.core) n = none

/-- A commit's try on a package whose lines the region has locked, the interval of each set back and the batch of what waits there begun (04 R97). -/
def tried (s : State) (i : Issuer) (w : Warp) (g : Guard) (q : Pkg) (l : Nat) (r : Region) : Option Commit :=
  match (regionEnv s i w g).lockOf q r with
  | .ok (_, lock, _) =>
    some ((regionEnv s i w g).tryCommit (lock.foldl (fun q n =>
      (q.noWait (dieOfCore i.core) n).startBatch (dieOfCore i.core) n (i.core, i.slot, i.w, i.sp)) q) l r)
  | .error _ => none

end Sys2Proof.Claim

/-- 10 R245-R246, 04 R100: `stash.map` gives a free window number to every lane that it acts on where the window is
aligned, in the scratchpad, clear of the others and translated; `stash.wb` writes a window back, `stash.unmap` also
frees it, both in class 5; `stash.inv` drops its sectors. -/
def Obligations.StashWindows : Prop :=
  (∀ s i w g d a b id q x, Issues s i w { onceForm g [(.dst .w32, d), (.src .w128, a)] with arm := false } →
    s.pkg.block? i.core i.slot = some b → (List.range 8).find? (fun k => (b.stash.find? k).isNone) = some id →
    let ws := srcWords w i 4 a (lead w i g)
    let va := pair (ws.getD 0 0) (ws.getD 1 0)
    let off := (ws.getD 2 0).toNat
    let len := (ws.getD 3 0).toNat
    off % 4096 = 0 → va.toNat % 4096 = 0 → len % 4096 = 0 → len ≠ 0 → off + len ≤ b.spSize →
    (∀ e ∈ b.stash, overlaps off len e.2.off e.2.len = false ∧ overlaps va.toNat len e.2.va.toNat e.2.len = false) →
    s.pkg.stashMap i.core b.ctx va off len = .ok (q, x) →
    WritesIn (.stashMap g d a) s i w
      (q.modBlock i.core i.slot (fun b => { b with stash := KMap.insert id x b.stash }))
      g d 1 (one fun _ => BitVec.ofNat 32 id)) ∧
  (∀ s i w g a b, Issues s i w { onceForm g [(.src .w32, a)] with arm := false } → s.pkg.block? i.core i.slot = some b →
    let id := (leadWord w i g a).toNat
    b.stash.find? id ≠ none →
    (counts w i 5 → s.pkg.stashBarred i.core i.slot id = false →
      Ends (.stashUnmap g a) s i w (countedOp ((numbered s.pkg).stashFree i.core i.slot id) i 5 s.pkg.nextId) ∧
      Ends (.stashWb g a) s i w (countedOp ((numbered s.pkg).stashClean i.core i.slot id) i 5 s.pkg.nextId)) ∧
    Ends (.stashInv g a) s i w (s.pkg.stashForget i.core i.slot id))

/-- 10 R248-R249, R253-R255: `ar.begin` opens a region in every lane that it acts on, with an empty log, where the core
has room for them; `ar.end` and `ar.abort` of lanes without a region, and `ar.status`, simply complete. -/
def Sys2Proof.Claim.RegionOpeningRule : Prop :=
  (∀ s i w g t, Issues s i w (regionForm g) →
    s.pkg.openRegions i.core + (lanesOf (acts w i g)).length ≤ 512 →
    exec (.arBegin g t) s = .next (done s s.pkg i w { w with
      regions := (lanesOf (acts w i g)).map (fun l => (l, ⟨targetOf w i t, [], w.predBits l, [], [], [], [], [], 0⟩))
      arStat := w.arStat.filter (fun e => !(acts w i g).getLsbD e.1) })) ∧
  (∀ s i w g sc, Issues s i w (regionForm g) → Drained s i →
    Ends (.arEnd g sc) s i w (acquired (released s.pkg i.core (wideScope sc)) i.core (wideScope sc))) ∧
  (∀ s i w g a, Issues s i w { Form.w g [(.src .w32, a)] with region := true } →
    exec (.arAbort g a) s = .next (done s s.pkg i w w)) ∧
  (∀ s i w g d, Issues s i w { Form.w g [(.dst .w32, d)] with region := true } →
    Writes (.arStatus g d) s i w g d 1 (one fun l => w.arStat.getD l 0))

/-- 10 R253-R255: a region of one lane ends. `ar.end` that commits leaves the memory and registers of the commit and a
status; one that fails a check, and `ar.abort`, give the checkpoint back and leave the lane at the abort PC, its
status the reason. -/
def Sys2Proof.Claim.RegionEndingRule : Prop :=
  (∀ s i w g sc l r p, Comes s i w (regionForm g) none → w.regions = [(l, r)] →
    acts w i g = laneBit l → l < 32 → (w.split i.sp).pend = none → Placed s.pkg i → Drained s i →
    LocksAtOnce s i w g (released s.pkg i.core (wideScope sc)) r →
    tried s i w g (released s.pkg i.core (wideScope sc)) l r = some (.done p) →
    Ends (.arEnd g sc) s i w (acquired p i.core (wideScope sc))) ∧
  (∀ s i w g sc l r st q, Comes s i w (regionForm g) none → w.regions = [(l, r)] →
    acts w i g = laneBit l → l < 32 → (w.split i.sp).mask = laneBit l → (w.split i.sp).pend = none →
    r.saved.sorted = true → Placed s.pkg i → Drained s i →
    LocksAtOnce s i w g (released s.pkg i.core (wideScope sc)) r →
    tried s i w g (released s.pkg i.core (wideScope sc)) l r = some (.abort q st) →
    ∃ t v, exec (.arEnd g sc) s = .next t ∧ t.pkg.warp? i.core i.slot i.w = some v ∧ v.regions = [] ∧
      v.arStat.getD l 0 = st ∧ GaveBack w v l r ∧ (v.split i.sp).pc = r.abortPc ∧
      (v.split i.sp).mask = laneBit l ∧ (v.split i.sp).st = .ready) ∧
  (∀ s i w g a l r, Comes s i w { Form.w g [(.src .w32, a)] with region := true, tag := .own } none →
    (∃ n, a = .reg n) ∨ a = .zero ∨ a = .lit → r.tags = [] → r.saved.sorted = true →
    Form.laneFault (Form.w g [(.src .w32, a)]) w l = none →
    w.regions = [(l, r)] → acts w i g = laneBit l → l < 32 → (w.split i.sp).mask = laneBit l →
    (w.split i.sp).pend = none →
    ∃ t v, exec (.arAbort g a) s = .next t ∧ t.pkg.warp? i.core i.slot i.w = some v ∧ v.regions = [] ∧
      v.arStat.getD l 0 = BitVec.ofNat 32 ((src32 w i a l).toNat % 256 * 65536 + 0x0A) ∧ GaveBack w v l r ∧
      (v.split i.sp).pc = r.abortPc ∧ (v.split i.sp).mask = laneBit l ∧ t.pkg.mem = s.pkg.mem)

/-! ## Instructions inside atomic regions (10 R249-R252) -/

namespace Sys2Proof.Claim

open Sys2Proof.Machine

/-- An instruction of form `f` in a lane that is alone in an open region of its warp (10 R248). -/
structure InRegion (s : State) (i : Issuer) (w : Warp) (f : Form) (l : Nat) (r : Region) : Prop where
  comes : Comes s i w f none
  only : w.regions = [(l, r)]
  acts : acts w i f.guard = laneBit l
  lane : l < 32
  regs : f.laneFault w l = none
  tags : r.tags.sorted = true
  saved : r.saved.sorted = true

/-- The lane's region aborts with a status before the instruction changes memory: the checkpoint comes back and the lane
goes on at the abort PC (10 R254). -/
def RegionStops (k : Instr) (s : State) (i : Issuer) (w : Warp) (l : Nat) (r : Region) (reason index : Nat) : Prop :=
  (w.split i.sp).mask = laneBit l → (w.split i.sp).pend = none →
    ∃ t v, exec k s = .next t ∧ t.pkg.warp? i.core i.slot i.w = some v ∧ v.regions = [] ∧
      v.arStat.getD l 0 = BitVec.ofNat 32 (index * 65536 + reason) ∧ GaveBack w v l r ∧ (v.split i.sp).pc = r.abortPc ∧
      (v.split i.sp).mask = laneBit l ∧ (v.split i.sp).st = .ready ∧ t.pkg.mem = s.pkg.mem

/-- An operand that region instructions admit: a register by its number, zero or the literal (10 R249). -/
def direct (o : Operand) : Prop := (∃ n, o = .reg n) ∨ o = .zero ∨ o = .lit

/-- The registers that a direct operand of `n` registers names. -/
def regsAt (o : Operand) (n : Nat) : List Nat :=
  match o with
  | .reg r => (List.range n).map (fun k => r.val + k)
  | _ => []

/-- A tag covers one register, or two when it is of 64 bits. -/
def tagSpan (e : Nat × ArTag) : List Nat := if e.2.wide then [e.1, e.1 + 1] else [e.1]

/-- No tag meets an operand of `n` registers. -/
def untagged (r : Region) (o : Operand) (n : Nat) : Prop := ∀ e ∈ r.tags, ∀ k ∈ regsAt o n, k ∉ tagSpan e

/-- An operand of `n` registers carries exactly tag `t`. -/
def carries (r : Region) (o : Operand) (n : Nat) (t : ArTag) : Prop :=
  ∃ k, o = .reg k ∧ (k.val, t) ∈ r.tags ∧ t.wide = decide (n = 2) ∧
    ∀ e ∈ r.tags, e ≠ (k.val, t) → ∀ j ∈ regsAt o n, j ∉ tagSpan e

/-- The tag that a register destination is given. -/
def given (d : Operand) (t : ArTag) : Option (Nat × ArTag) :=
  match d with
  | .reg k => some (k.val, t)
  | _ => none

/-- A region `x` after an instruction of its lane that writes registers `rs`: the value of each that was not written before
is kept, the tags on them end, a new tag begins, and the logs are as given (10 R248-R252). -/
structure Kept (w : Warp) (l : Nat) (r : Region) (rs : List Nat) (new : Option (Nat × ArTag)) (loads : List ArLoad)
    (stores : List ArStore) (cons : List ArCon) (x : Region) : Prop where
  saved : ∀ k, x.saved.find? k = if k ∈ rs ∧ k ∉ r.written then some (w.rd k l) else r.saved.find? k
  written : ∀ k, k ∈ x.written ↔ k ∈ r.written ∨ k ∈ rs
  tags : ∀ k, x.tags.find? k = if new.map Prod.fst = some k then new.map Prod.snd else
    (r.tags.find? k).bind (fun t => if ∃ j ∈ tagSpan (k, t), j ∈ rs then none else some t)
  logs : x.loads = loads ∧ x.stores = stores ∧ x.cons = cons
  rest : x.abortPc = r.abortPc ∧ x.preds = r.preds ∧ x.tries = r.tries

/-- A region has room for the checkpoint of registers (10 R252). -/
def fits (r : Region) (rs : List Nat) : Prop := r.written.length + (rs.filter (fun k => !r.written.contains k)).length ≤ 16

/-- The equality of a load's symbol with the value that it read. -/
def equals (j : Nat) (v : DWord) : ArCon := ⟨⟨j, 0, 0, true⟩, .eq, .nat, true, v, true⟩

/-- The logs of loads and constraints once symbol `j` is concretized: its equality is recorded the first time (10 R251). -/
def pinned (r : Region) (j : Nat) : List ArLoad × List ArCon :=
  match r.loads[j]? with
  | some x => if x.eq = true then (r.loads, r.cons) else
    (r.loads.set j { x with eq := true }, r.cons ++ [equals j x.value])
  | none => (r.loads, r.cons)

/-- The instruction writes `n` words to `d` as it does outside a region, goes on at the next word, and its lane's region is
as `Kept` says, with the loads and constraints given. -/
def RegionWrites (k : Instr) (s : State) (i : Issuer) (w : Warp) (g : Guard) (d : Operand) (n l : Nat) (r : Region)
    (new : Option (Nat × ArTag)) (logs : List ArLoad × List ArCon) (val : Nat → Nat → Word) : Prop :=
  ∃ v x, v.regions = [(l, x)] ∧ Kept w l r (regsAt d n) new logs.1 r.stores logs.2 x ∧
    Wrote { w with regions := v.regions } v (acts w i g) d n val ∧ exec k s = .next (done s s.pkg i w v)

/-- The byte at an address as a region sees it: its latest own store that covers it, and memory without one (10 R250). -/
def seenByte (r : Region) (va : Nat) (m : Byte) : Byte :=
  let vals := r.loads.map (fun x => x.value)
  match r.stores.reverse.find? (fun st => decide ((st.addr vals).toNat ≤ va ∧ va < (st.addr vals).toNat + st.bytes)) with
  | some st => (st.bytesAt vals).getD (va - (st.addr vals).toNat) 0
  | none => m

/-- An access of a lane in a region reaches plain package memory: not pod-remote, NC or versioned, and not poisoned. -/
def plainPage (p : Pkg) (x : Xl) (pa : Nat) : Prop :=
  x.loc = some pa ∧ x.nc = false ∧ x.ver = none ∧ p.poisoned pa = false

/-- The form of a region's load or store. -/
def regionAccess (g : Guard) (k : Pos) (d a : Operand) : Form :=
  { Form.wa g [(k, d), (.addr, a)] with off := true, region := true, tag := .own }

/-- Some forms that no region admits: index-register forms, scratchpad accesses, 128-bit accesses, and an index register as
an operand of an admitted form (10 R249). -/
inductive NoRegion : Instr → Form → Prop where
  | ixset (g a x) : NoRegion (.ixset g a x) (Form.w g [(.src .w32, a)])
  | ixget (g d x) : NoRegion (.ixget g d x) (Form.w g [(.dst .w32, d)])
  | ldSp (g d a wd) : NoRegion (.ldSp g d a wd) { Form.wa g [(.ldst (widthOp wd), d), (.src .w32, a)] with off := true }
  | stSp (g d a wd) : NoRegion (.stSp g d a wd) { Form.wa g [(.src (widthOp wd), d), (.src .w32, a)] with off := true }
  | ld128 (g d a pol) : NoRegion (.ld g d a .w128 pol) { Form.wa g [(.ldst .w128, d), (.addr, a)] with off := true, tag := .own }
  | st128 (g d a pol) : NoRegion (.st g d a .w128 pol) { Form.wa g [(.src .w128, d), (.addr, a)] with off := true, tag := .own }
  | index (g d b x) : NoRegion (.addI32 g d (.ix x) b)
      { Form.wa g [(.dst .w32, d), (.src .w32, .ix x), (.src .w32, b)] with region := true }

/-- The forms of two sources whose results carry no tag (10 R251). -/
def rulesPlain : List (Form3 × (Word → Word → Word)) := rules32.drop 2

end Sys2Proof.Claim

/-- 10 R249-R252: the integer forms in a lane inside a region. They write what they write outside, and the region keeps the
first value of every register written. `mov`, `add`, `sub`, `addi.i32` and `shli` carry a tag as the table of R251 says; any
other read of a tagged operand records its symbol's equality, once. The seventeenth register or constraint aborts the region,
as does every form that a region does not admit; a compare of a tagged operand records what it observed. -/
def Sys2Proof.Claim.RegionArithmeticRule : Prop :=
  (∀ e ∈ rules32, ∀ s i w g d a b l r, InRegion s i w { Form.wa g [(.dst .w32, d), (.src .w32, a), (.src .w32, b)] with region := true } l r →
    direct d → direct a → direct b →
    (untagged r a 1 → untagged r b 1 → fits r (regsAt d 1) →
      RegionWrites (e.1 g d a b) s i w g d 1 l r none (r.loads, r.cons) (one fun l => e.2 (src32 w i a l) (src32 w i b l))) ∧
    (untagged r a 1 → untagged r b 1 → (∃ n, d = .reg n ∧ n.val ∉ r.written) → r.written.length = 16 →
      RegionStops (e.1 g d a b) s i w l r 0x05 16)) ∧
  (∀ e ∈ rulesPlain, ∀ s i w g d a b l r t, InRegion s i w { Form.wa g [(.dst .w32, d), (.src .w32, a), (.src .w32, b)] with region := true } l r →
    direct d → direct b → carries r a 1 t → untagged r b 1 →
    ((pinned r t.sym).2.length ≤ 16 → fits r (regsAt d 1) →
      RegionWrites (e.1 g d a b) s i w g d 1 l r none (pinned r t.sym) (one fun l => e.2 (src32 w i a l) (src32 w i b l))) ∧
    (r.cons.length = 16 → (∃ x, r.loads[t.sym]? = some x ∧ x.eq = false) → RegionStops (e.1 g d a b) s i w l r 0x04 16)) ∧
  (∀ s i w g d a l r t, InRegion s i w { Form.wa g [(.dst .w32, d), (.src .w32, a)] with region := true } l r → direct d →
    carries r a 1 t → fits r (regsAt d 1) →
    RegionWrites (.mov g d a) s i w g d 1 l r (given d t) (r.loads, r.cons) (one fun l => src32 w i a l) ∧
    (∀ k, RegionWrites (.addiI32 g d a k) s i w g d 1 l r (given d { t with c := t.c + k.signExtend 64 }) (r.loads, r.cons)
      (one fun l => BitVec.ofInt 32 ((src32 w i a l).toInt + k.toInt))) ∧
    (∀ k, t.s + k.toNat % 32 ≤ 31 → RegionWrites (.shli g d a k) s i w g d 1 l r
      (given d { t with s := t.s + k.toNat % 32, c := t.c <<< (k.toNat % 32) }) (r.loads, r.cons)
      (one fun l => BitVec.ofNat 32 ((src32 w i a l).toNat * 2 ^ (k.toNat % 32))))) ∧
  (∀ s i w g d a l r t, InRegion s i w { Form.wa g [(.dst .w64, d), (.src .w64, a)] with region := true } l r → direct d →
    carries r a 2 t → fits r (regsAt d 2) →
    RegionWrites (.mov64 g d a) s i w g d 2 l r (given d t) (r.loads, r.cons) (two fun l => src64 w i a l)) ∧
  (∀ s i w g d a b l r t, InRegion s i w { Form.wa g [(.dst .w32, d), (.src .w32, a), (.src .w32, b)] with region := true } l r →
    direct d → direct a → direct b → fits r (regsAt d 1) →
    let sum := one fun l => BitVec.ofInt 32 ((src32 w i a l).toInt + (src32 w i b l).toInt)
    (carries r a 1 t → untagged r b 1 → RegionWrites (.addI32 g d a b) s i w g d 1 l r
      (given d { t with c := t.c + (src32 w i b l).setWidth 64 }) (r.loads, r.cons) sum ∧
      RegionWrites (.subI32 g d a b) s i w g d 1 l r (given d { t with c := t.c - (src32 w i b l).setWidth 64 })
        (r.loads, r.cons) (one fun l => BitVec.ofInt 32 ((src32 w i a l).toInt - (src32 w i b l).toInt))) ∧
    (untagged r a 1 → carries r b 1 t → RegionWrites (.addI32 g d a b) s i w g d 1 l r
      (given d { t with c := t.c + (src32 w i a l).setWidth 64 }) (r.loads, r.cons) sum) ∧
    (∀ u, carries r a 1 t → carries r b 1 u → t.sym = u.sym → t.s = u.s → t.s + 1 < 32 → RegionWrites (.addI32 g d a b) s i w g
      d 1 l r (given d { t with s := t.s + 1, c := t.c + u.c }) (r.loads, r.cons) sum)) ∧
  (∀ s i w g p c a b l r t, InRegion s i w { Form.wa g [(.src .w32, a), (.src .w32, b)] with region := true, tag := .own } l r →
    direct b → carries r a 1 t → untagged r b 1 → r.cons.length < 16 →
    let ans (l : Nat) : Bool := cmpRule true c (src32 w i a l) (src32 w i b l)
    ∃ v x, v.regions = [(l, x)] ∧
      Kept w l r [] none r.loads r.stores (r.cons ++ [⟨t, c, .int, true, (src32 w i b l).setWidth 64, ans l⟩]) x ∧
      WrotePred { w with regions := v.regions } v (acts w i g) (fun k l => cdstOf p k (ans l) (w.pred k l)) ∧
      exec (.setpI32 g p c a b) s = .next (done s s.pkg i w v)) ∧
  (∀ k f s i w l r, NoRegion k f → Comes s i w f none → w.regions = [(l, r)] → acts w i f.guard = laneBit l → l < 32 →
    r.saved.sorted = true → RegionStops k s i w l r 0x07 0)

/-- 10 R250-R252: a load in a lane inside a region reads memory at L2 under the region's own stores and is logged; of 32 or
64 bits it gives its destination a new symbol, narrower it records the equality of its value. A store is logged, its address
and data as the forms that their tags say, and memory stays. A ninth load or store aborts the region, and so does a page that is
pod-remote, NC or versioned. -/
def Sys2Proof.Claim.RegionAccessesRule : Prop :=
  (∀ s i w g d a wd pol l r p x, wd ≠ .w128 → InRegion s i w (regionAccess g (.ldst (widthOp wd)) d a) l r → direct d →
    direct a → untagged r a 2 → fits r (regsAt d (widthOp wd).regs) → counts w i 0 → s.pkg.calm = true →
    reached (numbered s.pkg) i (gAddr w i a l) (widthBytes wd) .load = some (p, x) →
    (∀ pa, plainPage p x pa → r.loads.length < 8 → (∀ st ∈ r.stores, st.vtag ≠ none →
        st.va.toNat + st.bytes ≤ (gAddr w i a l).toNat ∨ (gAddr w i a l).toNat + widthBytes wd ≤ st.va.toNat) → Fresh s i →
      let q := p.toL2 i.core pa false
      let bs := (List.range (widthBytes wd)).map (fun k => seenByte r ((gAddr w i a l).toNat + k) (q.byte (pa + k)))
      let v := BitVec.ofNat 64 (ofBytes bs)
      let j := r.loads.length
      let full : Bool := wd == .w32 || wd == .w64
      unwatched q i (gAddr w i a l) (widthBytes wd) false = true → (full = false → r.cons.length < 16) →
      ∃ y, Kept w l r (regsAt d (widthOp wd).regs) (if full then given d ⟨j, 0, 0, decide (wd = .w64)⟩ else none)
          (r.loads ++ [⟨gAddr w i a l, pa, widthBytes wd, v, v, !full, r.stores.length⟩]) r.stores
          (if full then r.cons else r.cons ++ [equals j v]) y ∧
        Ends (.ld g d a wd pol) s i w (countedOp (q.modWarp i.core i.slot i.w (fun u =>
          { w.land u d l (loadWords wd bs) with regions := [(l, y)] })) i 0 s.pkg.nextId)) ∧
    (∀ pa, plainPage p x pa → 8 ≤ r.loads.length → RegionStops (.ld g d a wd pol) s i w l r 0x02 8) ∧
    (x.loc = none ∨ x.nc = true ∨ x.ver ≠ none → RegionStops (.ld g d a wd pol) s i w l r 0x08 0)) ∧
  (∀ s i w g d a wd pol l r p x, wd ≠ .w128 → InRegion s i w (regionAccess g (.src (widthOp wd)) d a) l r → direct d →
    direct a → counts w i 1 → s.pkg.calm = true →
    reached (numbered s.pkg) i (gAddr w i a l) (widthBytes wd) .store = some (p, x) →
    (∀ pa at_ dt, plainPage p x pa → r.stores.length < 8 → Fresh s i →
      (match at_ with | some t => carries r a 2 t | none => untagged r a 2) →
      (match dt with
        | some t => (wd = .w32 ∨ wd = .w64) ∧ carries r d (widthOp wd).regs t
        | none => untagged r d (widthOp wd).regs) →
      unwatched p i (gAddr w i a l) (widthBytes wd) true = true →
      let v := BitVec.ofNat 64 (ofBytes (storeBytes wd (srcWords w i (widthOp wd).regs d l)))
      let st : ArStore := ⟨at_.map (fun t => { t with c := t.c + offOf w i }), gAddr w i a l, widthBytes wd, dt, v⟩
      Ends (.st g d a wd pol) s i w (countedOp (p.modWarp i.core i.slot i.w (fun u =>
        { u with regions := [(l, { r with stores := r.stores ++ [st] })] })) i 1 s.pkg.nextId)) ∧
    (∀ pa, plainPage p x pa → 8 ≤ r.stores.length → RegionStops (.st g d a wd pol) s i w l r 0x03 8) ∧
    (x.loc = none ∨ x.nc = true ∨ x.ver ≠ none → RegionStops (.st g d a wd pol) s i w l r 0x08 0))

/-- The rules `RegionOpeningRule`, `RegionEndingRule`, `RegionArithmeticRule`, `RegionAccessesRule` together. Choices of
the model that it rests on: log 4. -/
def Obligations.AtomicRegions : Prop :=
  RegionOpeningRule ∧ RegionEndingRule ∧ RegionArithmeticRule ∧ RegionAccessesRule

/-! ## Queues (12 R276-R283) -/

namespace Sys2Proof.Claim

open Sys2Proof.Machine

/-- A form of a warp's queues, not for handlers (23 R427). -/
def qForm (g : Guard) (ops : List (Pos × Operand)) (once : Bool) : Form :=
  { Form.w g ops with once := once, handler := false }

/-- The binding that a word gives a queue for a class (12 R276). -/
def bindRule (cls : Nat) (v : Word) : Bind :=
  ⟨cls, if cls = 8 then v.toNat / 2 ^ 13 % 8 else 0, if cls = 8 then v.toNat / 2 ^ 8 % 32 else 0,
    if cls = 7 then v.toNat % 256 else 0⟩

/-- The predicate of a non-blocking form (07 R160). -/
def nbOf (w : Warp) (i : Issuer) : Option PReg := (w.split i.sp).pfx.md.bind PfxMod.nb

/-- Set or clear the non-blocking predicate of a lane, where there is one. -/
def nbMark (w : Warp) (i : Issuer) (l : Nat) (b : Bool) (p : Pkg) : Pkg :=
  match nbOf w i with
  | some k => p.modWarp i.core i.slot i.w (fun v => v.setPred k l b)
  | none => p

/-- What a lane's call meets: none where its header is ill formed or its block of registers does not exist without
poison, and else the answer of the unit or the peer (12 R280). -/
def laneCall (i : Issuer) (op q : Nat) (a : Fin 112) (l : Nat) (p : Pkg) : Option Accept :=
  match p.warp? i.core i.slot i.w with
  | none => none
  | some v =>
    let len := (v.rd a.val l).toNat / 256 % 256
    if (v.bind? q).isNone ∨ len < 2 ∨ 16 < len ∨ (v.rd (a.val + 1) l).toNat / 16 % 2 ^ 12 ≠ 0 ∨
      min v.alloc 112 < a.val + len ∨ (List.range len).any (fun k => v.rpoison.contains (32 * (a.val + k) + l)) then none
    else some (p.acceptCall i op l q ((List.range len).map (fun k => v.rd (a.val + k) l)))

/-- A lane's call is accepted through a queue. -/
def laneSend (i : Issuer) (w : Warp) (op q : Nat) (a : Fin 112) (l : Nat) (p : Pkg) : Option Pkg :=
  match laneCall i op q a l p with
  | some (.ok p) => some (nbMark w i l true p)
  | _ => none

/-- A lane of a non-blocking send from the first on that finds no room: its call is checked and not accepted (12 R283). -/
def laneTurned (i : Issuer) (w : Warp) (op q : Nat) (a : Fin 112) (l : Nat) (p : Pkg) : Option Pkg :=
  match laneCall i op q a l p with
  | some (.ok _) | some .wait => some (nbMark w i l false p)
  | _ => none

/-- Some class 3 operation is counted; at once done where its calls have completed (12 R280). -/
def countedSend (v : Warp) (op : Nat) : Warp := v.countSend op

end Sys2Proof.Claim

/-- 12 R276-R277: binding, unbinding, depth, space and draining of a queue that has no call outstanding and no record
waiting where the form needs it so. -/
def Sys2Proof.Claim.QueueControlRule : Prop :=
  (∀ s i w g q a c, Issues s i w (qForm g [(.src .w32, a)] true) →
    (w.bind? q.val = none ∨ w.queueBusy q.val = false) →
    exec (.qbind g q a c) s = .next (done s s.pkg i w
      { w with binds := KMap.insert q.val (bindRule c.val (leadWord w i g a)) w.binds })) ∧
  (∀ s i w g q, Issues s i w (qForm g [] true) → w.bind? q.val ≠ none → w.queueBusy q.val = false →
    exec (.qunbind g q) s = .next (done s s.pkg i w { w with binds := KMap.erase q.val w.binds })) ∧
  (∀ s i w g d q, Issues s i w (qForm g [(.dst .w32, d)] false) → w.bind? q.val ≠ none →
    Writes (.qdepth g d q) s i w g d 1 (one fun l => BitVec.ofNat 32 (w.retsOf q.val l).length)) ∧
  (∀ s i w g d q b, Issues s i w (qForm g [(.dst .w32, d)] true) → w.bind? q.val = some b →
    Writes (.qspace g d q) s i w g d 1 (one fun _ => BitVec.ofNat 32 (s.pkg.queueSpace i w q.val b))) ∧
  (∀ s i w g q, Issues s i w (qForm g [] true) → w.bind? q.val ≠ none →
    ((∃ c ∈ w.calls, c.q = q.val) → (w.split i.sp).pend = none →
      Waits (.qdrain g q) s i s.pkg (Wait.of (.drain q.val))) ∧
    ((∀ c ∈ w.calls, c.q ≠ q.val) → (∀ f ∈ w.callFaults, f.q ≠ q.val) →
      exec (.qdrain g q) s = .next (done s s.pkg i w w)))

/-- 12 R280-R281, R283: `qsend` whose lanes are all accepted, ascending, counts once in class 3 and goes on; the
non-blocking form accepts the lanes below the first that finds no room, sets their predicate and clears that of the others,
and accepts none while class 3 is full. `qrecv` pops a record of each lane, its sixteen words into the block of registers;
where a lane has no record it waits, and the non-blocking form receives in the lanes that have one and sets the
predicate of each lane to whether it had. -/
def Sys2Proof.Claim.QueueTransferRule : Prop :=
  (∀ s i w g (a : Fin 112) q p, Issues s i w { qForm g [(.call, .reg a)] false with nb := true } → w.count 3 < 63 →
    eachLane (laneSend i w s.pkg.nextId q.val a) (lanesOf (acts w i g)) (numbered s.pkg) = some p →
    Ends (.qsend g (.reg a) q) s i w (p.modWarp i.core i.slot i.w (fun v => countedSend v s.pkg.nextId))) ∧
  (∀ s i w g (a : Fin 112) q ls m rest p r, Issues s i w { qForm g [(.call, .reg a)] false with nb := true } →
    nbOf w i ≠ none → lanesOf (acts w i g) = ls ++ m :: rest →
    eachLane (laneSend i w s.pkg.nextId q.val a) ls (numbered s.pkg) = some p →
    eachLane (laneTurned i w s.pkg.nextId q.val a) (m :: rest) p = some r →
    (w.count 3 < 63 → laneCall i s.pkg.nextId q.val a m p = some .wait → Ends (.qsend g (.reg a) q) s i w
      (if ls = [] then r else r.modWarp i.core i.slot i.w (fun v => countedSend v s.pkg.nextId))) ∧
    (63 ≤ w.count 3 → ls = [] → Ends (.qsend g (.reg a) q) s i w r)) ∧
  (∀ s i w g (d : Fin 112) q, Issues s i w { qForm g [(.blockDst 16, .reg d)] false with nb := true } →
    w.bind? q.val ≠ none → w.callFaults = [] → (nbOf w i ≠ none ∨ ∀ l ∈ lanesOf (acts w i g), w.retsOf q.val l ≠ []) →
    ∃ v, exec (.qrecv g (.reg d) q) s = .next (done s s.pkg i w v) ∧
      (∀ l ∈ lanesOf (acts w i g), ∀ r t, w.retsOf q.val l = r :: t →
        v.retsOf q.val l = t ∧ ∀ k < 16, v.rd (d.val + k) l = r.words.getD k 0) ∧
      (∀ l < 32, ∀ r, ¬ ((acts w i g).getLsbD l = true ∧ w.retsOf q.val l ≠ [] ∧ d.val ≤ r ∧ r < d.val + 16) →
        v.rd r l = w.rd r l) ∧
      (∀ l < 32, (acts w i g).getLsbD l = false ∨ w.retsOf q.val l = [] → v.retsOf q.val l = w.retsOf q.val l) ∧
      (∀ n l, l < 32 → n ≠ q.val → v.retsOf n l = w.retsOf n l) ∧
      (∀ k, nbOf w i = some k → ∀ l ∈ lanesOf (acts w i g), v.pred k l = !(w.retsOf q.val l).isEmpty) ∧
      v.xs = w.xs ∧ v.cnt = w.cnt ∧ v.fpflags = w.fpflags ∧ v.binds = w.binds ∧ v.splits = w.splits) ∧
  (∀ s i w g d q, Issues s i w { qForm g [(.blockDst 16, d)] false with nb := true } → w.bind? q.val ≠ none →
    (∃ l ∈ lanesOf (acts w i g), w.retsOf q.val l = []) → nbOf w i = none → (w.split i.sp).pend = none →
    Waits (.qrecv g d q) s i s.pkg (Wait.of (.queue q.val)))

/-- The rules `QueueControlRule`, `QueueTransferRule` together. -/
def Obligations.Queues : Prop :=
  QueueControlRule ∧ QueueTransferRule

namespace Sys2Proof.Claim

open Sys2Proof.Machine

/-- A source that is neither a queue nor `sq`. -/
def plainSrc (o : Operand) : Prop := (∀ n, o ≠ .q n) ∧ o ≠ .sq

/-- The next word of a lane's oldest return record (12 R282). -/
def headWord (w : Warp) (q l : Nat) : Word :=
  match w.retsOf q l with
  | r :: _ => r.words.getD r.read 0
  | [] => 0

/-- A lane's records once that word was read: the cursor goes on, and after the last word the record is popped. -/
def advanced : List RetRec → List RetRec
  | [] => []
  | r :: t => if r.read + 1 < (r.words.getD 0 0).toNat / 256 % 256 then { r with read := r.read + 1 } :: t else t

/-- A lane's send buffer with one more word, that neither completes the header nor the record (12 R282). -/
def shortSend (w : Warp) (q l : Nat) (v : Word) : Prop :=
  let ws := w.sbuf.getD (32 * q + l) [] ++ [v]
  ws.length = 1 ∨ (2 < ws.length ∧ ws.length ≠ (ws.getD 0 0).toNat / 256 % 256)

end Sys2Proof.Claim

/-- 12 R282, 02 R37, 07 R164-R165: a queue as a source gives each lane the next word of its oldest record, `sq` gives
every lane the entry at the warp's cursor, read once, and both wait while there is none; a queue as a destination
appends each lane's result to its send buffer. Stated for the 32-bit integer forms. -/
def Obligations.QueueOperands : Prop :=
  ∀ e ∈ rules32, ∀ s i w g,
    (∀ d b q, plainSrc d → plainSrc b →
      Checked s i w (Form.wa g [(.dst .w32, d), (.src .w32, .q q), (.src .w32, b)]) none → w.bind? q.val ≠ none →
      ((∀ l ∈ lanesOf (acts w i g), w.retsOf q.val l ≠ []) → w.callFaults = [] →
        ∃ v, exec (e.1 g d (.q q) b) s = .next (done s s.pkg i w v) ∧
          Wrote { w with rets := v.rets } v (acts w i g) d 1 (one fun l => e.2 (headWord w q.val l) (src32 w i b l)) ∧
          ∀ n, ∀ l < 32, v.retsOf n l =
            if (acts w i g).getLsbD l = true ∧ n = q.val then advanced (w.retsOf n l) else w.retsOf n l) ∧
      ((∃ l ∈ lanesOf (acts w i g), w.retsOf q.val l = []) → (w.split i.sp).pend = none →
        Waits (e.1 g d (.q q) b) s i s.pkg (Wait.of (.queue q.val)))) ∧
    (∀ d b bl, plainSrc d → plainSrc b →
      Checked s i w (Form.wa g [(.dst .w32, d), (.src .w32, .sq), (.src .w32, b)]) none → i.w ≠ armNo → w.live ≠ 0 →
      s.pkg.block? i.core i.slot = some bl → bl.warps.find? armNo ≠ none → bl.feedBase ≤ w.feedCur →
      (∀ x, bl.feed[w.feedCur - bl.feedBase]? = some x → ∃ v f c,
        exec (e.1 g d .sq b) s = .next (done s
          (s.pkg.modBlock i.core i.slot (fun y => { y with feed := f, feedBase := c })) i w v) ∧
        Wrote { w with feedCur := w.feedCur + 1 } v (acts w i g) d 1 (one fun l => e.2 x (src32 w i b l)) ∧
        bl.feedBase ≤ c ∧ c ≤ w.feedCur + 1 ∧ f = bl.feed.drop (c - bl.feedBase)) ∧
      (bl.feed[w.feedCur - bl.feedBase]? = none → bl.armEnded = false → (w.split i.sp).pend = none →
        Waits (e.1 g d .sq b) s i s.pkg (Wait.of .feed))) ∧
    (∀ a b q, plainSrc a → plainSrc b →
      Checked s i w (Form.wa g [(.dst .w32, .q q), (.src .w32, a), (.src .w32, b)]) none → w.bind? q.val ≠ none →
      (∀ l ∈ lanesOf (acts w i g), shortSend w q.val l (e.2 (src32 w i a l) (src32 w i b l))) →
      ∃ v, exec (e.1 g (.q q) a b) s = .next (done s { s.pkg with nextId := s.pkg.nextId + 1 } i w v) ∧
        v = { w with sbuf := v.sbuf } ∧ ∀ n, ∀ l < 32, v.sbuf.getD (32 * n + l) [] =
          if (acts w i g).getLsbD l = true ∧ n = q.val
          then w.sbuf.getD (32 * n + l) [] ++ [e.2 (src32 w i a l) (src32 w i b l)]
          else w.sbuf.getD (32 * n + l) [])

/-! ## Copies and collectives (12 R287-R296) -/

namespace Sys2Proof.Claim

open Sys2Proof.Machine

/-- The copy forms with their function codes (12 R287). -/
noncomputable def copyForms : List (Nat × (Guard → Operand → Operand → Instr)) :=
  [(0, .cpG2s), (1, .cpS2g), (2, .cpG2g), (3, .cpS2s), (4, .cpMcast), (5, .cpTile2d)]

/-- The collective forms with their function codes (12 R294). -/
noncomputable def collForms : List (Nat × (Guard → Operand → Operand → Instr)) :=
  [(0, .collHalo), (1, .collAllred), (2, .collA2a), (3, .collRs), (4, .collAg)]

/-- The n-th handle of a warp, n from 1: it skips 0 when it wraps (12 R291). -/
def handleRule (n : Nat) : Nat := (n - 1) % (2 ^ 32 - 1) + 1

/-- The producer of the block issues a copy form. -/
structure Produces (s : State) (i : Issuer) (w : Warp) (g : Guard) (ops : List (Pos × Operand)) (b : Block) : Prop where
  issues : Issues s i w { onceForm g ops with handler := false }
  block : s.pkg.block? i.core i.slot = some b
  right : s.pkg.isProducer b i.w = true

end Sys2Proof.Claim

/-- 12 R287-R291: a copy of the producer that finds an engine entry and passes its checks is held by the engine with
the next handle, which every lane receives; one of no bytes is complete at once. `cp.seal` closes the open batch as one
operation of class 2, complete at once when no copy of it is left; `cp.wptr` reads how far a copy came. A copy without
a free entry waits. -/
def Sys2Proof.Claim.CopiesRule : Prop :=
  (∀ e ∈ copyForms, ∀ s i w g d a b, Produces s i w g [(.dst .w32, d), (.block 8, a)] b →
    (∀ rsv, s.pkg.copyEntry i = some rsv →
      let h := handleRule (w.copySeq + 1)
      let y := Copy.ofWords e.1 i b.ctx h w.wver rsv (srcWords w i 8 a (lead w i g))
      let p := s.pkg.modWarp i.core i.slot i.w (fun w => { w with copySeq := w.copySeq + 1 })
      s.pkg.copyFault y = none →
      (y.len * y.rows ≠ 0 → WritesIn (e.2 g d a) s i w ({ p with nextId := s.pkg.nextId + 1 }.modCore i.core (fun k =>
          { k with copies := KMap.insert s.pkg.nextId y k.copies })) g d 1 (one fun _ => BitVec.ofNat 32 h)) ∧
      (y.len * y.rows = 0 → WritesIn (e.2 g d a) s i w (p.modWarp i.core i.slot i.w (fun w => w.noteCopy h 0)) g d 1
          (one fun _ => BitVec.ofNat 32 h))) ∧
    (s.pkg.copyEntry i = none → (w.split i.sp).pend = none →
      Waits (e.2 g d a) s i s.pkg (Wait.of .engine))) ∧
  (∀ s i w g b, Produces s i w g [] b → w.count 2 < 63 →
    let n := s.pkg.nextId
    let p : Pkg := { s.pkg with
      nextId := n + 1
      cores := s.pkg.cores.map (fun k => (k.1, { k.2 with copies := k.2.copies.map (fun y => (y.1,
        if y.2.home = none ∧ y.2.ocore = i.core ∧ y.2.slot = i.slot ∧ y.2.w = i.w ∧ y.2.batch = none then
          { y.2 with batch := some n } else y.2)) })) }
    let q := p.modWarp i.core i.slot i.w (fun w =>
      { w.modCount 2 (· + 1) with ops := w.ops ++ [⟨2, n, false, w.batchFaults⟩], batchFaults := [] })
    Ends (.cpSeal g) s i w (if q.batchOpen n then q else q.modWarp i.core i.slot i.w (fun w => w.doneOp 2 n []))) ∧
  (∀ s i w g d a b, Produces s i w g [(.dst .w32, d), (.src .w32, a)] b →
    Writes (.cpWptr g d a) s i w g d 1 (one fun _ => BitVec.ofNat 32 (s.pkg.copyPtr i w (leadWord w i g a).toNat)))

/-- 06 R142, 12 R293: `wait.cnt` waits while the counter of its class is above its threshold, and goes on otherwise;
completed operations of the classes of engines are taken off the list, and none of them had a fault. The armature
counts classes 2, 4 and 6 only, and class 7 counts nothing. -/
def Sys2Proof.Claim.WaitCountersRule : Prop :=
  (∀ s i w g (c : BitVec 3) (t : BitVec 5), Issues s i w (Form.wa g []) →
    i.w ≠ armNo ∨ c = 2 ∨ c = 4 ∨ c = 6 → t.toNat < w.count c.toNat → (w.split i.sp).pend = none →
    Waits (.waitCnt g c t) s i s.pkg (Wait.of (.count c.toNat))) ∧
  (∀ s i w g (c : BitVec 3) (t : BitVec 5), Issues s i w (Form.wa g []) →
    (i.w = armNo ∧ c ≠ 2 ∧ c ≠ 4 ∧ c ≠ 6) ∨ w.count c.toNat ≤ t.toNat → w.callFaults = [] →
    (∀ o ∈ w.ops, o.faults = []) →
    exec (.waitCnt g c t) s = .next (done s s.pkg i w
      (if c = 2 ∨ c = 4 ∨ c = 6 then (w.takeCharges c.toNat).2 else w)))

/-- The rules `CopiesRule`, `WaitCountersRule` together. -/
def Obligations.CopiesAndWaits : Prop :=
  CopiesRule ∧ WaitCountersRule

/-- 12 R294, R296: a collective whose descriptor is well formed and whose group is valid is accepted with the next
handle and counts in class 4; every lane receives the handle. `coll.test` tells whether a handle's collective is
complete. -/
def Obligations.Collectives : Prop :=
  (∀ e ∈ collForms, ∀ s i w g d a b o q bs r, Issues s i w (onceForm g [(.dst .w32, d), (.src .w32, a)]) →
    w.count 4 < 63 → s.pkg.block? i.core i.slot = some b →
    s.pkg.spAddr i.core i.slot (leadWord w i g a) 64 = .ok (i.core, i.slot, o) →
    NoTile s i → s.pkg.spRead i.core i.slot o 64 (i.w == armNo) = .ok (q, bs) →
    let ds : List Word := (List.range 16).map (fun k => BitVec.ofNat 32 (recNat bs (4 * k) 4))
    let h := handleRule (w.collSeq + 1)
    collBad e.1 ds = false → (q.group (collGroup ds)).valid = true → q.isFrozen 3 (collGroup ds % 2) = false →
    ({ q with nextId := q.nextId + 1 } : Pkg).acceptColl (masterOf xdie (3, splitMaster i.core i.slot i.w i.sp)) q.nextId
      (Coll.ofDesc e.1 i.core i.slot i.w b.ctx h w.wver false q.nextId ds) = .ok r →
    WritesIn (e.2 g d a) s i w (r.modWarp i.core i.slot i.w (fun w =>
      { w with collSeq := w.collSeq + 1 }.beginOp 4 q.nextId false)) g d 1 (one fun _ => BitVec.ofNat 32 h)) ∧
  (∀ s i w g d a, Issues s i w (onceForm g [(.dst .w32, d), (.src .w32, a)]) →
    Writes (.collTest g d a) s i w g d 1
      (one fun _ => if s.pkg.collTested i w (leadWord w i g a).toNat = true then 1 else 0))

/-! ## Traversal stacks and the matrix unit (12 R297-R298, 11 R258-R271) -/

namespace Sys2Proof.Claim

open Sys2Proof.Machine

/-- Offset of a lane's place k of its traversal stack (12 R297). -/
def stkPlace (v : Warp) (k l : Nat) : Nat := v.stkBase.toNat + k * 256 + l * 8

/-- A push of one lane (12 R298): the value is written at the lane's top; a full stack loses its bottom entry and is
marked. -/
def lanePush (i : Issuer) (w : Warp) (a : Operand) (l : Nat) (p : Pkg) : Option Pkg :=
  match p.warp? i.core i.slot i.w with
  | none => none
  | some v =>
    match p.spWrite i.core i.slot (stkPlace v (v.stkTop.getD l 0) l) (bytesOf 8 (src64 w i a l).toNat) with
    | .error _ => none
    | .ok q => some (q.modWarp i.core i.slot i.w (fun x => { x with
        stkTop := x.stkTop.setD l ((v.stkTop.getD l 0 + 1) % x.stkCap) 0
        stkDepth := if v.stkDepth.getD l 0 < x.stkCap then x.stkDepth.setD l (v.stkDepth.getD l 0 + 1) 0 else x.stkDepth
        stkOvf := if v.stkDepth.getD l 0 < x.stkCap then x.stkOvf else x.stkOvf ||| laneBit l }))

/-- A read of one lane's top, which a pop removes; all ones from an empty stack (12 R298). -/
def laneTop (pop : Bool) (i : Issuer) (d : Operand) (l : Nat) (p : Pkg) : Option Pkg :=
  let write (x : Warp) (n : DWord) : Warp := match x.regOf d l with | some r => x.wr64 r l n | none => x
  match p.warp? i.core i.slot i.w with
  | none => none
  | some v =>
    let top := (v.stkTop.getD l 0 + v.stkCap - 1) % v.stkCap
    if v.stkDepth.getD l 0 = 0 then
      some (p.modWarp i.core i.slot i.w (fun x => write x 0xFFFFFFFFFFFFFFFF))
    else
      match p.spRead i.core i.slot (stkPlace v top l) 8 with
      | .error _ => none
      | .ok (q, bs) => some (q.modWarp i.core i.slot i.w (fun x =>
          let x := write x (BitVec.ofNat 64 (ofBytes bs))
          if pop then { x with stkTop := x.stkTop.setD l top 0, stkDepth := x.stkDepth.setD l (v.stkDepth.getD l 0 - 1) 0 }
          else x))

end Sys2Proof.Claim

/-- 12 R297-R298: a warp's traversal stacks: `stk.init` empties them at an aligned base with a capacity of 1 to 64;
`stk.push`, `stk.pop` and `stk.top` act on each lane's own; `stk.depth` reads the depth with OVF in bit 31. -/
def Obligations.TraversalStacks : Prop :=
  (∀ s i w g d a b, Issues s i w { onceForm g [(.src .w32, d), (.src .w32, a)] with arm := false } →
    s.pkg.block? i.core i.slot = some b →
    let base := leadWord w i g a
    let cap := (leadWord w i g d).toNat
    base.toNat < 2 ^ 21 → base.toNat % 256 = 0 → 1 ≤ cap → cap ≤ 64 → base.toNat + cap * 256 ≤ b.spSize →
    exec (.stkInit g d a) s = .next (done s s.pkg i w
      { w with stkBase := base, stkCap := cap, stkDepth := [], stkTop := [], stkOvf := 0 })) ∧
  (∀ s i w g a p, Issues s i w (Form.w g [(.src .w64, a)]) → w.stkCap ≠ 0 → s.pkg.calm = true →
    eachLane (lanePush i w a) (lanesOf (acts w i g)) s.pkg = some p → Ends (.stkPush g a) s i w p) ∧
  (∀ s i w g d p, Issues s i w (Form.w g [(.dst .w64, d)]) → w.stkCap ≠ 0 → s.pkg.calm = true →
    (eachLane (laneTop true i d) (lanesOf (acts w i g)) s.pkg = some p → Ends (.stkPop g d) s i w p) ∧
    (eachLane (laneTop false i d) (lanesOf (acts w i g)) s.pkg = some p → Ends (.stkTop g d) s i w p)) ∧
  (∀ s i w g d, Issues s i w (Form.w g [(.dst .w32, d)]) → w.stkCap ≠ 0 →
    Writes (.stkDepth g d) s i w g d 1 (one fun l =>
      BitVec.ofNat 32 (w.stkDepth.getD l 0 + (if w.stkOvf.getLsbD l then 2 ^ 31 else 0))))

namespace Sys2Proof.Claim

open Sys2Proof.Machine

/-- The package from which a matrix instruction is issued, where its block holds the unit with room or may take it
next (11 R259, R271). -/
def mxReady (p : Pkg) (i : Issuer) : Option Pkg :=
  let m := (p.core i.core).mx
  match m.owner with
  | some o => if o = i.slot ∧ m.ops.length < 8 then some p else none
  | none => if m.waiters.headD i.slot = i.slot then
      some (p.modMx i.core (fun m => { m with waiters := m.waiters.filter (· != i.slot) })) else none

/-- The unit with an operation issued: the block owns it, and what a change does to it as the block sees it. -/
def mxBegun (p : Pkg) (i : Issuer) (op : MxOp) (f : Matrix → Matrix) : Pkg :=
  p.modMx i.core (fun m =>
    let x := f { m.seenBy i.slot with owner := some i.slot, waiters := m.waiters }
    { x with ops := x.ops ++ [op] })

/-- The armature's form with a descriptor. -/
def mxOps (g : Guard) (ops : List (Pos × Operand)) : Form := { Form.wa g ops with warp := false }

/-- A word of the descriptor at an offset: the 4 bytes that stand there; where a copy in flight writes them, what stands
there or what the copy's source holds, by a free choice (11 R272, 19 R401). -/
def DescWord (p : Pkg) (i : Issuer) (b : Block) (ad k : Nat) (x : Word) : Prop :=
  let now : Word := BitVec.ofNat 32 (ofBytes (b.readSp (ad + 4 * k) 4))
  match p.copyAhead i.core i.slot (ad + 4 * k) with
  | none => x = now
  | some new => x = now ∨ x = BitVec.ofNat 32 (ofBytes new)

/-- The descriptor that operand a names, at offset `ad`, lies aligned in the block's scratchpad outside its stash windows and
outside tiles that are being written; d names a panel (11 R262-R264, 04 R103). -/
structure DescribedBy (s : State) (w : Warp) (i : Issuer) (g : Guard) (d a : Operand) (b : Block) (cvt : Bool) (ad : Nat) :
    Prop where
  at_ : (leadWord w i g a).toNat = ad
  fits : ad % 64 = 0 ∧ ad < 2 ^ 21 ∧ ad + 64 ≤ b.spSize
  clear : ∀ e ∈ b.stash, rangesMeet (ad, 64) (e.2.off, e.2.len) = false
  step : (leadWord w i g d).toNat / 2 ^ 16 % 2 ^ 14 = 0 ∧ (cvt = true ∨ (leadWord w i g d).getLsbD 30 = false)
  whole : ∀ o ∈ (s.pkg.core i.core).mx.ops, o.slot = i.slot → o.writes = true → ∀ r ∈ o.scale :: o.rows,
    ¬(ad < r.1 + r.2.length ∧ r.1 < ad + 64)

/-- The scales of a range, when there are any. -/
def scaleOf (b : Block) (t : Desc) (r : Nat × Nat) : Nat × List Byte := if t.sblk = 0 then (0, []) else (r.1, b.readSp r.1 r.2)

/-- An operation over rows and scales; it is marked when one of them, or its descriptor at `ad`, is poisoned. -/
def opOf (i : Issuer) (b : Block) (form ad : Nat) (st : Word) (ws : List Word) (rows : List (Nat × List Byte)) (scale : Nat × List Byte)
    (reads : Bool) : MxOp :=
  ⟨i.slot, form, st, ws, rows, scale,
    b.spPoisoned ad 64 || (reads && (scale :: rows).any (fun r => b.spPoisoned r.1 r.2.length))⟩

/-- Every byte that an operation captured stands so in the block. -/
def Unchanged (b : Block) (op : MxOp) : Prop :=
  ∀ r ∈ op.scale :: op.rows, ∀ k < r.2.length, b.spByte (r.1 + k) = r.2.getD k 0

end Sys2Proof.Claim

/-- 11 R259, R264-R269, R271: the instructions of the matrix unit, issued by the armature that holds the unit or takes
it, on a descriptor that passes the checks, whose words are read at issue. Each is one operation of the unit, which captures
the rows and scales that it reads, or the tile that it writes (that it captures them then is the model's choice, log 86); on issue `mload.b` sets the format of the tile, `mma` the kind of its accumulator, `mzero`
and a loading `mcvt` the kind that they leave. `MatrixOperations` says what the operations do. -/
def Sys2Proof.Claim.MatrixUnitRule : Prop :=
  (∀ s i w g d a b ad q, Issues s i w (mxOps g [(.src .w32, d), (.src .w32, a)]) → s.pkg.block? i.core i.slot = some b →
    mxReady s.pkg i = some q →
    let st := leadWord w i g d
    let ws := q.descWords i.core i.slot b ad
    let t := descOf ws st
    let m := (q.core i.core).mx.seenBy i.slot
    let kind := (m.acc (st.getLsbD 31)).2
    (∀ k < 16, DescWord q i b ad k (ws.getD k 0)) ∧
    (DescribedBy s w i g d a b false ad → t.loadOk b = true →
      let rows := b.rowsAt t.brange.1 (t.off 5) t.brow (fmtK t.fmt)
      Ends (.mloadB g d a) s i w (mxBegun q i (opOf i b 0 ad st ws rows (scaleOf b t t.bsrange) true) (fun m =>
        { m with bfmt := some (t.fmt + 16 * t.sblk) }))) ∧
    (DescribedBy s w i g d a b false ad → t.mmaOk b = true → m.bfmt = some (t.fmt + 16 * t.sblk) →
      kind = .none ∨ kind = fmtKind t.fmt →
      let rows := b.rowsAt t.arange.1 (t.off 2) t.arow t.rows
      Ends (.mma g d a) s i w (mxBegun q i (opOf i b 1 ad st ws rows (scaleOf b t t.asrange) true) (fun m =>
        m.setKind (st.getLsbD 31) (fmtKind t.fmt)))) ∧
    (DescribedBy s w i g d a b true ad → t.cvtOk b = true → cvtStateOk t (st.getLsbD 30) kind = true →
      let rows := b.rowsAt t.crange.1 (t.off 8) t.crow t.rows
      Ends (.mcvt g d a) s i w (mxBegun q i (opOf i b 3 ad st ws rows (0, []) (st.getLsbD 30)) (fun m =>
        if st.getLsbD 30 = true then m.setKind (st.getLsbD 31) (fmtKind t.fmt) else m)))) ∧
  (∀ s i w g d q, Issues s i w (mxOps g [(.src .w32, d)]) → mxReady s.pkg i = some q →
    Ends (.mzero g d) s i w (mxBegun q i ⟨i.slot, 2, leadWord w i g d, [], [], (0, []), false⟩ (fun m =>
      m.setKind ((leadWord w i g d).getLsbD 31) .none)))

/-- 11 R265-R268, R271: the unit performs its oldest operation, on operands that stand as it captured them and hold no
poison: `mload.b` loads the tile and its scales; `mma` adds products to an accumulator and keeps the last rows of A; `mzero`
empties an accumulator; `mcvt` moves one from scratchpad, or writes one there, of whose bytes other parties may read the old
values until they become visible (06 R150; when they do is free, log 86). -/
def Sys2Proof.Claim.MatrixOperationsRule : Prop :=
  (∀ s core op rest b, (s.pkg.core core).mx.ops = op :: rest → s.pkg.block? core op.slot = some b → op.bad = false →
    op.writes = false → Unchanged b op → b.rowsPoisoned (op.scale :: op.rows) = false →
    let t := descOf op.words op.step
    let one := op.step.getLsbD 31
    let rows := op.rows.map (fun x => ofBytes x.2)
    let after (f : Matrix → Matrix) : Host.Outcome State Fault Refusal :=
      .next { s with pkg := s.pkg.modMx core (fun m => { f m with ops := rest }) }
    (op.form = 0 → exec (.matrixOpComplete core) s = after (fun m => { m with
      btile := cells t.fmt 192 192 rows, bscale := sparse (· == 0) (op.scale.2.zipIdx.map (fun v => (v.2, v.1))) })) ∧
    (op.form = 1 → exec (.matrixOpComplete core) s = after (fun m =>
      { m.setAcc one (m.mma t op.scale.2 (m.acc one).1 rows) with
        rowbuf := cells t.fmt 256 (fmtK t.fmt) (rows.drop (rows.length - 2)) })) ∧
    (op.form = 2 → exec (.matrixOpComplete core) s = after (fun m => m.setAcc one [])) ∧
    (op.form = 3 → op.step.getLsbD 30 = true → exec (.matrixOpComplete core) s = after (fun m => m.setAcc one (t.loadAcc rows)))) ∧
  (∀ s core op rest b, (s.pkg.core core).mx.ops = op :: rest → s.pkg.block? core op.slot = some b → op.bad = false →
    op.writes = true →
    let t := descOf op.words op.step
    let held := ((s.pkg.core core).mx.acc (op.step.getLsbD 31)).1
    let width := if t.raw then (if fmtKind t.fmt = .f64 then 64 else 32) else fmtBits t.dfmt
    let start (m : Nat) : Nat := t.crange.1 + m * t.off 8
    let value (m n : Nat) : Nat :=
      let v := held.getD (192 * m + n) 0
      if t.raw then v.toNat else cvtOut (fmtKind t.fmt) t.dfmt t.satm v
    t.crow ≤ t.off 8 → op.rows.map (fun r => (r.1, r.2.length)) = (List.range t.rows).map (fun m => (start m, t.crow)) →
    ∃ q c, exec (.matrixOpComplete core) s = .next { s with pkg := q } ∧ q.block? core op.slot = some c ∧
      (∀ m < t.rows, c.readSp (start m) t.crow = bytesOf t.crow (packRow width ((List.range 192).map (value m)))) ∧
      (∀ x, (∀ m < t.rows, ¬ (start m ≤ x ∧ x < start m + t.crow)) → c.spByte x = b.spByte x) ∧
      (∀ m < t.rows, ∀ k < t.crow, c.unwaited.find? (start m + k) = some (b.spByte (start m + k))) ∧
      (q.core core).mx.ops.length = rest.length)

/-- 02 R37, 11 R258, R270-R271: `sq.push` appends a word to the block's feed queue while fewer than 64 entries are
unretired, and waits otherwise; `arm.wait` waits for the operations of its block in the unit, and then what they wrote is
there for every party. -/
def Sys2Proof.Claim.ArmatureControlRule : Prop :=
  (∀ s i w g a b, Issues s i w (mxOps g [(.src .w32, a)]) → s.pkg.block? i.core i.slot = some b →
    Drained s i → (b.feed.length < 64 → Ends (.sqPush g a) s i w (s.pkg.modBlock i.core i.slot (fun c =>
      { c with feed := c.feed ++ [leadWord w i g a] }.retireFeed))) ∧
    (64 ≤ b.feed.length → (w.split i.sp).pend = none → Waits (.sqPush g a) s i s.pkg (Wait.of .feed))) ∧
  (∀ s i w g, Issues s i w (mxOps g []) →
    ((∀ o ∈ (s.pkg.core i.core).mx.ops, o.slot ≠ i.slot) → Ends (.armWait g) s i w
      (s.pkg.modBlock i.core i.slot (fun c => { c with unwaited := [] }))) ∧
    ((∃ o ∈ (s.pkg.core i.core).mx.ops, o.slot = i.slot) → (w.split i.sp).pend = none →
      Waits (.armWait g) s i s.pkg (Wait.of .engine)))

/-- The rules `MatrixUnitRule`, `MatrixOperationsRule`, `ArmatureControlRule` together. Choices of the model that it rests
on: log 35, 86. -/
def Obligations.MatrixAndArmature : Prop :=
  MatrixUnitRule ∧ MatrixOperationsRule ∧ ArmatureControlRule

/-! ## Exceptions (23 R413-R421, 24 R433-R436) -/

namespace Sys2Proof.Claim

open Sys2Proof.Machine

/-- A trap is taken in a running block (23 R413, R416-R420): the warp stops with the record, but for a split whose store
waits for its copy; the halt reaches every other live warp and the armature, and one that holds a pending record stops with
it; the block halts with the disposition of its queue; memory does not change. -/
structure Took (s t : State) (i : Issuer) (b : Block) (r : Pend) : Prop where
  block : ∃ c, t.pkg.block? i.core i.slot = some c ∧ c.mode = .halting i.w (s.pkg.dispOf b) ∧ c.trapped = true ∧
    ∀ n x, n ≠ i.w → b.warps.find? n = some x → x.live ≠ 0 → x.halt = .running →
      ∃ y, c.warps.find? n = some y ∧ (x.regions = [] → y.regs = x.regs) ∧
        y.halt = (if x.ownPend.isSome then .stopped else .reached 0 (s.pkg.die (i.core / 96)).cyc)
  warp : ∃ v, t.pkg.warp? i.core i.slot i.w = some v ∧ v.halt = .stopped ∧ v.frec.cause = r.cause ∧
    v.frec.split = i.sp ∧ v.frec.warp = recWarp i.w ∧ v.frec.lanes = r.lanes ∧ v.frec.pc = (s.pkg.origPc b i.w r.pc).1 ∧
    v.frec.addr = r.addr ∧ v.frec.aux = r.aux ∧ v.frec.origin = true ∧ v.frec.imprecise = false ∧
    (∀ x ∈ v.splits, x.st = .free ∨ x.st = .stopped ∨ x.inCow = true)
  mem : t.pkg.mem = s.pkg.mem

/-- The issuing block runs, no record of the warp's splits is pending, and the warp's own is not of an imprecise fault. -/
structure MayTrap (s : State) (i : Issuer) (w : Warp) (b : Block) : Prop where
  block : s.pkg.block? i.core i.slot = some b
  running : b.mode = .running
  clear : ∀ x ∈ w.splits, x.pend = none
  precise : w.frec.imprecise = false

end Sys2Proof.Claim

/-- 12 R299, 23 R413-R419: `trap` and `brkpt` raise causes 0x1F and 0x20 in every lane that they act on. On the
armature, and where those are all the lanes of the split, the trap is taken at once; else the split goes on without
them and the record is pending. ADDR is the operand of the lowest lane, AUX the function code, 0xFF for `brkpt`.
On the armature the selectors of `gets` and `sets` that 07 R173 excludes raise cause 0x06 (24 R442). -/
def Obligations.TrapInstructions : Prop :=
  ∀ s i w g b, MayTrap s i w b → w.regions = [] →
    (∀ a c, Issues s i w { Form.wa g [(.src .w32, a)] with once := true } →
      let r : Pend := ⟨0x1F, (w.split i.sp).pc, nextPc w i, (src32 w i a (lead w i g)).setWidth 64, acts w i g,
        c.setWidth 16, false⟩
      (i.w = armNo ∨ acts w i g = (w.split i.sp).mask → ∃ t, exec (.trap g a c) s = .next t ∧ Took s t i b r) ∧
      (i.w ≠ armNo → acts w i g ≠ (w.split i.sp).mask →
        exec (.trap g a c) s = .next (done s s.pkg i w { w with splits := w.splits.modify i.sp (fun x =>
          { x with mask := x.mask &&& ~~~(acts w i g), pend := some r }) }))) ∧
    (Issues s i w (Form.wa g []) →
      let r : Pend := ⟨0x20, (w.split i.sp).pc, nextPc w i, 0, acts w i g, 0xFF, false⟩
      (i.w = armNo ∨ acts w i g = (w.split i.sp).mask → ∃ t, exec (.brkpt g) s = .next t ∧ Took s t i b r) ∧
      (i.w ≠ armNo → acts w i g ≠ (w.split i.sp).mask →
        exec (.brkpt g) s = .next (done s s.pkg i w { w with splits := w.splits.modify i.sp (fun x =>
          { x with mask := x.mask &&& ~~~(acts w i g), pend := some r }) }))) ∧
    (i.w = armNo → ∀ o,
      let r : Pend := ⟨0x06, (w.split i.sp).pc, nextPc w i, 0, acts w i g, 0, false⟩
      (Issues s i w (Form.wa g [(.dst .w32, o)]) → ∀ x ∈ [GetsSel.lane, .split, .fpflags, .fpmode, .fptrap],
        ∃ t, exec (.gets g o x) s = .next t ∧ Took s t i b r) ∧
      (Issues s i w (Form.wa g [(.src .w32, o)]) → ∀ x, x ≠ .wver →
        ∃ t, exec (.sets g o x) s = .next t ∧ Took s t i b r))

namespace Sys2Proof.Claim

open Sys2Proof.Machine

/-- A split with lanes issues a word. -/
structure AtWord (s : State) (i : Issuer) (w : Warp) : Prop where
  cur : s.cur = some i
  here : s.pkg.warp? i.core i.slot i.w = some w
  lanes : (w.split i.sp).mask ≠ 0

/-- The prefix run of the issuing split becomes `x`, one word longer; nothing else changes and the PC stays at the
run's first word (07 R162-R163). -/
def joined (s : State) (i : Issuer) (w : Warp) (x : Pfx) : State :=
  { s with pkg := s.pkg.modWarp i.core i.slot i.w (fun v => { v with splits := v.splits.modify i.sp (fun y =>
      { y with pfx := { x with words := (w.split i.sp).pfx.words + 1 }, held := none }) }) }

/-- The record of a decode fault: every lane of the split, at the run's first word (24 R433). -/
def decodeRec (w : Warp) (i : Issuer) (cause : Nat) : Pend :=
  ⟨cause, (w.split i.sp).pc, nextPc w i, 0, (w.split i.sp).mask, 0, false⟩

/-- The major of a word (07 R156). -/
def majorOf (v : Word) : Nat := v.toNat / 2 ^ 25

/-- The prefix words (07 R160-R162). -/
inductive PrefixWord : Instr → Prop where
  | lit (l) : PrefixWord (.pfxLit l)
  | off (o) : PrefixWord (.pfxOff o)
  | mod (scv sat nb rm) : PrefixWord (.pfxMod scv sat nb rm)
  | hint (prv pri likely yld) : PrefixWord (.pfxHint prv pri likely yld)

/-- Instructions with their forms, over every kind of operand position and prefix that 24 R433 checks. -/
inductive HasForm : Instr → Form → Prop where
  | word (e) (h : e ∈ rules32 ++ rulesField) (g d a b) :
      HasForm (e.1 g d a b) (Form.wa g [(.dst .w32, d), (.src .w32, a), (.src .w32, b)])
  | update (e) (h : e ∈ rulesUpdate) (g d a b) :
      HasForm (e.1 g d a b) (Form.wa g [(.upd .w32, d), (.src .w32, a), (.src .w32, b)])
  | wide (e) (h : e ∈ rulesWide) (g d a b) :
      HasForm (e.1 g d a b) (Form.wa g [(.dst .w64, d), (.src .w32, a), (.src .w32, b)])
  | pair (e) (h : e ∈ rules64) (g d a b) :
      HasForm (e.1 g d a b) (Form.wa g [(.dst .w64, d), (.src .w64, a), (.src .w64, b)])
  | one (e) (h : e ∈ rulesUnary) (g d a) : HasForm (e.1 g d a) (Form.wa g [(.dst .w32, d), (.src .w32, a)])
  | onePair (e) (h : e ∈ rulesUnary64) (g d a) : HasForm (e.1 g d a) (Form.wa g [(.dst .w64, d), (.src .w64, a)])
  | narrow (e) (h : e ∈ rulesNarrow) (g d a) : HasForm (e.1 g d a) (Form.wa g [(.dst .w32, d), (.src .w64, a)])
  | float (e) (h : e ∈ rulesFloat2) (g d a b) : HasForm (e.1 g d a b)
      { Form.w g [(.dst e.2.2.1, d), (.src e.2.2.1, a), (.src e.2.2.1, b)] with rm := e.2.2.2.1 }
  | fused (e) (h : e ∈ rulesFused) (g d a b) : HasForm (e.1 g d a b)
      { Form.w g [(.upd e.2.2.1, d), (.src e.2.2.1, a), (.src e.2.2.1, b)] with rm := true }
  | convert (e) (h : e ∈ rulesConvert) (g d a) : HasForm (e.1 g d a)
      { Form.w g [(.dst e.2.1, d), (.src e.2.2.1, a)] with rm := e.2.2.2.1, sat := e.2.2.2.2.1 }
  | compare (g p c a b) : HasForm (.setpI64 g p c a b) (Form.wa g [(.src .w64, a), (.src .w64, b)])
  | load (g d a wd pol) : HasForm (.ld g d a wd pol) { Form.wa g [(.ldst (widthOp wd), d), (.addr, a)] with off := true }
  | store (g d a wd pol) : HasForm (.st g d a wd pol) { Form.wa g [(.src (widthOp wd), d), (.addr, a)] with off := true }
  | scratch (g d a wd) : HasForm (.ldSp g d a wd) { Form.wa g [(.ldst (widthOp wd), d), (.src .w32, a)] with off := true }
  | atom (g d a sc o) : HasForm (.atom g d a sc o) { Form.wa g [(.atom (atomOpW o), d), (.addr, a)] with off := true }
  | arrive (g d a) : HasForm (.abarArrive g d a) { Form.wa g [(.dst .w32, d), (.src .w32, a)] with scv := some 2 }
  | copy (g d a) : HasForm (.cpG2s g d a) (onceForm g [(.dst .w32, d), (.block 8, a)])
  | send (g a q) : HasForm (.qsend g a q) { qForm g [(.call, a)] false with nb := true }
  | receive (g d q) : HasForm (.qrecv g d q) { qForm g [(.blockDst 16, d)] false with nb := true }
  | matrix (g d a) : HasForm (.mma g d a) (mxOps g [(.src .w32, d), (.src .w32, a)])
  | index (g a x) : HasForm (.ixset g a x) (Form.w g [(.src .w32, a)])
  | trap (g a c) : HasForm (.trap g a c) (onceForm g [(.src .w32, a)])
  | plain (g) : HasForm (.brkpt g) (Form.wa g [])

end Sys2Proof.Claim

/-- 07 R160-R163: a prefix word adds its field to the run of up to three words: literal chunks are 23 bits, the first
sign-extended and each further one shifted in below; an offset is sign-extended; a repeated offset, modifier or hint
is marked for cause 0x02. -/
def Sys2Proof.Claim.PrefixesRule : Prop :=
  ∀ s i w, AtWord s i w → (w.split i.sp).pfx.words < 3 →
    let x := (w.split i.sp).pfx
    (∀ l : BitVec 23, exec (.pfxLit l) s = .next (joined s i w { x with lit := some (match x.lit with
      | none => BitVec.ofInt 64 l.toInt
      | some v => BitVec.ofNat 64 (v.toNat * 2 ^ 23 + l.toNat)) })) ∧
    (∀ o : BitVec 23, exec (.pfxOff o) s = .next (joined s i w
      { x with off := some (BitVec.ofInt 64 o.toInt), misplaced := x.misplaced || x.off.isSome })) ∧
    (∀ scv sat nb rm, exec (.pfxMod scv sat nb rm) s = .next (joined s i w
      { x with md := some ⟨scv, sat, nb, rm⟩, misplaced := x.misplaced || x.md.isSome })) ∧
    (∀ prv pri likely yld, exec (.pfxHint prv pri likely yld) s = .next (joined s i w
      { x with hint := some ⟨prv, pri, likely, yld⟩, misplaced := x.misplaced || x.hint.isSome }))

/-- 07 R162, 24 R433, R436: what no decoding serves raises its cause in every lane of the split, and the trap is taken
at once: a fourth prefix word 0x02, or 0x01 where a payload of the run or its own was bad; a word that is no instruction 0x06
where its major belongs to the other executor, else 0x01; a form with a fault of its executor, operand codes or prefixes that
fault, for forms of every kind of operand position and prefix. A prefix with a bad payload only marks its run. -/
def Sys2Proof.Claim.DecodeFaultsRule : Prop :=
  ∀ s i w b, AtWord s i w → MayTrap s i w b → w.regions = [] →
    ((w.split i.sp).pfx.words = 3 →
      (∀ k, PrefixWord k → ∃ t, exec k s = .next t ∧
        Took s t i b (decodeRec w i (if (w.split i.sp).pfx.bad then 0x01 else 0x02))) ∧
      (∀ v : Word, majorOf v = 0 → ∃ t, exec (.illegalEncoding v) s = .next t ∧ Took s t i b (decodeRec w i 0x01))) ∧
    (∀ v : Word, majorOf v ≠ 0 → ∃ t, exec (.illegalEncoding v) s = .next t ∧ Took s t i b (decodeRec w i
      (if i.w = armNo then
         (if warpOnlyMajor (majorOf v) = true ∨ (majorOf v = 0x72 ∧ v.toNat % 256 = 2) then 0x06 else 0x01)
       else if majorOf v ∈ [0x68, 0x69, 0x6A, 0x6B, 0x6C] then 0x06 else 0x01))) ∧
    (∀ v : Word, majorOf v = 0 → (w.split i.sp).pfx.words < 3 →
      exec (.illegalEncoding v) s = .next (joined s i w { (w.split i.sp).pfx with bad := true })) ∧
    (∀ k f c, HasForm k f → f.decodeFault (i.w == armNo) (w.split i.sp).pfx = some c →
      ∃ t, exec k s = .next t ∧ Took s t i b (decodeRec w i c))

/-- The rules `PrefixesRule`, `DecodeFaultsRule` together. Choices of the model that it rests on: log 71. -/
def Obligations.PrefixesAndDecodeFaults : Prop :=
  PrefixesRule ∧ DecodeFaultsRule

/-! ## Events, launches, feeds, the pool and versions (12 R300-R305) -/

namespace Sys2Proof.Claim

open Sys2Proof.Machine

/-- A form that names an event (12 R300). -/
def eventForm (g : Guard) (ops : List (Pos × Operand)) : Form := { onceForm g ops with scv := some 4 }

/-- A form of a warp that acts once and is not for handlers. -/
def poolForm (g : Guard) (ops : List (Pos × Operand)) : Form := { onceForm g ops with arm := false, handler := false }

/-- Set or clear the non-blocking predicate of every lane acted on, where there is one. -/
def nbMarks (w : Warp) (i : Issuer) (g : Guard) (b : Bool) (p : Pkg) : Pkg :=
  (lanesOf (acts w i g)).foldl (fun p l => nbMark w i l b p) p

/-- A warp that gave back its registers at or above an allocation. -/
def shrunk (v : Warp) (n : Nat) : Warp :=
  { v with
    alloc := n
    regs := List.filter (fun e => decide (e.1 < 32 * n)) v.regs
    rpoison := v.rpoison.filter (fun r => decide (r < 32 * n)) }

/-- The issuing split no longer waits for a record of its launch's feed. -/
def unwaiting (i : Issuer) (l : Launch) : Launch :=
  { l with feedWaiters := l.feedWaiters.filter (· != (i.core, i.slot, i.w, i.sp)) }

/-- A lane's launch is accepted (12 R301, 02 R39-R40): the parent is not at depth 10, the record is read as a load and
well formed, no watchpoint looks at it, and the pending-launch store has room. -/
def laneLaunch (s : State) (i : Issuer) (w : Warp) (g : Guard) (b : Block) (pl : Launch) (a : Operand) (l : Nat) (p : Pkg) :
    Option Pkg :=
  if 10 ≤ pl.depth then none
  else
    match (regionEnv s i w g).readAs p (src64 w i a l) 128 with
    | .ok p r => if recordFault r = none ∧ p.storeUsed < 4096 ∧ unwatched p i (src64 w i a l) 128 false = true then some (nbMark w i l true (p.enterChild b.launch pl r)) else none
    | _ => none

/-- The region that a version form names (05 R122). -/
def NamesRegion (s : State) (i : Issuer) (w : Warp) (g : Guard) (a : Operand) (r : VRegion) : Prop :=
  (leadWord w i g a).toNat < 16 ∧
    s.pkg.regions.find? ((ctxOf s.pkg i).asid * 16 + (leadWord w i g a).toNat) = some r

/-- The snapshot engine is asked for an action, as an operation of class 6 (12 R305). -/
def asked (p : Pkg) (i : Issuer) (k action : Nat) (v : Word) : Pkg :=
  Pkg.modWarp { p with nextId := p.nextId + 1, snaps := p.snaps ++ [⟨k, action, v, false, i.core, i.slot, i.w, p.nextId⟩] }
    i.core i.slot i.w (fun x => x.beginOp 6 p.nextId false)

end Sys2Proof.Claim

/-- 12 R300, 13 R316: `ev.signal` releases at device scope and adds to the event's count, saturating; `ev.wait` goes on
with an acquire where its target is reached, else waits as a waiter of the event, and goes on once released; `ev.test`
answers, and acquires where the answer is yes; `ev.reset` clears the count, and saved blocks that wait on an event
that changed can be restored (02 R58). Choices of the model that it rests on: log 4. -/
def Obligations.EventInstructions : Prop :=
  (∀ s i w g d a p, Issues s i w (eventForm g [(.src .w32, d), (.src .w32, a)]) → Drained s i →
    let n := (leadWord w i g a).toNat
    let q := s.pkg.l1WriteBack i.core
    n < 2 ^ 16 → q.evSignal (ctxOf q i) n (leadWord w i g d).toNat = some p →
    Ends (.evSignal g d a) s i w p ∧
      (p.event (evKey (ctxOf q i).asid n)).count.toNat =
        min ((s.pkg.event (evKey (ctxOf q i).asid n)).count.toNat + (leadWord w i g d).toNat) (2 ^ 32 - 1)) ∧
  (∀ s i w g d a, Issues s i w (eventForm g [(.src .w32, d), (.src .w32, a)]) →
    let n := (leadWord w i g a).toNat
    let v := (leadWord w i g d).toNat
    let c := ctxOf s.pkg i
    n < 2 ^ 16 →
    (v ≤ (s.pkg.event (evKey c.asid n)).count.toNat → Ends (.evWait g d a) s i w (acquired s.pkg i.core true)) ∧
    (∀ p, s.pkg.evAwait c n v (.split i.core i.slot i.w i.sp) = .waits p → (w.split i.sp).pend = none →
      Waits (.evWait g d a) s i p (Wait.of (.event c.asid n v)))) ∧
  (∀ s i w g d a x y t m, IssuesAt s i w (eventForm g [(.src .w32, d), (.src .w32, a)]) (some ⟨.event x y t, m, true, [], none⟩) →
    (leadWord w i g a).toNat < 2 ^ 16 → EndsWait (.evWait g d a) s i w (acquired s.pkg i.core true)) ∧
  (∀ s i w g d a, Issues s i w (eventForm g [(.upd .w32, d), (.src .w32, a)]) → (leadWord w i g a).toNat < 2 ^ 16 →
    let yes := decide ((leadWord w i g d).toNat ≤
      (s.pkg.event (evKey (ctxOf s.pkg i).asid (leadWord w i g a).toNat)).count.toNat)
    WritesIn (.evTest g d a) s i w (acquired s.pkg i.core yes) g d 1 (one fun _ => boolWord yes)) ∧
  (∀ s i w g a p, Issues s i w (onceForm g [(.src .w32, a)]) → (leadWord w i g a).toNat < 2 ^ 16 →
    let k := evKey (ctxOf s.pkg i).asid (leadWord w i g a).toNat
    s.pkg.evStore (ctxOf s.pkg i) k ((fun (e : Event) => { e with count := 0 }) (s.pkg.event k)) = some p →
    Ends (.evReset g a) s i w (if (s.pkg.event k).count = 0 then p else p.evChanged (s.pkg.event k).waiters))

/-- 12 R301-R302, 02 R39-R46: `launch` releases at device scope and enters one child per lane, ascending, into the
pending-launch store; `feed` appends a record to a worker's ring, and waits, or clears its predicate, while that is
full; `wpop` gives the oldest record of its launch's ring to the lanes, and waits in turn while there is none. -/
def Sys2Proof.Claim.LaunchesAndFeedsRule : Prop :=
  (∀ s i w g a b pl p, Issues s i w { Form.wa g [(.addr, a)] with nb := true, handler := false } →
    s.pkg.block? i.core i.slot = some b → s.pkg.launch? b.launch = some pl → Drained s i →
    eachLane (laneLaunch s i w g b pl a) (lanesOf (acts w i g)) (s.pkg.l1WriteBack i.core) = some p →
    Ends (.launch g a) s i w p) ∧
  (∀ s i w g a id l q r, Issues s i w { onceForm g [(.src .w128, a)] with nb := true, handler := false } →
    let ws := srcWords w i 4 a (lead w i g)
    s.pkg.workerAt (ctxOf s.pkg i).asid (pair (ws.getD 0 0) (ws.getD 1 0)) = some (id, l) →
    (regionEnv s i w g).readAs s.pkg (pair (ws.getD 2 0) (ws.getD 3 0)) 64 = .ok q r →
    unwatched q i (pair (ws.getD 2 0) (ws.getD 3 0)) 64 false = true →
    (∀ p x, l.feedTail - l.feedHead < recFeedSize l.record → q.feedAppend id l r = .ok p x →
      Ends (.feed g a) s i w (nbMarks w i g true p)) ∧
    (recFeedSize l.record ≤ l.feedTail - l.feedHead → nbOf w i ≠ none → Ends (.feed g a) s i w (nbMarks w i g false q)) ∧
    (recFeedSize l.record ≤ l.feedTail - l.feedHead → nbOf w i = none → (w.split i.sp).pend = none →
      Waits (.feed g a) s i s.pkg (Wait.of .work))) ∧
  (∀ s i w g (d : Fin 112) b l, Issues s i w { poolForm g [(.blockDst 16, .reg d)] with nb := true } →
    s.pkg.block? i.core i.slot = some b → s.pkg.launch? b.launch = some l → recFeed l.record = true → l.feedWaiters = [] →
    (∀ q bs, l.feedHead < l.feedTail → s.pkg.engineRead (masterOf xdie (3, splitMaster i.core i.slot i.w i.sp)) b.ctx
        (l.slotVa l.feedHead) 64 true = .ok q bs →
      Ends (.wpop g (.reg d)) s i w (nbMarks w i g true
        (((q.modLaunch b.launch (unwaiting i)).modLaunch b.launch (fun l => { l with feedHead := l.feedHead + 1 })).modWarp i.core i.slot i.w (fun v =>
            (lanesOf (acts w i g)).foldl (fun v k => v.wrList d.val k (recordWords bs)) v)))) ∧
    (l.feedTail ≤ l.feedHead → nbOf w i ≠ none → Ends (.wpop g (.reg d)) s i w (nbMarks w i g false s.pkg)) ∧
    (l.feedTail ≤ l.feedHead → nbOf w i = none → (w.split i.sp).pend = none →
      Waits (.wpop g (.reg d)) s i (s.pkg.modLaunch b.launch (fun l =>
        { l with feedWaiters := if l.feedWaiters.contains (i.core, i.slot, i.w, i.sp) then l.feedWaiters
            else l.feedWaiters ++ [(i.core, i.slot, i.w, i.sp)] })) (Wait.of .work)))

/-- 02 R43, 12 R303: every live lane of the warp together gives registers back, which ceases those above and serves
waiting claims, or takes them: at once where no claim waits and the pool holds them, else as a claim at the tail. A
unit is 4 registers of each of 32 lanes. -/
def Sys2Proof.Claim.RegisterPoolRule : Prop :=
  (∀ s i w g (u : BitVec 6), Issues s i w (poolForm g []) → acts w i g = w.live → 4 + 4 * u.toNat ≤ w.alloc →
    let n := w.alloc - 4 * u.toNat
    (∀ r ∈ w.busy, r < 32 * n) →
    Ends (.poolGive g u) s i w (Pkg.serveClaims
      ((s.pkg.modWarp i.core i.slot i.w (fun v => shrunk v n)).modCore i.core (fun (k : Core) => { k with poolUsed := k.poolUsed - 128 * u.toNat })) i.core)) ∧
  (∀ s i w g (u : BitVec 6), Issues s i w (poolForm g []) → acts w i g = w.live → w.alloc + 4 * u.toNat ≤ 256 →
    128 * u.toNat ≤ carveRegs (s.pkg.core i.core).carve →
    let k := s.pkg.core i.core
    (k.claims = [] → 128 * u.toNat ≤ k.poolFree →
      Ends (.poolTake g u) s i w ((s.pkg.modWarp i.core i.slot i.w (fun v => { v with alloc := v.alloc + 4 * u.toNat })).modCore
        i.core (fun (k : Core) => { k with poolUsed := k.poolUsed + 128 * u.toNat }))) ∧
    (k.claims ≠ [] ∨ k.poolFree < 128 * u.toNat → (∀ c ∈ k.claims, ¬ (c.slot = i.slot ∧ c.w = i.w ∧ c.sp = i.sp)) →
      (w.split i.sp).pend = none →
      Waits (.poolTake g u) s i (s.pkg.modCore i.core (fun k => { k with claims := k.claims ++ [⟨i.slot, i.w, i.sp, u.toNat⟩] }))
        (Wait.of (.claim u.toNat)))) ∧
  (∀ s i w g u z n, IssuesAt s i w (poolForm g []) (some z) → z.kind = .claim n → z.took = none → z.released = true →
    exec (.poolTake g u) s = .next (doneWait s s.pkg i w w))

/-- The rules `LaunchesAndFeedsRule`, `RegisterPoolRule` together. -/
def Obligations.LaunchesFeedsPool : Prop :=
  LaunchesAndFeedsRule ∧ RegisterPoolRule

/-- 12 R304-R305, 05 R122-R125: `ver.pub` releases at device scope and asks for a publication, `ver.rack` for a floor
not above the published version, both as operations of class 6; `ver.query` reads the published version, all ones
before the first, and the floor, and acquires; `trace.mark` leaves one record, where its session takes marks. -/
def Obligations.VersionInstructions : Prop :=
  (∀ s i w g d a r, Issues s i w (onceForm g [(.src .w32, d), (.src .w32, a)]) → NamesRegion s i w g a r →
    w.count 6 < 63 →
    let k := (ctxOf s.pkg i).asid * 16 + (leadWord w i g a).toNat
    let v := leadWord w i g d
    (v ≠ 0xFFFFFFFF → Drained s i → Ends (.verPub g d a) s i w (asked (s.pkg.l1WriteBack i.core) i k 1 v)) ∧
    (v ≤ r.floor ∨ (r.pvalid = true ∧ v ≤ r.pub) → Ends (.verRack g d a) s i w (asked s.pkg i k 2 v))) ∧
  (∀ s i w g d a r, Issues s i w (onceForm g [(.dst .w64, d), (.src .w32, a)]) → NamesRegion s i w g a r →
    WritesIn (.verQuery g d a) s i w (acquired s.pkg i.core true) g d 2
      (fun _ k => if k = 0 then (if r.pvalid then r.pub else 0xFFFFFFFF) else r.floor)) ∧
  (∀ s i w g a b, Issues s i w (onceForm g [(.src .w32, a)]) → s.pkg.block? i.core i.slot = some b →
    Ends (.traceMark g a) s i w (s.pkg.emit i.core i.slot 0 0x01 i.sp (recWarp i.w) (w.split i.sp).mask
      (leadWord w i g a) (s.pkg.origPc b i.w (w.split i.sp).pc).1))

/-! ## Where instructions complete -/

namespace Sys2Proof.Claim

open Sys2Proof.Machine

/-- The instruction completes: it has a next state, in which its split is READY at the next word with the lanes it had, and
`R` holds of the package and of the issuing warp. -/
def Completes (k : Instr) (s : State) (i : Issuer) (w : Warp) (R : Pkg → Warp → Prop) : Prop :=
  ∃ t v, exec k s = .next t ∧ t.pkg.warp? i.core i.slot i.w = some v ∧ (v.split i.sp).pc = nextPc w i ∧
    (v.split i.sp).st = .ready ∧ (v.split i.sp).mask = (w.split i.sp).mask ∧ R t.pkg v

/-- Every lane that the instruction acts on holds its word in the register that d names. -/
def Holds (w v : Warp) (i : Issuer) (g : Guard) (d : Operand) (f : Nat → Word) : Prop :=
  ∀ l ∈ lanesOf (acts w i g), ∀ r, w.regOf d l = some r → v.rd r l = f l

/-- The issuing block is `b`, and `n` bytes at offset `o` lie aligned in its scratchpad (04 R86-R87); no stash window is mapped,
no error has struck, and no matrix instruction of an issuing armature is in flight. -/
structure InScratch (s : State) (i : Issuer) (b : Block) (o n : Nat) : Prop where
  block : s.pkg.block? i.core i.slot = some b
  fits : o % n = 0 ∧ o < 2 ^ 21 ∧ o + n ≤ b.spSize
  plain : b.stash = [] ∧ b.spPoison = []
  noTile : NoTile s i

/-- The block's bytes are `n` at offset `o`, and its scratchpad is otherwise as it was. -/
def Put (p : Pkg) (i : Issuer) (b : Block) (o n : Nat) (v : Nat) : Prop :=
  ∃ y, p.block? i.core i.slot = some y ∧ y.sp = (b.writeSp o (bytesOf n v)).sp

/-- LEN of the record that a lane sends from register a on (12 R278). -/
def sendLen (w : Warp) (a : Fin 112) (l : Nat) : Nat := (w.rd a.val l).toNat / 256 % 256

/-- The lowest lane's word of operand a, as a number. -/
def leadNat (w : Warp) (i : Issuer) (g : Guard) (a : Operand) : Nat := (leadWord w i g a).toNat

end Sys2Proof.Claim

/-- 08 R201-R204: where each form of an arrival barrier completes, on an object in the block's own scratchpad that is in a
valid state. `abar.init` with a count of 1 to 1024 completes on an object that is not VALID; `abar.owe` on one that is VALID
where the sum stays in range; `abar.arrive` where its lanes are still expected; `abar.wait` and `abar.test` where the
object is not VALID or the phase lacks arrivals, `abar.wait` with tokens of another phase; `abar.inval` always. -/
def Obligations.ArrivalBarriersComplete : Prop :=
  ∀ s i w g d a b o, InScratch s i b o 32 → leadNat w i g a = o →
    let x := s.pkg.abarAt i.core i.slot o
    let v := leadNat w i g d
    Sound x →
    (Issues s i w (onceForm g [(.src .w32, d), (.src .w32, a)]) → 1 ≤ v % 2048 → v % 2048 ≤ 1024 → x.valid = false →
      Completes (.abarInit g d a) s i w (fun p _ => Put p i b o 32 (2 ^ 30 + v % 2048 * 2 ^ 11))) ∧
    (Issues s i w (onceForm g [(.src .w32, d), (.src .w32, a)]) → v < 2 ^ 27 → x.valid = true →
      let m : Int := x.owed.getD (v / 2 ^ 24) 0 + (v % 2 ^ 24 : Nat)
      m ≤ 8388607 → -8388608 ≤ m → Completes (.abarOwe g d a) s i w (fun _ _ => True)) ∧
    (Issues s i w { Form.wa g [(.dst .w32, d), (.src .w32, a)] with scv := some 2 } → x.valid = true →
      x.arrived + (lanesOf (acts w i g)).length ≤ x.expected → Drained s i →
      Completes (.abarArrive g d a) s i w (fun _ u => Holds w u i g d (fun _ => boolWord x.phase))) ∧
    (Issues s i w { Form.wa g [(.upd .w32, d), (.src .w32, a)] with scv := some 2 } →
      (x.valid = false →
        Completes (.abarWait g d a) s i w (fun _ u => Holds w u i g d (fun _ => 0)) ∧
        Completes (.abarTest g d a) s i w (fun _ u => Holds w u i g d (fun _ => 0))) ∧
      (x.valid = true → x.arrived < x.expected →
        Completes (.abarTest g d a) s i w (fun _ u => Holds w u i g d (fun l => if token w i d l = x.phase then 0 else 1)) ∧
        ((∀ l ∈ lanesOf (acts w i g), token w i d l ≠ x.phase) →
          Completes (.abarWait g d a) s i w (fun _ u => Holds w u i g d (fun _ => 1))))) ∧
    (Issues s i w (onceForm g [(.src .w32, a)]) → Completes (.abarInval g a) s i w (fun _ _ => True))

/-- 12 R276-R277, R280-R281: where each queue instruction completes. `qbind` completes on a queue that is unbound or idle,
`qunbind` on a bound idle one, `qdepth`, `qspace` and `qrecv` on a bound one, `qrecv` where every lane has a record and no call has
faulted, `qdrain` where no call of the queue is outstanding or has faulted, and `qsend` to a unit whose input queue has
room for every lane, with headers of 2 to 16 words that ask for no return. -/
def Obligations.QueuesComplete : Prop :=
  ∀ s i w g (q : QReg),
    (∀ a c, Issues s i w (qForm g [(.src .w32, a)] true) → (w.bind? q.val = none ∨ w.queueBusy q.val = false) →
      Completes (.qbind g q a c) s i w (fun _ v =>
        v.binds = KMap.insert q.val (bindRule c.val (leadWord w i g a)) w.binds)) ∧
    (∀ e, w.bind? q.val = some e →
      (Issues s i w (qForm g [] true) →
        (w.queueBusy q.val = false →
          Completes (.qunbind g q) s i w (fun _ v => v.binds = KMap.erase q.val w.binds)) ∧
        ((∀ c ∈ w.calls, c.q ≠ q.val) → (∀ f ∈ w.callFaults, f.q ≠ q.val) →
          Completes (.qdrain g q) s i w (fun _ _ => True))) ∧
      (∀ d, Issues s i w (qForm g [(.dst .w32, d)] false) →
        Completes (.qdepth g d q) s i w (fun _ v =>
          Holds w v i g d (fun l => BitVec.ofNat 32 (w.retsOf q.val l).length))) ∧
      (∀ d, Issues s i w (qForm g [(.dst .w32, d)] true) →
        Completes (.qspace g d q) s i w (fun _ v =>
          Holds w v i g d (fun _ => BitVec.ofNat 32 (s.pkg.queueSpace i w q.val e)))) ∧
      (∀ a : Fin 112, Issues s i w { qForm g [(.call, .reg a)] false with nb := true } → e.cls ≠ 8 → w.count 3 < 63 →
        a.val + 16 ≤ min w.alloc 112 → w.rpoison = [] →
        ((s.pkg.core i.core).unitQueue e.cls).length + (lanesOf (acts w i g)).length ≤ 64 →
        (∀ l ∈ lanesOf (acts w i g), 2 ≤ sendLen w a l ∧ sendLen w a l ≤ 16 ∧
          (w.rd (a.val + 1) l).toNat / 16 % 2 ^ 12 = 0 ∧ (w.rd (a.val + 1) l).getLsbD 3 = true) →
        Completes (.qsend g (.reg a) q) s i w (fun _ v => v.count 3 = w.count 3 + 1)) ∧
      (∀ d : Fin 112, Issues s i w { qForm g [(.blockDst 16, .reg d)] false with nb := true } → w.callFaults = [] →
        (∀ l ∈ lanesOf (acts w i g), w.retsOf q.val l ≠ []) →
        Completes (.qrecv g (.reg d) q) s i w (fun _ v => ∀ l ∈ lanesOf (acts w i g), ∀ r t,
          w.retsOf q.val l = r :: t → ∀ k < 16, v.rd (d.val + k) l = r.words.getD k 0)))

namespace Sys2Proof.Claim

open Sys2Proof.Machine

/-- `n` bytes at an offset lie in a block's scratchpad (04 R87). -/
def fitsIn (b : Block) (o n : Nat) : Prop := o < 2 ^ 21 ∧ o + n ≤ b.spSize

/-- The octet `v` of a copy form passes the checks of 12 R288-R289 with both ends in the issuing block, or, for `cp.mcast`, in blocks of
the cluster that exist; the copy names no arrival barrier. -/
def octetOk (s : State) (i : Issuer) (b : Block) (form : Nat) (v : Nat → Nat) : Prop :=
  let len := v 4 % 2 ^ 24
  let rows := v 6 % 2 ^ 16
  let stride := v 6 / 2 ^ 16
  v 0 % 4 = 0 ∧ v 2 % 4 = 0 ∧ len % 4 = 0 ∧ (v 5).testBit 28 = false ∧
  (form = 0 → fitsIn b (v 2) len) ∧
  (form = 1 → fitsIn b (v 0) len) ∧
  (form = 3 → fitsIn b (v 0) len ∧ fitsIn b (v 2) len ∧ (v 0 + len ≤ v 2 ∨ v 2 + len ≤ v 0)) ∧
  (form = 4 → v 2 < 2 ^ 21 ∧ ∀ pos < 8, (v 6).testBit pos = true →
    ∃ x, s.pkg.peerBlock i.core i.slot pos = some x ∧ v 2 + len ≤ x.2.2.spSize) ∧
  (form = 5 → 1 ≤ rows ∧ stride % 4 = 0 ∧ v 7 % 4 = 0 ∧ (rows < 2 ∨ len ≤ stride) ∧
    fitsIn b (v 2) ((rows - 1) * stride + len))

end Sys2Proof.Claim

/-- 12 R287-R293, 06 R142: where the copy instructions and `wait.cnt` complete. Each of the six `cp` forms that move data
completes for the block's producer where an entry of the copy engine is free and its octet is well formed: every lane receives
the next handle. `cp.seal` completes while class 2 counts fewer than 63, `cp.wptr` always, and `wait.cnt` where the counter of its
class is not above its threshold, or is not counted, and no operation has faulted. -/
def Obligations.CopiesComplete : Prop :=
  (∀ e ∈ copyForms, ∀ s i w g d a b, Produces s i w g [(.dst .w32, d), (.block 8, a)] b → s.pkg.copyEntry i ≠ none →
    octetOk s i b e.1 (fun k => ((srcWords w i 8 a (lead w i g)).getD k 0).toNat) →
    Completes (e.2 g d a) s i w (fun _ v =>
      v.copySeq = w.copySeq + 1 ∧ Holds w v i g d (fun _ => BitVec.ofNat 32 (handleRule (w.copySeq + 1))))) ∧
  (∀ s i w g b, Produces s i w g [] b → w.count 2 < 63 → Completes (.cpSeal g) s i w (fun _ v => v.batchFaults = [])) ∧
  (∀ s i w g d a b, Produces s i w g [(.dst .w32, d), (.src .w32, a)] b →
    Completes (.cpWptr g d a) s i w (fun _ v =>
      Holds w v i g d (fun _ => BitVec.ofNat 32 (s.pkg.copyPtr i w (leadNat w i g a))))) ∧
  (∀ s i w g (c : BitVec 3) (t : BitVec 5), Issues s i w (Form.wa g []) →
    (i.w = armNo ∧ c ≠ 2 ∧ c ≠ 4 ∧ c ≠ 6) ∨ w.count c.toNat ≤ t.toNat → w.callFaults = [] → (∀ o ∈ w.ops, o.faults = []) →
    Completes (.waitCnt g c t) s i w (fun _ v => v.regs = w.regs))

namespace Sys2Proof.Claim

open Sys2Proof.Machine

/-- The neighbour table of a halo exchange is misaligned, which the collective reports when it completes, or no read of it
waits (16 R375); other forms have none. -/
def TableReady (s : State) (i : Issuer) (b : Block) (form : Nat) (ds : List Word) : Prop :=
  form = 0 → (dva ds 10).toNat % 64 ≠ 0 ∨
    ∀ q, Pkg.readTable (masterOf xdie (3, splitMaster i.core i.slot i.w i.sp)) b.ctx (dva ds 10) (dw ds 12)
      { s.pkg with nextId := s.pkg.nextId + 1 } [] ≠ .error q

end Sys2Proof.Claim

/-- 12 R294, R296-R298: where the collectives and the traversal stacks complete. Each `coll` form completes where class 4
counts fewer than 63, its descriptor lies in the block's scratchpad and is well formed, and its group is valid and its engine not
frozen: every lane receives the next handle. `coll.test` always completes; `stk.init` with an aligned base and a
capacity of 1 to 64 that fit; `stk.push`, `stk.pop`, `stk.top` and `stk.depth` once the capacity is not 0. -/
def Obligations.CollectivesAndStacksComplete : Prop :=
  (∀ e ∈ collForms, ∀ s i w g d a b o, Issues s i w (onceForm g [(.dst .w32, d), (.src .w32, a)]) →
    InScratch s i b o 64 → leadNat w i g a = o → b.unwaited = [] → w.count 4 < 63 →
    let ds : List Word := (List.range 16).map (fun k => BitVec.ofNat 32 (recNat (b.readSp o 64) (4 * k) 4))
    collBad e.1 ds = false → (s.pkg.group (collGroup ds)).valid = true → s.pkg.isFrozen 3 (collGroup ds % 2) = false →
    TableReady s i b e.1 ds →
    Completes (e.2 g d a) s i w (fun _ v =>
      v.collSeq = w.collSeq + 1 ∧ Holds w v i g d (fun _ => BitVec.ofNat 32 (handleRule (w.collSeq + 1))))) ∧
  (∀ s i w g d a, Issues s i w (onceForm g [(.dst .w32, d), (.src .w32, a)]) →
    Completes (.collTest g d a) s i w (fun _ v =>
      Holds w v i g d (fun _ => boolWord (s.pkg.collTested i w (leadNat w i g a))))) ∧
  (∀ s i w g d a b, Issues s i w { onceForm g [(.src .w32, d), (.src .w32, a)] with arm := false } →
    s.pkg.block? i.core i.slot = some b →
    let cap := leadNat w i g d
    leadNat w i g a % 256 = 0 → 1 ≤ cap → cap ≤ 64 → fitsIn b (leadNat w i g a) (cap * 256) →
    Completes (.stkInit g d a) s i w (fun _ v => v.stkBase = leadWord w i g a ∧ v.stkCap = cap ∧ v.stkDepth = [])) ∧
  (∀ s i w g x b, s.pkg.block? i.core i.slot = some b → b.stash = [] → b.spPoison = [] → w.stkCap ≠ 0 →
    (Issues s i w (Form.w g [(.src .w64, x)]) →
      Completes (.stkPush g x) s i w (fun _ v => ∀ l ∈ lanesOf (acts w i g),
        v.stkDepth.getD l 0 = w.stkDepth.getD l 0 + (if w.stkDepth.getD l 0 < w.stkCap then 1 else 0))) ∧
    (Issues s i w (Form.w g [(.dst .w64, x)]) →
      let empty (v : Warp) : Prop := ∀ l ∈ lanesOf (acts w i g), w.stkDepth.getD l 0 = 0 →
        ∀ r, w.regOf x l = some r → v.rd64 r l = 0xFFFFFFFFFFFFFFFF
      Completes (.stkPop g x) s i w (fun _ v => empty v) ∧ Completes (.stkTop g x) s i w (fun _ v => empty v)) ∧
    (Issues s i w (Form.w g [(.dst .w32, x)]) →
      Completes (.stkDepth g x) s i w (fun _ v => Holds w v i g x (fun l =>
        BitVec.ofNat 32 (w.stkDepth.getD l 0 + (if w.stkOvf.getLsbD l then 2 ^ 31 else 0))))))

namespace Sys2Proof.Claim

open Sys2Proof.Machine

/-- The block of the issuing armature holds the matrix unit with fewer than 8 operations in flight, or nobody holds it or waits
for it (11 R259, R271). -/
def UnitOpen (s : State) (i : Issuer) : Prop :=
  let m := (s.pkg.core i.core).mx
  (m.owner = some i.slot ∧ m.ops.length < 8) ∨ (m.owner = none ∧ m.waiters = [])

/-- The last operation in flight in the unit is the block's, of a form. -/
def Queued (p : Pkg) (i : Issuer) (form : Nat) : Prop :=
  ∃ x, (p.core i.core).mx.ops.getLast? = some x ∧ x.form = form ∧ x.slot = i.slot ∧ (p.core i.core).mx.owner = some i.slot

end Sys2Proof.Claim

/-- 11 R258-R271, 02 R37: where the armature's matrix instructions, `sq.push` and `arm.wait` complete. `mload.b`, `mma`, `mzero` and
`mcvt` complete where the block holds the matrix unit with room, or it is free, and their descriptor passes its checks;
`mma` and `mcvt` need the tile and the accumulator in a fitting kind. Each is then the last operation of the unit. `sq.push`
completes while fewer than 64 entries of the feed queue are unretired, `arm.wait` where none of the block's operations is in flight. -/
def Obligations.ArmatureFormsComplete : Prop :=
  (∀ s i w g d a b ad q, Issues s i w (mxOps g [(.src .w32, d), (.src .w32, a)]) → s.pkg.block? i.core i.slot = some b →
    UnitOpen s i → mxReady s.pkg i = some q →
    let st := leadWord w i g d
    let t := descOf (q.descWords i.core i.slot b ad) st
    let m := (s.pkg.core i.core).mx.seenBy i.slot
    let kind := (m.acc (st.getLsbD 31)).2
    (DescribedBy s w i g d a b false ad → t.loadOk b = true → Completes (.mloadB g d a) s i w (fun p _ => Queued p i 0)) ∧
    (DescribedBy s w i g d a b false ad → t.mmaOk b = true → m.bfmt = some (t.fmt + 16 * t.sblk) →
      kind = .none ∨ kind = fmtKind t.fmt → Completes (.mma g d a) s i w (fun p _ => Queued p i 1)) ∧
    (DescribedBy s w i g d a b true ad → t.cvtOk b = true → cvtStateOk t (st.getLsbD 30) kind = true →
      Completes (.mcvt g d a) s i w (fun p _ => Queued p i 3))) ∧
  (∀ s i w g d, Issues s i w (mxOps g [(.src .w32, d)]) → UnitOpen s i →
    Completes (.mzero g d) s i w (fun p _ => Queued p i 2)) ∧
  (∀ s i w g a b, Issues s i w (mxOps g [(.src .w32, a)]) → s.pkg.block? i.core i.slot = some b → Drained s i →
    b.feed.length < 64 → Completes (.sqPush g a) s i w (fun _ v => v.regs = w.regs)) ∧
  (∀ s i w g, Issues s i w (mxOps g []) → (∀ o ∈ (s.pkg.core i.core).mx.ops, o.slot ≠ i.slot) →
    Completes (.armWait g) s i w (fun p _ => ∀ y, p.block? i.core i.slot = some y → y.unwaited = []))

/-! ## The management space, the control links and the I3C port (01 R12, 04 R109-R110, 16 R378-R380, 27 R488-R490) -/

namespace Sys2Proof.Claim

open Sys2Proof.Machine

/-- Registers of socket 12 that read back what was written to their fields: offset and fields. -/
def plainFields : List (Nat × Word) :=
  [(0x1860, 0xFFFFFFFF), (0x1B00, 0x1), (0x1C00, 0xFFFFFFFC), (0x1C04, 0x3FF)] ++
  (List.range 8).flatMap (fun k => [(0x1B10 + 16 * k, 0xFFFFFFFF), (0x1B14 + 16 * k, 0xFFFFFFFF), (0x1B18 + 16 * k, 0xFFFFFFFF)])

/-- The state with an answer on its management port. -/
def answered (s : State) (bs : List Byte) : State := { s with mgmt := { s.mgmt with answer := some bs } }

/-- No block of the package has a stash window. -/
def noStash (p : Pkg) : Prop := ∀ e ∈ p.cores, ∀ f ∈ e.2.blocks, f.2.stash = []

/-- The memory window's address after an access (27 R490). -/
def nextWindow (a : Nat) : Nat := (a + 4) % 2 ^ 42

end Sys2Proof.Claim

/-- 01 R12, R19, 27 R488-R489: power-on reset leaves what 01 R19 says but for what the boot of the X-dies records; a
read of PTIME_LO latches the high word; the query register reads the count of its event; the event block is cleared. -/
def Sys2Proof.Claim.PackageRegistersRule : Prop :=
  (∀ s, ∃ t, exec .powerOnReset s = .next t ∧ t.cur = none ∧ t.agenda = s.agenda ∧
    t.pkg = { Pkg.reset with tick := s.pkg.tick } ∧ t.mgmt.tlbRun = none ∧ t.mgmt.windows = [] ∧ t.mgmt.i3cAddr = none ∧
    t.mgmt.waddr = 0 ∧ t.mgmt.check = false ∧ t.mgmt.held = false ∧ t.mgmt.linkUp = []) ∧
  (∀ s, exec .ptimeLoRead s = .next (answered
    { s with mgmt := { s.mgmt with ptimeHi := half s.pkg.ptime 1 } } (bytesOf 4 (half s.pkg.ptime 0).toNat))) ∧
  (∀ s, exec .eventQuery s = .next (answered s (bytesOf 4
    (s.pkg.event (s.mgmt.evqAsid.toNat * 65536 + s.mgmt.evqName.toNat)).count.toNat))) ∧
  (∀ s, exec .eventBlockClear s = .next { s with pkg := { s.pkg with evStalls := 0, liveHigh := 0 } }) ∧
  (∀ e ∈ plainFields, ∀ s v, ∃ t, exec (.registerWrite 12 e.1 v) s = .next t ∧ t.reg 12 e.1 = v &&& e.2 ∧ t.pkg = s.pkg ∧
    t.cur = s.cur) ∧
  (∀ s sock off v, 4 ≤ sock → sock ≠ 12 → sock ≠ 13 → exec (.registerWrite sock off v) s = .next s)

/-- 04 R109-R110: GO starts an invalidation with the kind, the address space and the address of the registers unless one
is in progress; it goes on while an access to another package may use a matched translation; when it is done no TLB of the package holds a translation that it matches, and BUSY is 0. -/
def Sys2Proof.Claim.TlbInvalidationRule : Prop :=
  (∀ s v, exec (.tlbInvalidate v) s = .next { s with mgmt := { s.mgmt with
    tlbKind := v.toNat / 2 ^ 16 % 4, tlbAsid := v.toNat % 2 ^ 16
    tlbRun := match s.mgmt.tlbRun with
      | some r => some r
      | none => if v.getLsbD 31 then some (v.toNat / 2 ^ 16 % 4, v.toNat % 2 ^ 16, s.mgmt.tlbVa) else none } }) ∧
  (∀ s r, s.mgmt.tlbRun = some r → s.pkg.tlbBusyPods r = true → exec .tlbInvalidateDone s = .next s) ∧
  (∀ s r, s.mgmt.tlbRun = some r → s.pkg.pods = [] → s.pkg.sent = [] → s.pkg.calm = true →
    ∃ t, exec .tlbInvalidateDone s = .next t ∧ t.mgmt = { s.mgmt with tlbRun := none } ∧
      (∀ c ∈ t.pkg.cores, ∀ e ∈ c.2.tlb, tlbMatched r e = false) ∧
      (∀ d ∈ t.pkg.dies, d.2.walks = [] ∧ ∀ e ∈ d.2.tlb, tlbMatched r e = false))

/-- 27 R490: WDATA reads and writes four bytes of memory at WADDR, which then goes on by 4; an address beyond memory, or
poison, sets its flag and transfers nothing. -/
def Sys2Proof.Claim.MemoryWindowRule : Prop :=
  ∀ s : State, noStash s.pkg →
    let a := s.mgmt.waddr
    (a < memSize → s.pkg.poisoned a = false → s.pkg.barred xdie a = false →
      exec .wdataRead s = .next (answered { s with mgmt := { s.mgmt with waddr := nextWindow a } } (s.pkg.readMem a 4)) ∧
      ∀ v : Word, ∃ t, exec (.wdataWrite v) s = .next t ∧ t.mgmt = { s.mgmt with waddr := nextWindow a } ∧
        (∀ k < 4, t.pkg.byte (a + k) = (v >>> (8 * k)).setWidth 8) ∧
        (∀ x, ¬ (a ≤ x ∧ x < a + 4) → t.pkg.byte x = s.pkg.byte x)) ∧
    (memSize ≤ a →
      exec .wdataRead s = .next (answered { s with mgmt := { s.mgmt with badaddr := true, waddr := nextWindow a } }
        [0, 0, 0, 0]) ∧
      ∀ v, exec (.wdataWrite v) s = .next { s with mgmt := { s.mgmt with badaddr := true, waddr := nextWindow a } }) ∧
    (a < memSize → s.pkg.poisoned a = true →
      exec .wdataRead s = .next (answered { s with mgmt := { s.mgmt with wpoison := true, waddr := nextWindow a } }
        [0, 0, 0, 0]) ∧
      ∀ v, exec (.wdataWrite v) s = .next { s with mgmt := { s.mgmt with wpoison := true, waddr := nextWindow a } })

/-- 16 R378, 25 R452: transactions of 4, 8 or 64 aligned bytes on a control link that is up: memory is read and written at L2,
and a write of a whole sector clears its poison; a read of poison, and a smaller write of it, is answered with an error, and
so is every other size, a misaligned address, one beyond memory and one with a nonzero bit that must be zero. With bit 63 the
address names registers of the management space, which are read and written in order. The links fall and rise. -/
def Sys2Proof.Claim.ControlLinksRule : Prop :=
  (∀ (s : State) k (addr : DWord) n, noStash s.pkg → s.linkIsUp k = true → n = 4 ∨ n = 8 ∨ n = 64 → addr.toNat % n = 0 →
    addr.toNat < memSize → s.pkg.barred xdie addr.toNat = false →
    (s.pkg.poisoned addr.toNat = false →
      exec (.controlRead k addr n) s = .next (answered s (s.pkg.readMem addr.toNat n))) ∧
    (s.pkg.poisoned addr.toNat = true →
      exec (.controlRead k addr n) s = .next { s with mgmt := { s.mgmt with answer := none } }) ∧
    (∀ data : List Byte, data.length = n → s.pkg.poisoned addr.toNat = false ∨ n = 64 →
      ∃ t, exec (.controlWrite k addr data) s = .next t ∧ t.mgmt = (answered s []).mgmt ∧
        (∀ j < n, t.pkg.byte (addr.toNat + j) = data.getD j 0) ∧ t.pkg.poisoned addr.toNat = false ∧
        (∀ x, ¬ (addr.toNat ≤ x ∧ x < addr.toNat + n) → t.pkg.byte x = s.pkg.byte x) ∧ t.cur = s.cur)) ∧
  (∀ (s : State) k (addr : DWord) (data : List Byte), s.linkIsUp k = true →
    let n := data.length
    let bad : State := { s with mgmt := { s.mgmt with answer := none } }
    (n ∉ [4, 8, 64] ∨ addr.toNat % n ≠ 0 ∨ (addr.toNat < 2 ^ 63 ∧ memSize ≤ addr.toNat) ∨ 2 ^ 63 + 2 ^ 24 ≤ addr.toNat →
      exec (.controlRead k addr n) s = .next bad ∧ exec (.controlWrite k addr data) s = .next bad) ∧
    (n = 4 ∨ n = 8 → addr.toNat % n = 0 → addr.toNat < memSize → s.pkg.poisoned addr.toNat = true →
      exec (.controlWrite k addr data) s = .next bad)) ∧
  (∀ (s : State) k sock off n, s.linkIsUp k = true → sock < 16 → off < 2 ^ 20 → off % n = 0 → n = 4 ∨ n = 8 ∨ n = 64 →
    (∀ j < n / 4, off + 4 * j ≠ 0x8 ∧ off + 4 * j ≠ 0x1C08) →
    let addr : DWord := BitVec.ofNat 64 (2 ^ 63 + sock * 2 ^ 20 + off)
    exec (.controlRead k addr n) s = .next (answered s
      ((List.range (n / 4)).flatMap (fun j => bytesOf 4 (s.reg sock (off + 4 * j)).toNat))) ∧
    (n = 4 → ∀ v : Word, ∃ t, exec (.registerWrite sock off v) s = .next t ∧
      exec (.controlWrite k addr (bytesOf 4 v.toNat)) s = .next (answered t []))) ∧
  (∀ (s : State) k, s.linkIsUp k = false → ∀ addr n data, exec (.controlRead k addr n) s = .next s ∧
    exec (.controlWrite k addr data) s = .next s) ∧
  (∀ (s : State) k, k < 2 →
    exec (.controlLinkDown k) s = .next { s with mgmt := { s.mgmt with linkUp := KMap.insert k false s.mgmt.linkUp } } ∧
    (s.pkg.xreset.find? k = none →
      exec (.controlLinkUp k) s = .next { s with mgmt := { s.mgmt with linkUp := KMap.insert k true s.mgmt.linkUp } }))

/-- 16 R379: the I3C target: addresses, events, identity, status, and private transfers by a command byte and an
address. -/
def Sys2Proof.Claim.I3cPortRule : Prop :=
  ∀ s : State,
    (∀ a, exec (.setdasa (0x4C, a)) s = .next { s with mgmt := { s.mgmt with i3cAddr := some (s.mgmt.i3cAddr.getD a) } } ∧
      (∀ x, x ≠ 0x4C → exec (.setdasa (x, a)) s = .next s) ∧
      exec (.entdaa a) s = .next { s with mgmt := { s.mgmt with i3cAddr := some (s.mgmt.i3cAddr.getD a) } }) ∧
    exec .rstdaa s = .next { s with mgmt := { s.mgmt with i3cAddr := none } } ∧
    (∀ m, exec (.enec m) s = .next { s with mgmt := { s.mgmt with i3cEvents := s.mgmt.i3cEvents &&& ~~~m } } ∧
      exec (.disec m) s = .next { s with mgmt := { s.mgmt with i3cEvents := s.mgmt.i3cEvents ||| m } }) ∧
    exec .getpid s = .next (answered s ((List.range 6).map (fun k => (Config.i3cPid >>> (40 - 8 * k)).setWidth 8))) ∧
    exec .getbcr s = .next (answered s [Config.i3cBcr]) ∧
    exec .getdcr s = .next (answered s [Config.i3cDcr]) ∧
    exec .getstatus s = .next (answered s [0, BitVec.ofNat 8 (min s.mgmt.i3cIbi.length 15)]) ∧
    (∀ b0 b1 b2 b3 : Byte, exec (.i3cPrivateWrite [1, b0, b1, b2, b3]) s = .next
      { s with mgmt := { s.mgmt with i3cRead := some (b3 ++ b2 ++ b1 ++ b0) } }) ∧
    (∀ v : Word, exec (.i3cPrivateWrite ([2, 0x60, 0x18, 0xC0, 0x00] ++ bytesOf 4 v.toNat)) s = .next
      { s with mgmt := { s.mgmt with evqAsid := v >>> 16, evqName := v &&& 0xFFFF } }) ∧
    (∀ a : Word, s.mgmt.i3cRead = some a → a.toNat % 4 = 0 → a.toNat < 2 ^ 24 → a.toNat % 2 ^ 20 ≠ 8 →
      a.toNat % 2 ^ 20 ≠ 0x1C08 →
      exec .i3cPrivateRead s = .next (answered s (bytesOf 4 (s.reg (a.toNat / 2 ^ 20) (a.toNat % 2 ^ 20)).toNat)))

/-- The rules `PackageRegistersRule`, `TlbInvalidationRule`, `MemoryWindowRule`, `ControlLinksRule`, `I3cPortRule`
together. Choices of the model that it rests on: log 1, 9, 10, 11, 30, 31, 57, 69. -/
def Obligations.ManagementAndTlb : Prop :=
  PackageRegistersRule ∧ TlbInvalidationRule ∧ MemoryWindowRule ∧ ControlLinksRule ∧ I3cPortRule

/-! ## Command queues, the firmware pool and packets (13 R306-R329, 26 R461-R468) -/

namespace Sys2Proof.Claim

open Sys2Proof.Machine

/-- The instruction gives a next state that differs in the package alone, and of that package `P` holds. -/
def Turns (k : Instr) (s : State) (P : Pkg → Prop) : Prop := ∃ p, exec k s = .next { s with pkg := p } ∧ P p

/-- The queue of a package. -/
abbrev qOf (s : State) (q : Nat) : Queue := s.pkg.queue q

/-- A started packet as PACKET_START makes it (13 R313), with the launch that its event waits brought. -/
def started (bs : List Byte) (now : DWord) (pre : Option Nat) : Packet := ⟨bs, now, false, 0, 0, 0, false, pre, false, false⟩

/-- A packet that is over with a status and a detail (13 R323). -/
def overWith (x : Packet) (st d : Nat) : Packet :=
  { x with performed := true, done := true, status := st, detail := BitVec.ofNat 32 d }

/-- Packet `n` of queue `q` is `x`, of the given type, and the firmware pool may perform it (13 R313, R315); the queue's
next packet has no event waits to ask for. -/
structure Performs (s : State) (q n : Nat) (x : Packet) (type : Nat) : Prop where
  next : (s.pkg.queue q).nextWaits = []
  here : (s.pkg.queue q).packets.find? n = some x
  type : bits (recNat x.bytes 0 1) 6 0 = type
  may : s.mayPerform q n x = true

/-- Packet `n` of queue `q` of a package. -/
def Pkt (q n : Nat) (x : Packet) (p : Pkg) : Prop := (p.queue q).packets.find? n = some x

/-- The package when the RESET of a queue has begun: the next packet is given up, and the queue is RESETTING. -/
def resetBegun (p : Pkg) (q : Nat) : Pkg :=
  (p.dropNext q).modQueue q (fun k => { k with ringFault := false, since := none, st := .resetting, resetDue := true })

/-- The queue is as a RESET leaves it (13 R329). -/
def WasReset (q : Nat) (p : Pkg) : Prop := (p.queue q).packets = [] ∧ (p.queue q).enable = false ∧ (p.queue q).st = .idle

/-- `k` performs the RESET of a queue (26 R466): it is over once the blocks of the queue have settled and the trace session
of the queue is closed, and stays in progress as long as one of the two must wait (log 63). -/
def Resets (k : Instr) (s : State) (q : Nat) : Prop :=
  let p0 := resetBegun s.pkg q
  (p0.resetSettled q = false → exec k s = .next { s with pkg := p0 }) ∧
  (p0.resetSettled q = true →
    (∀ r, (p0.endBlocks q).closeTrace q 1 (some 1) = .ok r → Turns k s (fun p => WasReset q p ∧ p.queueBlocks q = [])) ∧
    (∀ r, (p0.endBlocks q).closeTrace q 1 (some 1) = .error r → Turns k s (fun p => p.queue q = p0.queue q)))

/-- A session that OPEN begins (17 R386). -/
def opened (s : State) (q : Nat) (x : Packet) : Pkg :=
  let t : TraceSess := ⟨BitVec.ofNat 64 (recNat x.bytes 0x18 8), recNat x.bytes 0x20 4, (qOf s q).cx, [], [], [], [], [], []⟩
  { s.pkg with traces := KMap.insert q t s.pkg.traces }

/-- WR, DROPPED and CLOSE of each part of a sink are written as zero. -/
def zeroParts (q : Nat) (p : Pkg) : Except Pkg Pkg :=
  [(0, 0), (0, 0x10), (0, 0x18), (1, 0), (1, 0x10), (1, 0x18), (2, 0), (2, 0x10), (2, 0x18), (3, 0), (3, 0x10), (3, 0x18)].foldl
    (fun (r : Except Pkg Pkg) x => r.bind (fun p => p.traceWord q x.1 x.2 0)) (.ok p)

/-- A 64-bit field of a packet. -/
def field64 (x : Packet) (o : Nat) : DWord := BitVec.ofNat 64 (recNat x.bytes o 8)

/-- The row of the opcode table that performs a packet of a type: the packet's own event (13 R324). -/
noncomputable def packetEvent (x : Packet) (q n : Nat) : Instr :=
  match bits (recNat x.bytes 0 1) 6 0 with
  | 0 => .nopPacket q n
  | 1 => .launchPacket q n
  | 2 => .feedPacket q n
  | 3 => .signalPacket q n
  | 4 => .waitPacket q n
  | 5 => .copyPacket q n (recNat x.bytes 0x20 4)
  | 6 =>
    match bits (recNat x.bytes 0x10 2) 9 8 with
    | 0 => .snapshotOpen q n
    | 1 => .snapshotPublish q n
    | 2 => .snapshotRack q n
    | _ => .snapshotClose q n
  | 7 => .fencePacket q n
  | _ =>
    match bits (recNat x.bytes 0x10 1) 1 0 with
    | 1 => .traceClose q n
    | 2 => .traceFlush q n
    | _ => .traceOpen q n

end Sys2Proof.Claim

/-- 13 R310, R312, R326, R328-R329, 26 R463, R466: ENABLE, PREEMPT, RESUME and RESET of a queue, and the end of a save.
A queue is enabled from slot 0 with the context of its descriptor; a LOG2N or a descriptor that cannot be used leaves it
disabled, and ENABLE 1 clears ERROR; PREEMPT acts on a queue that is ACTIVE or BLOCKED, RESUME on a PREEMPTED one; an
examination of the linker decides first. A RESET goes through in one step once nothing that it needs must wait (the
model's choice, log 63). -/
def Sys2Proof.Claim.QueueStatesRule : Prop :=
  ∀ (s : State) (q : Nat), q < 1024 →
    let k := qOf s q
    (k.enable = false → s.fwAlive (q / 512) = true →
      (4 ≤ k.log2n → k.log2n ≤ 16 → ∀ cx, s.pkg.readCtx k.ctx = some cx →
        Turns (.queueEnable q) s (fun p => p.queue q = { k with
          error := 0, enable := true, readIdx := 0, lap := true, cx := cx, fetched := none, ringFault := false, since := none
          st := if k.st = .idle then .active else k.st })) ∧
      (k.log2n < 4 ∨ 16 < k.log2n → Turns (.queueEnable q) s (fun p => p.queue q = { k with error := 0 })) ∧
      (4 ≤ k.log2n → k.log2n ≤ 16 → s.pkg.readCtx k.ctx = none →
        Turns (.queueEnable q) s (fun p => p.queue q = { k with error := 4 }))) ∧
    (k.enable = true → s.fwAlive (q / 512) = true → Turns (.queueEnable q) s (fun p => p.queue q = { k with error := 0 })) ∧
    Turns (.queueDisable q) s (fun p => (p.queue q).enable = false ∧ (p.queue q).packets = k.packets ∧
      (k.enable = true → k.packets = [] → k.st = .active → k.resetDue = false → k.preemptDue = false → (p.queue q).st = .idle)) ∧
    (k.st = .active →
      (s.pkg.examining q = false → Turns (.queuePreempt q) s (fun p =>
        p.queue q = { k with st := .preempting, since := none, preemptDue := false })) ∧
      (s.pkg.examining q = true → Turns (.queuePreempt q) s (fun p => p.queue q = { k with preemptDue := true }))) ∧
    (k.st ≠ .active → exec (.queuePreempt q) s = .next s) ∧
    (k.st ≠ .preempted → exec (.queueResume q) s = .next s) ∧
    (k.st = .preempted →
      ((s.pkg.launches.any (fun e => e.2.q == q && !e.2.ending && e.2.saved.any (fun v => !v.2.waiting))) = true →
        Turns (.queueResume q) s (fun p => p.queue q = { k with resuming := true, resumeDue := false })) ∧
      ((s.pkg.launches.any (fun e => e.2.q == q && !e.2.ending && e.2.saved.any (fun v => !v.2.waiting))) = false →
        Turns (.queueResume q) s (fun p => (p.queue q).resuming = false ∧ (p.queue q).st ≠ .preempted))) ∧
    (k.st = .preempting ∨ s.pkg.examining q = true →
      Turns (.queueReset q) s (fun p => p.queue q = { k with resetDue := true })) ∧
    (k.st ≠ .preempting → s.pkg.examining q = false → Resets (.queueReset q) s q) ∧
    (s.pkg.queueBlocks q = [] →
      (k.st ≠ .preempting → exec (.preemptSaveDone q) s = .next s) ∧
      (k.st = .preempting → k.resetDue = false → k.resumeDue = false →
        Turns (.preemptSaveDone q) s (fun p => (p.queue q).st = .preempted)) ∧
      (k.st = .preempting → k.resetDue = true → Resets (.preemptSaveDone q) s q))

/-- 13 R306-R309, R313-R315, 26 R464: the fetcher reads a slot once its PHASE is the lap's; a packet starts in its
queue's order, one with a faulty header over at once; a packet that could start for 1,000,000 ticks rises one level;
a firmware core performs the oldest step that is free and not stalled: the packet's own event, or an overflow service. A
failed read of the ring ends fetching whatever its cause, a timed-out one too (log 33). -/
def Sys2Proof.Claim.FetchAndStartRule : Prop :=
  (∀ (s : State) (q : Nat), (qOf s q).enable = true → (qOf s q).st = .active → (qOf s q).ringFault = false →
    (qOf s q).fetched = none → s.pkg.xreset.find? (q / 512) = none →
    let k := qOf s q
    let va := k.base + BitVec.ofNat 64 (128 * k.readIdx)
    (∀ p b, s.pkg.engineRead (fetchMaster q) k.cx va 1 true = .ok p b →
      ((ofBytes b).testBit 7 ≠ k.lap → exec (.fetcherWake q) s = .next { s with pkg := p }) ∧
      ((ofBytes b).testBit 7 = k.lap → ∀ p' bs, Pkg.unitRead (fetchMaster q) k.cx true 3 p va 128 [] = .ok p' bs →
        Turns (.fetcherWake q) s (fun r => (r.queue q).fetched = some bs ∧ (r.queue q).packets = (p'.queue q).packets))) ∧
    (∀ p c, s.pkg.engineRead (fetchMaster q) k.cx va 1 true = .fail p c →
      Turns (.fetcherWake q) s (fun r => (r.queue q).ringFault = true ∧ (r.queue q).error = 2))) ∧
  (∀ (s : State) x q bs, s.pkg.nextQueue x = some q → (s.pkg.fwq.getD x []).length < 4096 →
    (qOf s q).fetched = some bs →
    let k := qOf s q
    Turns (.packetStart x) s (fun p =>
      (p.queue q).fetched = none ∧ (p.queue q).pre = none ∧ (p.queue q).nextNo = k.nextNo + 1 ∧ (p.queue q).effPrio = k.prio ∧
      ((p.queue q).readIdx, (p.queue q).lap) =
        (if k.readIdx + 1 = 2 ^ k.log2n then (0, !k.lap) else (k.readIdx + 1, k.lap)) ∧
      match headerFaultAt bs (bits (recNat bs 0 1) 6 0 == 1) with
      | some o => Pkt q k.nextNo (overWith (started bs s.pkg.ptime none) 1 o) p ∧ p.fwq = s.pkg.fwq
      | none => Pkt q k.nextNo (started bs s.pkg.ptime k.pre) p ∧
          p.fwq.getD (q / 512) [] = s.pkg.fwq.getD (q / 512) [] ++ [⟨q, false, k.nextNo, none⟩])) ∧
  (∀ (s : State) x, s.pkg.nextQueue x = none ∨ 4096 ≤ (s.pkg.fwq.getD x []).length → exec (.packetStart x) s = .next s) ∧
  (∀ (s : State) q t, s.pkg.startable q = true → (qOf s q).since = some t →
    (t.toNat + 1000000 ≤ s.pkg.ptime.toNat → Turns (.priorityAging q) s (fun p =>
      p.queue q = { qOf s q with effPrio := (qOf s q).effPrio - 1, since := some (t + 1000000) })) ∧
    (s.pkg.ptime.toNat < t.toNat + 1000000 → exec (.priorityAging q) s = .next s)) ∧
  (∀ (s : State) x c, c < 12 → s.fwAlive x = true → s.pkg.isFrozen 4 (12 * x + c) = false →
    (s.pkg.nextFw x = none → exec (.firmwareStep x c) s = .next s) ∧
    (∀ e, s.pkg.nextFw x = some e →
      (e.overflow = true → exec (.firmwareStep x c) s = .next { s with pkg := s.pkg.runOverflow x e.q }) ∧
      (e.overflow = false → (qOf s e.q).stepOver e.packet = true →
        exec (.firmwareStep x c) s = .next { s with pkg := s.pkg.endStep e.q e.packet }) ∧
      (∀ y, e.overflow = false → (qOf s e.q).stepOver e.packet = false → (qOf s e.q).packets.find? e.packet = some y →
        bits (recNat y.bytes 0 1) 6 0 ≤ 8 →
        ∃ t, exec (.firmwareStep x c) s = .next t ∧ exec (packetEvent y e.q e.packet) s = .next t)))

/-- The rules `QueueStatesRule`, `FetchAndStartRule` together. Choices of the model that it rests on: log 3, 33, 48, 63.
-/
def Obligations.FrontEndQueues : Prop :=
  QueueStatesRule ∧ FetchAndStartRule

/-- 13 R313, R316, R319-R320, R322-R324, 02 R46, 26 R461-R463, R472: what each type of packet does, and its completion:
NOP and FENCE are over with STATUS 0; a payload with a nonzero reserved byte ends with the offset of the first faulty
field; LAUNCH enters its launch, or ends with the first faulty field of the record; FEED appends to a worker's ring
and waits while it is full; SIGNAL adds to its event; WAIT is over when its target is reached; COPY moves 4 bytes at a
time; a SNAPSHOT request enters the engine; TRACE opens, flushes and closes a session. Choices of the model that it
rests on: log 34, 40, 47, 49, 55. -/
def Obligations.Packets : Prop :=
  ∀ (s : State) (q n : Nat) (x : Packet),
    let cx := (qOf s q).cx
    let p0 := s.pkg
    (∀ T o, Performs s q n x T → T ≠ 1 → T ≤ 8 → payloadFault T x.bytes = some o →
      Turns (packetEvent x q n) s (Pkt q n (overWith x 1 o))) ∧
    (Performs s q n x 0 → payloadFault 0 x.bytes = none →
      Turns (.nopPacket q n) s (Pkt q n (overWith x 0 0))) ∧
    (Performs s q n x 7 → payloadFault 7 x.bytes = none →
      Turns (.fencePacket q n) s (Pkt q n (overWith x 0 0))) ∧
    (Performs s q n x 1 →
      (∀ o, recordFault x.bytes = some o → Turns (.launchPacket q n) s (Pkt q n { overWith x 1 o with launch := none })) ∧
      (recordFault x.bytes = none → let id := x.launch.getD s.pkg.nextLaunch; Turns (.launchPacket q n) s (fun p =>
        Pkt q n { x with performed := true, launch := some id } p ∧ p.nextLaunch = max s.pkg.nextLaunch (id + 1) ∧
        ∃ l, p.launch? id = some l ∧ l.record = x.bytes ∧ l.q = q ∧ l.packet = some n ∧ l.st = .waitev ∧
          l.prio = max (qOf s q).prio (recPrio x.bytes) ∧ l.ctx = cx ∧ l.placed = 0))) ∧
    (Performs s q n x 2 → payloadFault 2 x.bytes = none →
      (s.pkg.workerAt cx.asid (field64 x 0x10) = none →
        Turns (.feedPacket q n) s (Pkt q n (overWith x 4 0))) ∧
      (∀ e, s.pkg.workerAt cx.asid (field64 x 0x10) = some e →
        (e.2.ringFull = true → Turns (.feedPacket q n) s (Pkt q n x)) ∧
        (e.2.ringFull = false → ∀ p' bs, p0.feedAppend e.1 e.2 (x.bytes.drop 0x40) = .ok p' bs → Pkt q n x p' →
          Turns (.feedPacket q n) s (fun p => Pkt q n (overWith x 0 0) p ∧ p.mem = p'.mem ∧
            p.launches = p'.launches)))) ∧
    (Performs s q n x 3 → payloadFault 3 x.bytes = none →
      ∀ p', p0.evSignal cx (recNat x.bytes 0x10 2) (recNat x.bytes 0x14 4) = some p' → Pkt q n x p' →
        Turns (.signalPacket q n) s (fun p => Pkt q n (overWith x 0 0) p ∧ p.events = p'.events)) ∧
    (Performs s q n x 4 → payloadFault 4 x.bytes = none →
      let e := s.pkg.event (cx.asid * 65536 + recNat x.bytes 0x10 2)
      (recNat x.bytes 0x14 4 ≤ e.count.toNat →
        Turns (.waitPacket q n) s (fun p => Pkt q n (overWith x 0 0) p ∧ p.events = s.pkg.events)) ∧
      (e.count.toNat < recNat x.bytes 0x14 4 →
        ∀ p', p0.evAwait cx (recNat x.bytes 0x10 2) (recNat x.bytes 0x14 4) (.packet q n) = .waits p' →
          Turns (.waitPacket q n) s (fun p => Pkt q n { x with performed := true } p ∧ p.events = p'.events))) ∧
    (∀ len, Performs s q n x 5 → payloadFault 5 x.bytes = none →
      let total := recNat x.bytes 0x20 4
      (recNat x.bytes 0x10 8 % 4 ≠ 0 ∨ recNat x.bytes 0x18 8 % 4 ≠ 0 ∨ total % 4 ≠ 0 →
        Turns (.copyPacket q n len) s (Pkt q n (overWith x 6 8))) ∧
      (recNat x.bytes 0x10 8 % 4 = 0 → recNat x.bytes 0x18 8 % 4 = 0 → total % 4 = 0 →
        (total ≤ x.progress → Turns (.copyPacket q n len) s (Pkt q n (overWith x 0 0))) ∧
        (x.progress + 4 = total → ∀ p' bs, p0.copyWord (packetMaster q n) cx x = .ok p' bs → Pkt q n x p' →
          Turns (.copyPacket q n len) s (fun p =>
            Pkt q n (overWith { x with progress := total } 0 0) p ∧ p.mem = p'.mem)) ∧
        (x.progress < total → ∀ p' c, p0.copyWord (packetMaster q n) cx x = .fail p' c → Pkt q n x p' →
          Turns (.copyPacket q n len) s (fun p => Pkt q n (overWith x 6 c.cause) p ∧ p.mem = p'.mem)))) ∧
    (Performs s q n x 6 → payloadFault 6 x.bytes = none →
      Turns (packetEvent x q n) s (fun p => Pkt q n { x with performed := true } p ∧
        p.snaps = s.pkg.snaps ++ [⟨cx.asid * 16 + bits (recNat x.bytes 0x10 1) 3 0, bits (recNat x.bytes 0x10 2) 9 8,
          BitVec.ofNat 32 (recNat x.bytes 0x14 4), true, q, n, 0, 0⟩])) ∧
    (Performs s q n x 8 → payloadFault 8 x.bytes = none →
      let len := recNat x.bytes 0x20 4
      (bits (recNat x.bytes 0x10 1) 1 0 = 0 →
        (len % 16384 ≠ 0 ∨ len < 32768 → Turns (.traceOpen q n) s (fun p =>
          Pkt q n (overWith x 1 0x20) p ∧ (p.queue q).error = 7)) ∧
        (len % 16384 = 0 → 32768 ≤ len → 64 ≤ s.pkg.traces.length ∨ (s.pkg.traces.find? q).isSome = true →
          Turns (.traceOpen q n) s (fun p => Pkt q n (overWith x 1 0x10) p ∧ (p.queue q).error = 7))) ∧
      (bits (recNat x.bytes 0x10 1) 1 0 = 0 → len % 16384 = 0 → 32768 ≤ len → s.pkg.traces.length < 64 →
        s.pkg.traces.find? q = none → ∀ p', zeroParts q (opened s q x) = .ok p' → Pkt q n x p' →
          Turns (.traceOpen q n) s (fun p => Pkt q n (overWith x 0 0) p ∧ p.mem = p'.mem ∧ p.traces = p'.traces)) ∧
      (bits (recNat x.bytes 0x10 1) 1 0 = 3 →
        Turns (.traceOpen q n) s (Pkt q n (overWith x 1 0x10))) ∧
      (bits (recNat x.bytes 0x10 1) 1 0 = 1 → ∀ p', p0.closeTrace q 0 none = .ok p' → Pkt q n x p' →
        Turns (.traceClose q n) s (fun p => Pkt q n (overWith x 0 0) p ∧ p.traces = p'.traces)) ∧
      (bits (recNat x.bytes 0x10 1) 1 0 = 2 → ∀ p', p0.flushTrace q = .ok p' → Pkt q n x p' →
        Turns (.traceFlush q n) s (fun p => Pkt q n (overWith x 0 0) p ∧ p.traces = p'.traces))) ∧
    (s.pkg.owed = [] → (qOf s q).packets.find? n = some x →
      (x.done = false → exec (.packetComplete q n) s = .next s) ∧
      (x.done = true → ¬ ((qOf s q).st = .preempted ∧ bits (recNat x.bytes 0 1) 6 0 ≠ 1) → s.pkg.xreset.find? (q / 512) = none → x.launch = none →
        x.noted = false → recCev x.bytes = none →
        ∀ p', s.pkg.writeNote (packetMaster q n) cx (recComp x.bytes) (noteBytes 0 x.status x.detail x.start s.pkg.ptime 0 0) = .ok p' →
          Turns (.packetComplete q n) s (fun p => (p.queue q).packets.find? n = none ∧ p.mem = p'.mem)))

/-! ## Placement, saves and restores, halts (02 R25-R27, R44-R58, 13 R325, 23 R419-R429, 26 R478) -/

namespace Sys2Proof.Claim

open Sys2Proof.Machine

/-- What v0-v31 of a handler hold: the origin record, then zeros (23 R426). -/
def dueWords (o : FRec) : List Word := o.words ++ List.replicate 16 0

/-- The resident block at a place is `bl`'s: of its launch, under its index. -/
def Stands (p : Pkg) (c : Nat) (bl : Block) : Prop :=
  ∃ b x, p.block? c b = some x ∧ x.launch = bl.launch ∧ x.index = bl.index

/-- The package when event-waiting blocks `xs` of one cluster are saved at the places `ys` (02 R52-R54, R58). -/
def savedAt (p : Pkg) (launch : Nat) (xs : List (Nat × Nat × Block)) (ys : List (Nat × Nat × Nat)) : Pkg :=
  (ys.foldl (fun p y => p.saveBlock y.1 y.2.1 y.2.2 true) (xs.foldl (fun p x => p.stopForSave x.1 x.2.1) p)).modLaunch launch
    (fun l => { l with st := .placing })

/-- Block `bl` has left slot `b` of core `c`: its launch `m` holds it, waiting, with its image at `base`. -/
def SavedAs (p : Pkg) (m : Launch) (c b : Nat) (bl : Block) (base : Nat) : Prop :=
  p.block? c b = none ∧ ∃ v, m.saved.find? bl.index = some v ∧ v.waiting = true ∧ v.base = base ∧
    v.block.launch = bl.launch ∧ v.block.index = bl.index ∧ v.block.cluster = bl.cluster

/-- Memory holds the image of the block that launch `m` keeps under an index, at its place (13 R327; the places within the
sections are the model's, log 25). -/
def ImageWritten (p : Pkg) (m : Launch) (ix : Nat) : Prop :=
  ∀ v, m.saved.find? ix = some v → ∃ r : Pkg,
    p.mem = (r.writeImage v.base v.size (v.parts (fun k => m.cbar v.block.cluster k))).mem

/-- Entry of a split after its wait is withdrawn and every lane of it takes a cause (26 R478). -/
def faulted (p : Pkg) (c b w sp cause : Nat) : Pkg := (p.faultWaiting c b w sp cause).serveClaims c

end Sys2Proof.Claim

/-- 02 R25-R27, R47, R50-R51, 13 R325: a launch whose waits are met is READY; its blocks are placed in linear order on the
core that the dispatcher's cycle finds, and it is RESIDENT with its last block; a launch that found no room for
1,000,000 ticks is guarded a core (that one core of another carve starves it is the model's reading, log 84); a block whose
warps have exited and whose operations are over retires. -/
def Sys2Proof.Claim.PlacementRule : Prop :=
  (∀ (s : State) id l, s.pkg.launch? id = some l → l.waitsTodo = [] → l.st = .waitev → l.ending = false → l.linking = false →
    ((s.pkg.evWaiting (fun w => match w with | .launch x _ => x == id | _ => false)) = true →
      exec (.launchReady id) s = .next s) ∧
    ((s.pkg.evWaiting (fun w => match w with | .launch x _ => x == id | _ => false)) = false →
      (qOf s l.q).st = .active ∨ (qOf s l.q).st = .halted → s.pkg.packetRuns l = true →
      l.packet = none ∨ ((recNat l.record 1 1).testBit 1 = false ∧ (qOf s l.q).nextWaits = []) →
      Turns (.launchReady id) s (fun p => p.launch? id = some { l with st := .ready, waited := s.pkg.ptime }))) ∧
  (∀ (s : State) id l, s.pkg.launch? id = some l → s.pkg.wantsPlace l = true → s.pkg.outranked l = false →
    (∀ c cur m, s.pkg.findPlace id l = some ([c], cur) → l.args = some m → recClusterSize l.record = 1 →
      (s.pkg.l1Barred c = true → exec (.blockPlace id) s = .next s) ∧
      (s.pkg.l1Barred c = false → Turns (.blockPlace id) s (fun p => p.cursor = cur ∧
        (∃ l', p.launch? id = some l' ∧ l'.placed = l.placed + 1 ∧ l'.stored = false ∧
          (l'.st = if l.placed + 1 = recBlocks l.record ∧ l.saved = [] then .resident else .placing)) ∧
        ∃ b bl, p.block? c b = some bl ∧ bl.launch = id ∧ bl.index = l.placed ∧
          bl.warps = newWarps l.record (lowestFree (s.pkg.core c).slotsUsed 64 (recWarps l.record)) m))) ∧
    (s.pkg.findPlace id l = none → s.pkg.cores.any (fun k => match k.2.resv with | some r => r.launch == id | none => false) = true →
      exec (.blockPlace id) s = .next s)) ∧
  (∀ (s : State) id l c, s.pkg.launch? id = some l → s.pkg.starved id l = true →
    (∀ k ∈ s.pkg.cores, ∀ r, k.2.resv = some r → r.guarded = false) →
    (∀ e ∈ s.pkg.launches, e.2.prio < l.prio → s.pkg.starved e.1 e.2 = false) →
    ((s.pkg.stepsFrom 384).map stepCore).find? (fun c => (s.pkg.die (dieOfCore c)).places) = some c →
    Turns (.guardedReservation id) s (fun p => (p.core c).resv = some ⟨id, true⟩ ∧
      ∀ k ∈ p.cores, k.1 ≠ c → ∀ r, k.2.resv = some r → r.launch ≠ id)) ∧
  (∀ (s : State) c b bl, s.pkg.block? c b = some bl → bl.finished = true → s.pkg.blockQuiet c b bl = true →
    s.pkg.l1Barred c = false →
    ∃ p : Pkg, p.block? c b = none ∧
      (∀ l, s.pkg.launch? bl.launch = some l → ∃ l', p.launch? bl.launch = some l' ∧ l'.retired = l.retired + 1) ∧
      let r := p.endGrid bl.launch
      exec (.blockRetire c b) s = .next { s with pkg := if let some l := r.launch? bl.launch then r.settleQueue l.q else r }) ∧
  (∀ (s : State) c b bl, s.pkg.block? c b = some bl → bl.finished = false ∨ s.pkg.blockQuiet c b bl = false ∨
    s.pkg.l1Barred c = true → exec (.blockRetire c b) s = .next s)

/-- 02 R52-R55, R58, 13 R327-R328: for a launch that finds no room the longest-waiting event-waiting block (the model's
choice of the victim, log 84) is saved with its cluster, where its queue's area holds them: each block leaves its core, its
launch holds it as a waiting one, and its image is written; without a place for it the queue's ERROR is 1. The lowest saved
block that can go on is restored, with its cluster, on the cores that the dispatcher's cycle finds: each stands there, and
its image is gone. -/
def Sys2Proof.Claim.SavesAndRestoresRule : Prop :=
  (∀ (s : State) id l, s.pkg.launch? id = some l → s.pkg.wantsPlace l = true → s.pkg.findPlace id l = none →
    (s.pkg.eventVictims id l = [] → exec (.eventWaitBlockSave id) s = .next s) ∧
    (∀ x t ys, s.pkg.eventVictims id l = x :: t →
      let q := s.pkg.queueOf x.2.2
      let xs := s.pkg.clusterOf x.2.2
      s.pkg.placeImages (qOf s q) xs (s.pkg.images q) = some ys →
      (∀ y ∈ ys.zip xs, s.pkg.imagePoisoned y.1.2.2 (s.pkg.imageOf y.2.1 y.2.2.1 y.2.2.2) = false) →
      let p := savedAt s.pkg x.2.2.launch xs ys
      exec (.eventWaitBlockSave id) s = .next { s with pkg := p } ∧
      ((s.pkg.launch? x.2.2.launch).isSome = true → (xs.map (fun y => (y.1, y.2.1))).Nodup →
        (xs.map (fun y => y.2.2.index)).Nodup →
        ∃ m, p.launch? x.2.2.launch = some m ∧ m.st = .placing ∧
          (∀ y ∈ ys.zip xs, SavedAs p m y.2.1 y.2.2.1 y.2.2.2 y.1.2.2) ∧
          (∀ y, xs = [y] → ImageWritten p m y.2.2.index))) ∧
    (∀ x, s.pkg.eventVictims id l = [x] →
      s.pkg.placeImages (qOf s (s.pkg.queueOf x.2.2)) (s.pkg.clusterOf x.2.2) (s.pkg.images (s.pkg.queueOf x.2.2)) = none →
      Turns (.eventWaitBlockSave id) s (fun p => (p.queue (s.pkg.queueOf x.2.2)).error = 1 ∧ p.cores = s.pkg.cores))) ∧
  (∀ (s : State) id l ix v cs cur, s.pkg.launch? id = some l → l.ending = false → s.pkg.hold = false →
    (qOf s l.q).st = .active ∨ ((qOf s l.q).st = .preempted ∧ (qOf s l.q).resuming = true) →
    List.find? (fun e => s.pkg.wakes e.2) l.saved = some (ix, v) →
    let vs : List (Nat × Saved) := List.filter (fun e => e.1 == ix ||
      (decide (1 < v.block.clusterSize) && e.2.block.cluster == v.block.cluster)) l.saved
    (∀ e ∈ vs, s.pkg.imagePoisoned e.2.base e.2.size = false) →
    (s.pkg.findRestore id l vs = none → exec (.blockRestore id) s = .next s) ∧
    (s.pkg.findRestore id l vs = some (cs, cur) →
      (cs.any s.pkg.l1Barred = true → exec (.blockRestore id) s = .next s) ∧
      (cs.any s.pkg.l1Barred = false → cs.Nodup → Turns (.blockRestore id) s (fun p =>
        (∀ m, p.launch? id = some m → ∀ e ∈ vs, m.saved.find? e.1 = none) ∧
        ∀ e ∈ cs.zip vs, Stands p e.1 e.2.2.block))))

/-- The rules `PlacementRule`, `SavesAndRestoresRule` together. Choices of the model that it rests on: log 24, 25, 51, 53,
62, 84. -/
def Obligations.PlacementAndSaves : Prop :=
  PlacementRule ∧ SavesAndRestoresRule

/-- 02 R44, 23 R420-R426, 26 R478: a warp that the halt reached stops, and with its last one a block under HALT_FOR_DEBUG
is held; a killed block that has settled is gone; a halted block enters its handler in its lowest-numbered live warp,
whose v0-v15 hold the origin's record; claims that cannot be served and splits that wait too long take causes 0x17 and
0x29. Choices of the model that it rests on: log 20, 62. -/
def Obligations.Halts : Prop :=
  (∀ (s : State) c b w x n t cyc, s.pkg.warp? c b w = some x → x.halt = .reached n t → x.landed = true →
    Turns (.haltWarpStop c b w cyc) s (fun p => ∃ y, p.warp? c b w = some y ∧ y.halt = .stopped ∧
      (((x.abortAll 0x0E).abortAll 0x0E).live ≠ 0 ∨ (x.abortAll 0x0E).ownPend.isSome = true →
        y.frec.skidcyc = min cyc (min 64 (s.pkg.cycOf c - t).toNat) ∧
        y.frec.cause = (if x.frec.imprecise = true then x.frec.cause
          else match (x.abortAll 0x0E).ownPend with | some e => e.2.cause | none => 0x23)))) ∧
  (∀ (s : State) c b w x n t cyc bl o, s.pkg.warp? c b w = some x → x.halt = .reached n t → x.landed = true →
    let r := s.pkg.stopSibling c b w (min cyc (min 64 (s.pkg.cycOf c - t).toNat))
    r.block? c b = some bl → bl.mode = .halting o .debug → bl.allStopped = true →
    Turns (.haltWarpStop c b w cyc) s (fun p => p.block? c b = some { bl with mode := .held o } ∧
      (p.queue (r.queueOf bl)).st = (if (r.queue (r.queueOf bl)).st = .active then .halted else (r.queue (r.queueOf bl)).st))) ∧
  (∀ (s : State) c b bl, s.pkg.block? c b = some bl → bl.mode = .ending ∨ (∃ o, bl.mode = .halting o .kill) →
    s.pkg.killOver c b bl = true → s.pkg.l1Barred c = false →
    ∃ p : Pkg, p.block? c b = none ∧
      let r := ((p.endGrids (p.family bl.launch)).settleHalt (s.pkg.queueOf bl)).settleQueue (s.pkg.queueOf bl)
      exec (.killSettled c b) s = .next { s with pkg := r }) ∧
  (∀ (s : State) c b bl o h w, s.pkg.block? c b = some bl → bl.mode = .halting o .handler → bl.allStopped = true →
    s.pkg.saving bl = false → bl.handlerWarp = some (h, w) → 32 ≤ w.alloc →
    let pc := (qOf s (s.pkg.queueOf bl)).handler
    let origin := match bl.warps.find? o with | some x => x.frec | none => FRec.zero
    pc ≠ 0 → origin.cause ≠ 0x1D → (s.pkg.core c).shadow = none →
    Turns (.handlerStart c b) s (fun p => (p.core c).shadow = some (b, w) ∧
      ∃ y, p.warp? c b h = some y ∧ (y.split 0).pc = pc ∧ (y.split 0).mask = w.live ∧ (y.split 0).st = .ready ∧
        (∀ k, 1 ≤ k → (y.split k).st = .free) ∧ y.dstack = [] ∧ y.fptrap = 0 ∧ (∀ k, y.preds.toList.getD k 0 = 0) ∧
        ∀ i < 32, w.present.getLsbD i = true → ∀ r < 32, y.rd r i = (dueWords origin).getD r 0)) ∧
  (∀ (s : State) c b bl, s.pkg.block? c b = some bl →
    let now := (s.pkg.die (dieOfCore c)).cyc
    (s.pkg.claimsStuck c b bl = false → Turns (.claimDeadlockDetect c b) s (fun p =>
      p.block? c b = some { bl with stuck := none })) ∧
    (s.pkg.claimsStuck c b bl = true → bl.stuck = none → Turns (.claimDeadlockDetect c b) s (fun p =>
      p.block? c b = some { bl with stuck := some now })) ∧
    (∀ t q, s.pkg.claimsStuck c b bl = true → bl.stuck = some t → (s.pkg.core c).claims.find? (fun q => q.slot == b) = some q →
      (now.toNat < t.toNat + 4096 → exec (.claimDeadlockDetect c b) s = .next s) ∧
      (t.toNat + 4096 ≤ now.toNat →
        let r := faulted (s.pkg.modCore c (fun k => { k with claims := k.claims.filter (fun x => x.slot != b) })) c b q.w q.sp 0x17
        exec (.claimDeadlockDetect c b) s = .next { s with pkg := r }))) ∧
  (∀ (s : State) c b bl, s.pkg.block? c b = some bl →
    let q := s.pkg.queueOf bl
    let lim := (qOf s q).limit.toNat
    (lim = 0 ∨ bl.mode ≠ .running ∨ s.pkg.ptime.toNat < bl.lastIssue.toNat + 1000 * lim →
      exec (.watchdogFire c b) s = .next s) ∧
    (∀ w sp, lim ≠ 0 → bl.mode = .running → bl.paused = none → s.pkg.saving bl = false →
      bl.lastIssue.toNat + 1000 * lim ≤ s.pkg.ptime.toNat → bl.longestWait = some (w, sp) →
      ∃ p, (p.queue q).fired = ((qOf s q).fired + 1) % 2 ^ 32 ∧ (p.queue q).error = 6 ∧ p.mem = s.pkg.mem ∧
        exec (.watchdogFire c b) s = .next { s with pkg := faulted p c b w sp 0x29 }))

/-! ## Completions, wake-ups and pod-remote traffic (04 R97, 05 R118, 06 R141, 08 R205, 16 R370-R371, 25 R445, R459) -/

namespace Sys2Proof.Claim

open Sys2Proof.Machine

/-- Whether a walk serves the same page of the same address space as another. -/
def samePage (x y : Walk) : Bool := y.ctx.asid == x.ctx.asid && y.va.toNat / 4096 == x.va.toNat / 4096

/-- A call that its unit finished (12 R284). -/
def answeredCall (c : Call) (st : BitVec 8) (ws : List Word) : Call :=
  { c with done := true, status := st, ret := ws, fault := none }

/-- The call of a core. -/
def CallIs (core id : Nat) (c : Call) (p : Pkg) : Prop := (p.core core).calls.find? id = some c

/-- The units that perform a call as soon as they have taken it, with what they do (15 R353-R367): the event, its class,
the types of call that it serves and the work. -/
noncomputable def freeUnits : List ((Nat → Nat → Instr) × Nat × (Nat → Bool) × (Job → Pkg → Verdict)) :=
  [(.rast, 0, fun _ => true, rasterise), (.tri, 3, (· != 2), tessRun), (.quad, 3, (· == 2), tessRun),
   (.sample, 4, fun _ => true, sampleRun), (.box, 5, fun _ => true, boxRun), (.hit, 6, fun _ => true, hitRun)]

/-- The units that perform their calls in the order of tokens (15 R350-R358). -/
noncomputable def orderedUnits : List ((Nat → Nat → Instr) × Nat × (Nat → Bool) × (Job → Surf → Pkg → Verdict)) :=
  [(.ztest, 1, fun t => t != 2 && t != 3, depthRun), (.zclear, 1, (· == 2), depthRun), (.zretire, 1, (· == 3), depthRun),
   (.cclear, 2, fun t => decide (t < 2 ∨ 5 < t), blendRun), (.flat, 2, (· == 2), blendRun), (.tile, 2, (· == 3), blendRun),
   (.expand, 2, (· == 4), blendRun), (.cretire, 2, (· == 5), blendRun)]

/-- A call of a class waits in its unit, which is not frozen. -/
structure UnitAt (s : State) (core id n : Nat) (own : Nat → Bool) (c : Call) : Prop where
  here : CallIs core id c s.pkg
  notDone : c.done = false
  cls : c.cls = n
  runs : s.pkg.isFrozen 2 (8 * core + n) = false
  own : own c.type = true

/-- Held calls of an ordered unit. -/
def heldCalls (p : Pkg) (core cls : Nat) : List Nat := (p.core core).unitHold.getD cls []

/-- What a delivery of n bytes of source `j` does to an arrival barrier (08 R203-R204), whose scratchpad sector is in `q`:
it is discarded where the object is not VALID or the copy was marked, is an endpoint error and changes nothing where the
object is in an invalid state or BYTESj leaves its range, and otherwise takes n from BYTESj and may complete the phase. -/
def DeliveryIs (p q : Pkg) (c b off j n : Nat) (marked : Bool) : Prop :=
  let o := q.abarAt c b off
  let v := o.owed.getD j 0 - n
  (o.valid = false ∨ marked = true → p.deliver c b off j n marked = (q.discard c b off, false)) ∧
  (o.valid = true → marked = false → o.reserved = true ∨ o.expected < o.arrived → p.deliver c b off j n marked = (q, true)) ∧
  (o.valid = true → marked = false → o.reserved = false → o.arrived ≤ o.expected →
    (-8388608 ≤ v → v ≤ 8388607 →
      p.deliver c b off j n marked = ((q.setAbar c b off { o with owed := o.owed.set j v }).completeAbar c b off, false)) ∧
    (v < -8388608 ∨ 8388607 < v → p.deliver c b off j n marked = (q, true)))

/-- The registers that a pod-remote access writes hold the words of a response, in its lane (16 R371). -/
def Landed (x : Pod) (ws : List Word) (p : Pkg) : Prop :=
  ∀ d n, x.dst = some (d, n) → ∃ w, p.warp? x.core x.slot x.w = some w ∧ ∀ k < ws.length, w.rd (d + k) x.lane = ws.getD k 0

end Sys2Proof.Claim

/-- 06 R141, 04 R97, 08 R205, 05 R118, 11 R271, 25 R445: the oldest operation of a class that was performed leaves its
counter; a page walk ends for all that wait for its page; a line whose interval elapsed is granted in M; a sleeping split
goes on at its deadline; the oldest copy-on-write is made, and the request keeps its page; firmware moves a
spilled event back when the scheduler table has room (26 R468; the bytes of its overflow entry are the model's, log 26). -/
def Sys2Proof.Claim.CompletionsRule : Prop :=
  (∀ (s : State) c b w x cls o, s.pkg.warp? c b w = some x → cls = 0 ∨ cls = 1 ∨ cls = 5 → x.count cls ≠ 0 →
    (x.opsOf cls)[(x.opsOf cls).length - x.count cls]? = some o →
    (o.done = true → Turns (.accessComplete c b w cls) s (fun p => ∃ y, p.warp? c b w = some y ∧
      y.count cls = x.count cls - 1 ∧ ∀ k < 7, k ≠ cls → y.count k = x.count k)) ∧
    (o.done = false → Turns (.accessComplete c b w cls) s (fun p => ∃ y, p.warp? c b w = some y ∧
      ∀ k < 7, y.count k = x.count k))) ∧
  (∀ (s : State) d x t, (s.pkg.die d).walks = x :: t → ∃ p : Pkg, (p.die d).walks = t.filter (fun y => !samePage x y) ∧
    p.mem = s.pkg.mem ∧ exec (.pageWalkDone d) s = .next { s with pkg := (x :: t.filter (samePage x)).foldl Pkg.tryPrefetch p }) ∧
  (∀ (s : State) d, (s.pkg.die d).walks = [] → exec (.pageWalkDone d) s = .next s) ∧
  (∀ (s : State) d line, (∀ x ∈ s.pkg.inWait, x.2.1.addr / 256 ≠ line) →
    ((s.pkg.waitersOn d line).any s.pkg.dueWaiter = true → s.pkg.batchElse d line = false → s.pkg.homeDown (256 * line) = false →
      Turns (.atomicBackoffExpire d line) s (fun p =>
        (∃ e, p.dir.find? line = some e ∧ e.holder = some d ∧ e.owned = true ∧ e.sharers = []) ∧
        (p.backAt d line).batch = (if s.pkg.batchLeft d line = true then (s.pkg.backAt d line).batch
          else (s.pkg.waitersOn d line).take 32) ∧ (p.backAt d line).iv = (s.pkg.backAt d line).iv)) ∧
    ((s.pkg.waitersOn d line).any s.pkg.dueWaiter = false ∨ s.pkg.batchElse d line = true ∨ s.pkg.homeDown (256 * line) = true →
      exec (.atomicBackoffExpire d line) s = .next s)) ∧
  (∀ (s : State) c b w x k sp (t : DWord) z, s.pkg.warp? c b w = some x → x.splits[k]? = some sp → sp.st = .blocked →
    sp.wait = some z → z.kind = .sleep t →
    (t ≤ s.pkg.ptime → Turns (.sleepExpire c b w k) s (fun p => ∃ y, p.warp? c b w = some y ∧
      y = { x with splits := x.splits.set k { sp with st := .ready, wait := some { z with released := true } } })) ∧
    (s.pkg.ptime < t → Turns (.sleepExpire c b w k) s (fun p => p.warp? c b w = some x))) ∧
  (∀ (s : State) q t, s.pkg.cows = q :: t → q.copied = false → s.pkg.cowFirst q = true →
    s.pkg.dies.any (fun d => d.2.inReset || d.2.rebuild) = false →
    exec .copyOnWrite s = .next { s with pkg := { s.pkg.copyOnWrite q with cows := { q with copied := true } :: t } }) ∧
  (∀ (s : State), (∀ q ∈ s.pkg.cows, q.copied = true ∨ s.pkg.cowFirst q = false) → exec .copyOnWrite s = .next s) ∧
  (∀ (s : State) c, (s.pkg.core c).mx.ops = [] → exec (.matrixOpComplete c) s = .next s) ∧
  (∀ (s : State) a k e, s.mayServe a = true → List.filter (fun e => e.2.spilled && e.1 / 65536 == a) s.pkg.events = [(k, e)] →
    (∀ o ∈ s.pkg.owed, o.ctx.asid ≠ a) → (∀ l ∈ s.pkg.launches, l.2.waitsTodo = []) →
    (s.pkg.evLive < 8192 → Turns (.overflowService a) s (fun p => p.event k = { e with spilled := false } ∧
      (∀ j, j ≠ k → p.event j = s.pkg.event j) ∧
      ((∀ x ∈ s.pkg.queues, x.2.cx.asid ≠ a) → p.mem = s.pkg.mem))) ∧
    (8192 ≤ s.pkg.evLive → Turns (.overflowService a) s (fun p => p.events = s.pkg.events ∧ p.mem = s.pkg.mem))) ∧
  (∀ (s : State) a, s.mayServe a = false → exec (.overflowService a) s = .next s)

/-- 06 R141, 12 R290-R292, 08 R203: a copy writes up to n further bytes, 4 at a time, delivers what it wrote to the arrival
barriers that it names, and leaves its engine when it has written its destination or stopped at a fault; a channel that is
frozen, or whose die is in reset, does nothing. -/
def Sys2Proof.Claim.CopyProgressRule : Prop :=
  ∀ (s : State) c id y, (s.pkg.core c).copies.find? id = some y →
    (s.pkg.copyHeld c id = true →
      exec (.copyComplete c id) s = .next s ∧ ∀ n, exec (.copyDelivery c id n) s = .next s) ∧
    (s.pkg.copyHeld c id = false →
      (y.fault ≠ none ∨ y.total ≤ y.written → (Turns (.copyComplete c id) s (fun p => (p.core c).copies.find? id = none)) ∧
        ∀ n, exec (.copyDelivery c id n) s = .next s) ∧
      (y.fault = none → y.written < y.total → exec (.copyComplete c id) s = .next s ∧
        (∀ ds n p bs, s.pkg.copyDests y = some ds → y.aben = false → n < 8 → s.pkg.copyPiece c id y ds = .ok p bs →
          Turns (.copyDelivery c id n) s (fun r => (r.core c).copies.find? id = some { y with written := y.written + 4 } ∧
            r.mem = p.mem)) ∧
        (∀ ds n, s.pkg.copyDests y = some ds → s.pkg.deliveryWaits y ds = true → exec (.copyDelivery c id n) s = .next s) ∧
        (∀ ds n, s.pkg.copyDests y = some ds → s.pkg.deliveryWaits y ds = false →
          let r := Pkg.copyRun c id ds (max 1 (n / 4)) s.pkg y
          let got := r.2.written - y.written
          r.2.fault = none →
          (y.aben = false ∨ got = 0 → Turns (.copyDelivery c id n) s (fun t =>
            (t.core c).copies.find? id = some r.2 ∧ t.mem = r.1.mem)) ∧
          (y.aben = true → got ≠ 0 →
            ((r.1.deliverAll r.2 ds got).2 = false → Turns (.copyDelivery c id n) s (fun t =>
              (t.core c).copies.find? id = some r.2 ∧ t.mem = (r.1.deliverAll r.2 ds got).1.mem ∧
              ∀ k b, t.block? k b = (r.1.deliverAll r.2 ds got).1.block? k b)) ∧
            ((r.1.deliverAll r.2 ds got).2 = true → ∃ t : Pkg, let z : Copy := { r.2 with fault := some ⟨0x16, BitVec.ofNat 64 y.abar, 0⟩ }
              (t.core c).copies.find? id = some z ∧ t.mem = (r.1.deliverAll r.2 ds got).1.mem ∧
              exec (.copyDelivery c id n) s = .next { s with pkg := t.copyFaulted z ⟨0x16, BitVec.ofNat 64 y.abar, 0⟩ }))) ∧
        (∀ (p q : Pkg) k b off j n marked, p.spTouch k b off true = .ok q → DeliveryIs p q k b off j n marked) ∧
        (∀ ds n p x, s.pkg.copyDests y = some ds → y.aben = false → s.pkg.copyPiece c id y ds = .fail p x →
          ∃ r : Pkg, (r.core c).copies.find? id = some { y with fault := some x } ∧ r.mem = p.mem ∧
            exec (.copyDelivery c id n) s = .next { s with pkg := r.copyFaulted { y with fault := some x } x })))

/-- The rules `CompletionsRule`, `CopyProgressRule` together. Choices of the model that it rests on: log 6, 26, 56. -/
def Obligations.CompletionEvents : Prop :=
  CompletionsRule ∧ CopyProgressRule

/-- 12 R279, R284-R286, 15 R346-R352: a unit that has taken a call performs it: a malformed LEN is REJECTED with a zero
record, a result is DONE with the unit's status and words; an ordered unit holds a call whose token lies ahead of
NEXT, rejects one behind it and commits the one whose turn it is; a finished call returns its record to its lane; a
class 8 record reaches the same lane of its peer. Choices of the model that it rests on: log 32, 43, 44, 45. -/
def Obligations.UnitCalls : Prop :=
  (∀ e ∈ freeUnits, ∀ (s : State) core i c, UnitAt s core i e.2.1 e.2.2.1 c →
    i ∈ ((s.pkg.core core).unitQueue e.2.1).take 8 → c.failed = false →
    (c.lenOk = false → Turns (e.1 core i) s (CallIs core i (answeredCall c 9 c.rejectWords))) ∧
    (c.lenOk = true → ∀ q st ws, e.2.2.2 ⟨core, i, c, c.ctx⟩ s.pkg = .ret q st ws → CallIs core i c q →
      Turns (e.1 core i) s (fun p => CallIs core i (answeredCall c (st ||| 1) ws) p ∧ p.mem = q.mem))) ∧
  (∀ e ∈ orderedUnits, ∀ (s : State) core i c, UnitAt s core i e.2.1 e.2.2.1 c → heldCalls s.pkg core e.2.1 = [] →
    s.pkg.mayTake core e.2.1 i = true →
    let j : Job := ⟨core, i, c, c.ctx⟩
    (j.turn s.pkg = .held → Turns (e.1 core i) s (fun p => heldCalls p core e.2.1 = [i] ∧ CallIs core i c p)) ∧
    (∀ q sf n q' st ws q'' bs, c.failed = false → c.lenOk = true → j.turn s.pkg = .commit q sf n →
      e.2.2.2 j sf q = .ret q' st ws → j.write q' (j.tokenVa sf) (bytesOf 2 ((n + 1) % 65536)) = .ok q'' bs →
      CallIs core i c q'' → heldCalls q'' core e.2.1 = [] →
      Turns (e.1 core i) s (fun p => CallIs core i (answeredCall c (st ||| 1) ws) p ∧ p.mem = q''.mem))) ∧
  (∀ (j : Job) (p p' p'' : Pkg) sf bs, 5 ≤ j.call.words.length → j.surface p = .ok (.ok (p', sf)) →
    j.read p' (j.tokenVa sf) 2 = .ok p'' bs → ofBytes bs < 65536 →
    ∃ gap < 65536, (ofBytes bs + gap) % 65536 = j.call.token % 65536 ∧ (j.call.token < 65536 →
      j.turn p = if gap = 0 then .commit p'' sf (ofBytes bs) else if gap < 32768 then .held else .at_once .reject)) ∧
  (∀ (s : State) core cls, heldCalls s.pkg core cls = [] → exec (.heldCallReexamine core cls) s = .next s) ∧
  (∀ (s : State) core i p, heldCalls s.pkg core 1 = [i] → s.pkg.examine depthRun core i = some p →
    exec (.heldCallReexamine core 1) s = .next { s with pkg := p }) ∧
  (∀ (s : State) core id c w r q, CallIs core id c s.pkg.admitColls → c.done = true → c.cls ≠ 8 →
    s.pkg.admitColls.warp? core c.slot c.w = some w → w.calls.find? (fun r => r.call == id) = some r → r.retq = some q →
    w.live.getLsbD r.lane = true →
    Turns (.callReturn core id) s (fun p => (p.core core).calls.find? id = none ∧
      ∃ v, p.warp? core c.slot c.w = some v ∧ v.retsOf q r.lane = w.retsOf q r.lane ++ [⟨c.record, 0, id⟩])) ∧
  (∀ (s : State) core slot i c w b v, CallIs core i c s.pkg → c.cls = 8 → c.slot = slot → s.pkg.warp? core slot c.w = some w →
    w.bind? c.q = some b → s.pkg.warp? core slot b.peer = some v → v.retCount b.peerq < 64 → v.live.getLsbD c.lane = true →
    ((s.pkg.core core).unitQueue 8).head? = some i →
    Turns (.peerRecord core slot i) s (fun p => (p.core core).calls.find? i = none ∧
      ∃ u, p.warp? core slot b.peer = some u ∧ u.retsOf b.peerq c.lane =
        v.retsOf b.peerq c.lane ++ [⟨(c.words ++ List.replicate 16 0).take 16, 0, i⟩]))

/-- 16 R372-R376, 26 R481-R483, 12 R296: a group is valid when its entry is usable and its list names this package at its
rank, and not valid while the read of its list waits; a message is kept for the oldest collective that lacks it, or ends it,
and one of a collective that ended without it is passed over; a collective that has every message is performed and ends; a
message without a response for 20 µs is sent once more, then its member is lost; a lost member or an abort makes the group
invalid, and the one that loses a member sends an abort to every other (the bounds of the messages are the model's, log 36). -/
def Sys2Proof.Claim.GroupsAndMessagesRule : Prop :=
  (∀ (s : State) g (v : Word), g < 256 → (s.pkg.group g).reading = none →
    (s.pkg.groupBusy g = true → exec (.groupValidate g v) s = .next s) ∧
    (s.pkg.groupBusy g = false →
      let size := v.toNat % 1024
      let rank := v.toNat / 65536 % 1024
      let gr : Group := ⟨false, rank, size, (s.pkg.group g).addr, [], none, [], []⟩
      let p0 := s.pkg.setGroup g gr
      (v.getLsbD 31 = false ∨ size = 0 ∨ 576 < size ∨ size ≤ rank ∨ (∃ q, p0.readMembers g gr.addr size = .ok (q, none)) →
        Turns (.groupValidate g v) s (fun p => p.group g = gr)) ∧
      (v.getLsbD 31 = true → size ≤ 576 → rank < size →
        (∀ q ms, p0.readMembers g gr.addr size = .ok (q, some ms) → Turns (.groupValidate g v) s (fun p => p.group g =
          if ms[rank]? = some q.link.pkgid then { gr with valid := true, members := ms } else gr)) ∧
        (∀ q, p0.readMembers g gr.addr size = .error q →
          Turns (.groupValidate g v) s (fun p => p.group g = { gr with reading := some gr.addr }))))) ∧
  (∀ (s : State) g (v : Word) a, g < 256 → (s.pkg.group g).reading = some a →
    exec (.groupValidate g v) s = .next { s with pkg := s.pkg.readGroup g a }) ∧
  (∀ (s : State) g rank data, let p0 := s.pkg.admitColls
    let gr := p0.group g
    (p0.link.linken = false → exec (.collMessage g rank data) s = .next { s with pkg := p0 }) ∧
    (p0.link.linken = true → p0.isFrozen 3 (g % 2) = false → gr.valid = true → rank ≠ gr.rank →
    (gr.size ≤ rank → exec (.collMessage g rank data) s = .next ({ s with pkg := p0 }.freezeMaster ⟨3, 3, g % 2, 0, 0⟩)) ∧
    (rank < gr.size → gr.skip.getD rank 0 ≠ 0 → Turns (.collMessage g rank data) s (fun p => p.colls = p0.colls ∧
      (p.group g).skip.getD rank 0 = gr.skip.getD rank 0 - 1)) ∧
    (rank < gr.size → gr.skip.getD rank 0 = 0 → ∀ id y,
      List.find? (fun e => e.2.group == g && (e.2.got.find? rank).isNone) p0.colls = some (id, y) →
      Turns (.collMessage g rank data) s (fun p => p.colls.find? id = some
        { y with got := KMap.insert rank (data.drop 8) y.got
                 cause := if y.cause.isSome = true ∨ (data.take 8 = y.header ∧ y.wellSized data = true) then y.cause
                   else some ⟨0x16, 0, 0⟩ })))) ∧
  (∀ (s : State) g id y, let p0 := s.pkg.admitColls
    p0.isFrozen 3 (g % 2) = false → List.find? (fun e => e.2.group == g) p0.colls = some (id, y) →
    (∀ x, y.cause = some x → exec (.collComplete g) s = .next { s with pkg := p0.endColl id y (some x) }) ∧
    (y.cause = none → (∃ r ∈ y.needs (p0.group g), y.got.find? r = none) →
      exec (.collComplete g) s = .next { s with pkg := p0 }) ∧
    (y.cause = none → (∀ r ∈ y.needs (p0.group g), y.got.find? r ≠ none) → ∀ p x, p0.runColl y (p0.group g) = .ok (p, x) →
      exec (.collComplete g) s = .next { s with pkg := p.endColl id y x })) ∧
  (∀ (s : State) g pkg, let p0 := s.pkg.admitColls
    (p0.group g).valid = true →
    (pkg ∈ (p0.group g).members → Turns (.collAbortReceive g pkg) s (fun p => (p.group g).valid = false)) ∧
    (pkg ∉ (p0.group g).members → exec (.collAbortReceive g pkg) s = .next { s with pkg := p0 }) ∧
    (pkg ∈ (p0.group g).members → Turns (.collAbortReceive g pkg) s (fun p => ∀ e ∈ p.colls, e.2.group ≠ g))) ∧
  (∀ (s : State) g pkg, let p0 := s.pkg.admitColls
    let gr := p0.group g
    let late (o : OutMsg) : Bool := o.to_ == pkg && decide (o.at_.toNat + 20000 ≤ p0.ptime.toNat)
    ((∀ o ∈ gr.out, late o = false) → exec (.peerLostTimeout g pkg) s = .next { s with pkg := p0 }) ∧
    (∀ k o, gr.out.findIdx? late = some k → gr.out[k]? = some o →
      (o.again = false → p0.link.portUp ≠ 0 → Turns (.peerLostTimeout g pkg) s (fun p =>
        p.group g = { gr with out := gr.out.set k { o with at_ := p0.ptime, again := true } })) ∧
      (o.again = true ∨ p0.link.portUp = 0 →
        (gr.valid = true → Turns (.peerLostTimeout g pkg) s (fun p => (p.group g).valid = false ∧
          (∀ e ∈ p.colls, e.2.group ≠ g) ∧
          (p.group g).out = (gr.members.filter (· != p0.link.pkgid)).map (fun m => ⟨m, p0.ptime, false, some pkg⟩))) ∧
        (gr.valid = false → Turns (.peerLostTimeout g pkg) s (fun p =>
          p.group g = { gr with out := gr.out.eraseIdx k })))))

/-- 16 R370-R371, 25 R453, R459, 27 R484-R488: a response ends an access and lands in its registers; an error, a refusal,
poison or 20 µs without an answer fault it; the late answers free the line, one for each request that holds it; ports rise and fall; a request of another
package reads or writes memory, or freezes its requester where no window permits it. -/
def Sys2Proof.Claim.PodTrafficRule : Prop :=
  (∀ (s : State) id x, s.pkg.pods.find? id = some x →
    (x.port ≠ none → s.pkg.link.linken = true → s.pkg.ptime.toNat < x.sent.toNat + 20000 →
      (∀ data, x.lane < 32 → x.queue = none → Turns (.podResponse id .done data) s (fun p => p.pods.find? id = none ∧
        (∀ w, s.pkg.warp? x.core x.slot x.w = some w → Landed x (x.words data) p ∧
          ∀ k, x.chk = some k → ∃ v, p.warp? x.core x.slot x.w = some v ∧ v.pred k x.lane = true))) ∧
      (∀ data, ∃ p : Pkg, p.link.timeouts = s.pkg.link.timeouts + 1 ∧ p.pods = s.pkg.pods ∧
        exec (.podResponse id .error data) s = .next { s with pkg := p.failPod id x 0x27 }) ∧
      (∀ data, exec (.podResponse id .denied data) s = .next { s with pkg := s.pkg.failPod id x 0x0A }) ∧
      (∀ data, ∃ p : Pkg, exec (.podResponse id .poison data) s = .next { s with pkg := p.failPod id x 0x1C })) ∧
    (x.port = none ∨ s.pkg.link.linken = false ∨ x.sent.toNat + 20000 ≤ s.pkg.ptime.toNat → ∀ k data, exec (.podResponse id k data) s = .next s) ∧
    (s.pkg.ptime.toNat < x.sent.toNat + 20000 → exec (.podTimeout id) s = .next s) ∧
    (x.sent.toNat + 20000 ≤ s.pkg.ptime.toNat → ∃ p : Pkg, p.link.timeouts = s.pkg.link.timeouts + 1 ∧
      (∀ k, x.port = some k → p.heldLines.find? (x.pa / 256) = some (s.pkg.heldLines.getD (x.pa / 256) [] ++ [(k, false)])) ∧
      exec (.podTimeout id) s = .next { s with pkg := p.failPod id x 0x27 })) ∧
  (∀ (s : State) line, Turns (.podLateResponse line) s (fun p => p.heldLines.getD line [] = (s.pkg.heldLines.getD line []).drop 1 ∧
    ∀ k, k ≠ line → p.heldLines.find? k = s.pkg.heldLines.find? k)) ∧
  (∀ (s : State) k up, k < 16 → up = false ∨ s.pkg.xreset.find? (k / 8) = none →
    Turns (.portStateChange k up) s (fun p => p.link.portUp.getLsbD k = up ∧
      ∀ j < 16, j ≠ k → p.link.portUp.getLsbD j = s.pkg.link.portUp.getLsbD j)) ∧
  (∀ (s : State) k, 16 ≤ k ∨ s.pkg.xreset.find? (k / 8) ≠ none → exec (.portStateChange k true) s = .next s) ∧
  (∀ (s : State) src addr len wr (data : List Byte), s.pkg.link.linken = true → s.pkg.link.portUp ≠ 0 → 0 < len → len ≤ 256 →
    src < 576 → src ≠ s.pkg.link.pkgid → (wr = true → len ≤ data.length) →
    (s.pkg.isFrozen 5 src = true → exec (.ualinkInboundRequest src addr len wr none data) s =
      .next { s with mgmt := { s.mgmt with answer := none } }) ∧
    (s.pkg.isFrozen 5 src = false → s.mgmt.check = false → src ∉ s.pkg.shunned → noStash s.pkg →
      (memSize < addr + len → exec (.ualinkInboundRequest src addr len wr none data) s =
        .next { s with mgmt := { s.mgmt with answer := none } }) ∧
      (addr + len ≤ memSize → (∀ a, addr ≤ a → a < addr + len → s.pkg.homeDown (256 * (a / 256)) = false) →
        (∀ a, addr ≤ a → a < addr + len → a / 64 ∉ s.pkg.poison) →
        (wr = true → ∀ a, addr ≤ a → a < addr + len → s.pkg.batchElse 4 (a / 256) = false) →
        (wr = false → exec (.ualinkInboundRequest src addr len wr none data) s = .next (answered s (s.pkg.readMem addr len))) ∧
        (wr = true → ∃ t, exec (.ualinkInboundRequest src addr len wr none data) s = .next t ∧
          t.mgmt = (answered s []).mgmt ∧ (∀ j < len, t.pkg.byte (addr + j) = data.getD j 0) ∧
          ∀ a, ¬ (addr ≤ a ∧ a < addr + len) → t.pkg.byte a = s.pkg.byte a))) ∧
    (s.pkg.isFrozen 5 src = false → s.mgmt.check = true → s.mgmt.windows = [] →
      ∃ p : Pkg, p.mem = s.pkg.mem ∧ p.isFrozen 5 src = true ∧ exec (.ualinkInboundRequest src addr len wr none data) s =
        .next { s with pkg := p, mgmt := { s.mgmt with answer := none, freezes := s.mgmt.freezes + 1 } }))

/-- The rules `GroupsAndMessagesRule`, `PodTrafficRule` together. Choices of the model that it rests on: log 32, 36, 58.
-/
def Obligations.MessagesAndPods : Prop :=
  GroupsAndMessagesRule ∧ PodTrafficRule

/-! ## Snapshots, counters, traces and the debug register (05 R114-R127, 17 R382-R395, 26 R462) -/

namespace Sys2Proof.Claim

open Sys2Proof.Machine

/-- Request `i` of the snapshot engine is `x` and is the next of its region that can be applied (05 R127). -/
structure Applies (s : State) (i : Nat) (x : Snap) : Prop where
  here : s.pkg.snaps[i]? = some x
  first : ∀ y ∈ s.pkg.snaps.take i, y.region ≠ x.region
  settled : s.pkg.cowWaits x.region = false
  up : s.pkg.dies.any (fun d => d.2.inReset || d.2.rebuild) = false

/-- A command of the debug register of core `c` runs on warp `w` of a block that is not being saved (17 R392). -/
structure Debugs (s : State) (c op : Nat) (t : DbgTgt) (bl : Block) (w : Warp) : Prop where
  busy : (s.pkg.core c).dbgCmd.getLsbD 27 = true
  op : (s.pkg.core c).dbgCmd.toNat / 2 ^ 28 = op
  target : (s.pkg.core c).target = some t
  block : s.pkg.block? c t.slot = some bl
  warp : s.pkg.warp? c t.slot t.w = some w
  free : s.pkg.saving bl = false

/-- The command is over with a status: BUSY is 0. -/
def CmdDone (c st : Nat) (p : Pkg) : Prop :=
  (p.core c).dbgCmd.getLsbD 27 = false ∧ (p.core c).dbgCmd.toNat / 2 ^ 24 % 8 = st

/-- REG of the command. -/
def regField (s : State) (c : Nat) : Nat := (s.pkg.core c).dbgCmd.toNat % 2048

/-- No page walk is under way. -/
def noWalks (p : Pkg) : Prop := ∀ d ∈ p.dies, d.2.walks = []

end Sys2Proof.Claim

/-- 05 R114, R122, R125, R127, 26 R462: an action of a SNAPSHOT packet is refused with its code, or applied: OPEN begins a
region with version 0 and nothing published, PUBLISH raises the published version and never lowers it, RACK raises the
floor, CLOSE ends the region. Choices of the model that it rests on: log 46, 52. -/
def Obligations.SnapshotActions : Prop :=
  ∀ (s : State) i x k, Applies s i x → x.fromPacket = true → Pkt x.a x.b k s.pkg →
    let cx := (qOf s x.a).cx
    (∀ c, s.pkg.snapCheck cx x = .error c → c ≠ 0 →
      Turns (.snapshotActionApply i) s (fun p => Pkt x.a x.b (overWith k 5 c) p ∧ p.regions = s.pkg.regions)) ∧
    (∀ a bs, s.pkg.snapCheck cx x = .ok (a, bs) →
      (x.action = 0 → Turns (.snapshotActionApply i) s (fun p => Pkt x.a x.b (overWith k 0 0) p ∧
        ∃ r, p.regions.find? x.region = some r ∧ r.floor = 0 ∧ r.pub = 0 ∧ r.pvalid = false ∧
          r.base = BitVec.ofNat 64 (recNat bs 0 8) ∧ r.pages = recNat bs 8 4)) ∧
      (∀ r, s.pkg.regions.find? x.region = some r →
        (x.action = 1 → Turns (.snapshotActionApply i) s (fun p => Pkt x.a x.b (overWith k 0 0) p ∧
          ∃ r', p.regions.find? x.region = some r' ∧ r'.pvalid = true ∧ x.version ≤ r'.pub ∧
            (r.pvalid = true → r.pub ≤ r'.pub) ∧ (r'.pub = x.version ∨ r'.pub = r.pub))) ∧
        (x.action = 2 → Turns (.snapshotActionApply i) s (fun p => Pkt x.a x.b (overWith k 0 0) p ∧
          ∃ r', p.regions.find? x.region = some r' ∧ r'.floor = (if r.floor < x.version then x.version else r.floor) ∧
            r'.pub = r.pub ∧ r'.pvalid = r.pvalid)) ∧
        (x.action = 3 → noWalks s.pkg → Turns (.snapshotActionApply i) s (fun p => Pkt x.a x.b (overWith k 0 0) p ∧
          p.regions.find? x.region = none))))

/-- 17 R382-R389: CLEAR makes every counter of a core 0; FREEZE keeps their values and a later unfreeze goes on from them;
a quadrant is sampled every 4,096 slots; a compressor writes the CLOSE word that its part owes, and a frame once it is full. -/
def Sys2Proof.Claim.CountersAndSamplesRule : Prop :=
  (∀ (s : State) c, Turns (.counterClear c) s (fun p => ∀ port leaf, p.slotCounter c port leaf = 0)) ∧
  (∀ (s : State) c on, Turns (.counterFreeze c on) s (fun p => (p.core c).frozen.isSome = on ∧
    ∀ port leaf, p.slotCounter c port leaf = s.pkg.slotCounter c port leaf)) ∧
  (∀ (s : State) c quad, quad < 4 →
    let last := (s.pkg.core c).sampled.getD quad 0
    (last.toNat + 4096 ≤ (s.pkg.cycOf c).toNat → Turns (.traceSample c quad) s (fun p =>
      (p.core c).sampled.find? quad = some (last + 4096) ∧ p.mem = s.pkg.mem)) ∧
    ((s.pkg.cycOf c).toNat < last.toNat + 4096 → exec (.traceSample c quad) s = .next s)) ∧
  (∀ (s : State) q d t, let p0 := s.pkg.payClose q d
    p0.traces.find? q = some t → d < 4 → (p0.die d).inReset = false →
    ((∀ x, s.pkg.traces.find? q = some x → x.closeDue.find? d = none) → p0 = s.pkg) ∧
    ((t.recs.getD d []).length < 123 → exec (.traceFrameWrite q d) s = .next { s with pkg := p0 }) ∧
    (123 ≤ (t.recs.getD d []).length → ∀ p, p0.writeFrame q d = .ok p →
      exec (.traceFrameWrite q d) s = .next { s with pkg := p }))

/-- 17 R392-R395: the commands of the debug register: STOP stops a split, RESUME and STEP let a stopped one go on, READ
and WRITE reach its registers; a target that is not there is STATUS 3, for READ and WRITE STATUS 1 like every other that is
no lane of a STOPPED split (log 60); a register that is not there is STATUS 3. -/
def Sys2Proof.Claim.DebugCommandsRule : Prop :=
  (∀ (s : State) c, (s.pkg.core c).dbgCmd.getLsbD 27 = false → exec (.stop c) s = .next s ∧ exec (.resume c) s = .next s ∧
    exec (.step c) s = .next s ∧ exec (.read c) s = .next s ∧ exec (.write c) s = .next s) ∧
  (∀ (s : State) c, (s.pkg.core c).dbgCmd.getLsbD 27 = true → (s.pkg.core c).target = none →
    ((s.pkg.core c).dbgCmd.toNat / 2 ^ 28 = 1 → Turns (.stop c) s (CmdDone c 3)) ∧
    ((s.pkg.core c).dbgCmd.toNat / 2 ^ 28 = 2 → Turns (.resume c) s (CmdDone c 3)) ∧
    ((s.pkg.core c).dbgCmd.toNat / 2 ^ 28 = 3 → Turns (.step c) s (CmdDone c 3)) ∧
    ((s.pkg.core c).dbgCmd.toNat / 2 ^ 28 = 4 → Turns (.read c) s (CmdDone c 1)) ∧
    ((s.pkg.core c).dbgCmd.toNat / 2 ^ 28 = 5 → Turns (.write c) s (CmdDone c 1))) ∧
  (∀ (s : State) c t bl w, Debugs s c 1 t bl w → w.regions = [] → (w.split t.sp).st ≠ .free →
    (w.split t.sp).inCow = false → w.landing (w.split t.sp).mask = false →
    Turns (.stop c) s (fun p => CmdDone c 0 p ∧ ∃ y, p.warp? c t.slot t.w = some y ∧ (y.split t.sp).st = .stopped ∧
      (y.split t.sp).pc = (w.split t.sp).pc ∧ (y.split t.sp).mask = (w.split t.sp).mask)) ∧
  (∀ (s : State) c t bl w, Debugs s c 2 t bl w → w.halt = .running →
    ((w.split t.sp).st = .stopped → Turns (.resume c) s (fun p => CmdDone c 0 p ∧ ∃ y, p.warp? c t.slot t.w = some y ∧
      (y.split t.sp).st = (w.split t.sp).prior ∧ (y.split t.sp).stepping = false)) ∧
    ((w.split t.sp).st ≠ .stopped → Turns (.resume c) s (CmdDone c 1))) ∧
  (∀ (s : State) c t bl w, Debugs s c 3 t bl w → w.halt = .running →
    ((w.split t.sp).st = .stopped → Turns (.step c) s (fun p => CmdDone c 0 p ∧ ∃ y, p.warp? c t.slot t.w = some y ∧
      (y.split t.sp).st = (w.split t.sp).prior ∧ (y.split t.sp).stepping = true)) ∧
    ((w.split t.sp).st ≠ .stopped → Turns (.step c) s (CmdDone c 1))) ∧
  (∀ (s : State) c t bl w, Debugs s c 4 t bl w → t.w ≠ armNo → (w.split t.sp).st = .stopped →
    (w.split t.sp).mask.getLsbD t.lane = true →
    (∀ r, regField s c = r → r < 256 → r < w.alloc → Turns (.read c) s (fun p => CmdDone c 0 p ∧
      (p.core c).dbgData = w.rd r t.lane)) ∧
    (∀ k : PReg, regField s c = 0x100 + k.val → Turns (.read c) s (fun p => CmdDone c 0 p ∧
      (p.core c).dbgData = if (w.pred k t.lane) = true then 1 else 0)) ∧
    (∀ r, regField s c = r → r < 256 → w.alloc ≤ r → Turns (.read c) s (CmdDone c 3))) ∧
  (∀ (s : State) c t bl w, Debugs s c 5 t bl w → t.w ≠ armNo → (w.split t.sp).st = .stopped →
    (w.split t.sp).mask.getLsbD t.lane = true →
    (∀ r, regField s c = r → r < 256 → r < w.alloc → Turns (.write c) s (fun p => CmdDone c 0 p ∧
      p.warp? c t.slot t.w = some (w.wr r t.lane (s.pkg.core c).dbgData))) ∧
    (∀ x : Nat, regField s c = 0x108 + x → x < 4 → Turns (.write c) s (fun p => CmdDone c 0 p ∧
      p.warp? c t.slot t.w = some (w.setIx x t.lane (s.pkg.core c).dbgData))))

/-- The rules `CountersAndSamplesRule`, `DebugCommandsRule` together. Choices of the model that it rests on: log 41, 54,
60. -/
def Obligations.ObservationAndDebug : Prop :=
  CountersAndSamplesRule ∧ DebugCommandsRule

/-! ## Storage errors, frozen masters, holds, resets and throttling (25 R448-R458, 26 R480, 27 R484-R503, 01 R23) -/

namespace Sys2Proof.Claim

open Sys2Proof.Machine

/-- A counter that stops at its greatest value (25 R448). -/
def onceMore (v : Word) : Word := if v = 0xFFFFFFFF then v else v + 1

/-- The stage that a temperature in units of 0.125 degrees and a voltage condition ask for (27 R502). -/
def stageFor (hold pace : Nat) (t : Int) (volt : Bool) : Nat :=
  if 920 ≤ t then 3 else if (hold : Int) ≤ t then 2 else if (pace : Int) ≤ t ∨ volt = true then 1 else 0

/-- The frozen masters that a thaw of an entry leaves. -/
def leftFrozen (s : State) (e : Nat) : List Freeze := s.pkg.frozen.filter (fun f => f.entry != some e)

/-- No core of a die holds anything. -/
def bare (p : Pkg) (d : Nat) : Prop := ∀ k ∈ p.cores, dieOfCore k.1 ≠ d

/-- No block is resident on a die. -/
def vacated (p : Pkg) (d : Nat) : Prop := ∀ k ∈ p.cores, dieOfCore k.1 = d → k.2.blocks = []

/-- The cores of a die hold nothing that runs on: no copy, no call, and no dirty byte that has to wait. -/
def enginesIdle (p : Pkg) (d : Nat) : Prop :=
  ∀ k ∈ p.cores, dieOfCore k.1 = d → k.2.copies = [] ∧ k.2.calls = [] ∧ p.l1Barred k.1 = false

/-- A queue that the draining of die `d` pre-empted is not saved yet. -/
def stillSaving (p : Pkg) (d : Nat) : Prop :=
  ∃ q ∈ ((p.die d).drain).getD [], (p.queue q).st = .preempting ∨ (p.queue q).preemptDue = true

/-- A save of a queue that a draining die pre-empted was refused (27 R496). -/
def saveWasRefused (p : Pkg) (d : Nat) (qs : List Nat) : Prop :=
  ∃ q ∈ p.queuesOn d, q ∈ qs ∧ (p.queue q).st = .active ∧ (p.queue q).preemptDue = false

/-- The package once die `d` is swept: every L1, stash window and trace part of it is written (25 R456). -/
def swept (p : Pkg) (d : Nat) : Except Pkg Pkg :=
  let q := (List.filter (fun k => dieOfCore k.1 == d) p.cores).foldl (fun p k => p.l1WriteBack k.1) p.cleanStashes
  q.traces.keys.foldl (fun (r : Except Pkg Pkg) t => r.bind (fun p => p.closePart t d 2 (some 2))) (.ok q)

/-- The queues that X-die `x` serves, of those the package lists. -/
def servedBy (p : Pkg) (x : Nat) : List Nat := p.queues.keys.filter (fun q => q / 512 == x)

/-- The package when X-die `x` has entered reset and the reset of its queue `q` is to begin (27 R500). -/
def queueLost (s : State) (x q : Nat) (err : Bool) : Pkg :=
  let p : Pkg := { s.pkg with
    xreset := KMap.insert x (err, s.pkg.ptime) s.pkg.xreset
    launches := (s.pkg.launches.map (fun e => (e.1, if (servedBy s.pkg x).contains e.2.q then { e.2 with linking := false } else e.2))) }
  p.modQueue q (fun k => { k with lost := true })

/-- An X-die `x` is in reset (27 R500): its links and ports are down and its firmware does not run, its groups are invalid
and their collectives over, and each queue that it serves has lost what it had, or loses it once what its reset waits for is
over. -/
def XdieDown (s : State) (x : Nat) (err : Bool) (t : State) : Prop :=
  t.pkg.xreset.find? x = some (err, s.pkg.ptime) ∧ t.linkIsUp x = false ∧ t.fwAlive x = false ∧
  (∀ k < 8, t.pkg.link.portUp.getLsbD (8 * x + k) = false) ∧
  (∀ g, g % 2 = x → (t.pkg.group g).valid = false) ∧ (∀ e ∈ t.pkg.colls, e.2.group % 2 ≠ x) ∧
  (∀ i < 512, let k := t.pkg.queue (512 * x + i)
    (k.error = 8 ∧ k.enable = false ∧ k.packets = []) ∨ k.lost = true) ∧
  (∀ q, servedBy s.pkg x = [q] → let p0 := queueLost s x q err
    (p0.queue q).st ≠ .preempting → (resetBegun p0 q).resetSettled q = true →
    (∃ r, ((resetBegun p0 q).endBlocks q).closeTrace q 1 (some 1) = .ok r) →
    (t.pkg.queue q).error = 8 ∧ WasReset q t.pkg ∧ (∀ e ∈ t.pkg.launches, e.2.q ≠ q) ∧ t.pkg.queueBlocks q = [])

/-- The boot of an X-die after a restart (16 R380). -/
def restarted (s : State) (x : Nat) : State := { s with pkg := { s.pkg with xreset := KMap.erase x s.pkg.xreset } }

end Sys2Proof.Claim

/-- 25 R448-R452, 26 R480: a corrected error adds to its counter, which saturates; an uncorrectable one in HBM poisons its
sector and is noted; a scrub writes zeros and clears the poison, and changes nothing where SCRUB_PA names no sector of its die; CLEAR zeroes the block but for SCRUB_PA and a scrub in
progress. -/
def Sys2Proof.Claim.StorageErrorsRule : Prop :=
  (∀ (s : State) d, d < 4 →
    Turns (.storageError (.correctedCore d)) s (fun p => (p.die d).merr =
      { (s.pkg.die d).merr with ceCore := onceMore (s.pkg.die d).merr.ceCore }) ∧
    Turns (.storageError (.correctedL2 d)) s (fun p => (p.die d).merr =
      { (s.pkg.die d).merr with ceL2 := onceMore (s.pkg.die d).merr.ceL2 }) ∧
    Turns (.storageError (.correctedHbm d)) s (fun p => (p.die d).merr =
      { (s.pkg.die d).merr with ceHbm := onceMore (s.pkg.die d).merr.ceHbm })) ∧
  (∀ (s : State) x, 64 * x < memSize → Turns (.storageError (.hbm x)) s (fun p => x ∈ p.poison ∧ p.mem = s.pkg.mem ∧
    let m := (p.die (homeDie (64 * x))).merr
    let old := (s.pkg.die (homeDie (64 * x))).merr
    m.ue = onceMore old.ue ∧ m.ueSrc = 6 ∧ m.uePtime = s.pkg.ptime ∧
      m.uePa = BitVec.ofNat 64 (s.pkg.link.pkgid * 2 ^ 46 + 64 * x) ∧
      (x ∉ s.pkg.poison → m.poisoned = old.poisoned + 1))) ∧
  (∀ (s : State) d, d < 4 → Turns (.scrub d) s (fun p => (p.die d).merr =
    { (s.pkg.die d).merr with scrub := some ((s.pkg.die d).merr.scrub.getD (s.pkg.die d).merr.scrubPa) })) ∧
  (∀ (s : State) d, (s.pkg.die d).merr.scrub = none → exec (.scrubDone d) s = .next s) ∧
  (∀ (s : State) d pa, (s.pkg.die d).merr.scrub = some pa → noStash s.pkg →
    let a := pa.toNat % 2 ^ 46 / 64 * 64
    let named := pa.toNat / 2 ^ 56 = 0 ∧ a < memSize ∧ homeDie a = d
    (named → s.pkg.barred d a = true → exec (.scrubDone d) s = .next s) ∧
    (named → s.pkg.barred d a = false →
      Turns (.scrubDone d) s (fun p => (p.die d).merr.scrub = none ∧ p.poisoned a = false ∧
        ∀ x, p.byte x = if a ≤ x ∧ x < a + 64 then 0 else s.pkg.byte x)) ∧
    (¬ named → Turns (.scrubDone d) s (fun p => (p.die d).merr.scrub = none ∧ p.poison = s.pkg.poison ∧ p.mem = s.pkg.mem))) ∧
  (∀ (s : State) d, d < 4 → Turns (.memerrClear d) s (fun p =>
      (p.die d).merr = ⟨0, 0, 0, 0, 0, 0, 0, 0, 0, 0, 0, 0, (s.pkg.die d).merr.scrubPa, (s.pkg.die d).merr.scrub⟩) ∧
    Turns (.regionCounterClear d) s (fun p => (p.die d).rctr = []))

/-- 27 R484-R487, R491: a violation freezes its master and takes an entry; RESUME, SKIP and RESET release it, and its
oldest work or all of it fails; HOLD stops every split, and HELD follows once everything is quiet. -/
def Sys2Proof.Claim.FreezeAndHoldRule : Prop :=
  (∀ (s : State) v, violationKnown v = true → s.pkg.isFrozen v.cls v.id = false →
    ∃ t, exec (.masterFreeze v) s = .next t ∧ t.pkg.isFrozen v.cls v.id = true ∧ t.pkg.mem = s.pkg.mem ∧
      t.mgmt = { s.mgmt with freezes := s.mgmt.freezes + 1 }) ∧
  (∀ (s : State) v, violationKnown v = false ∨ s.pkg.isFrozen v.cls v.id = true → exec (.masterFreeze v) s = .next s) ∧
  (∀ (s : State) e, (∀ f ∈ s.pkg.frozen, f.entry ≠ some e) → exec (.thawResume e) s = .next s ∧
    exec (.thawSkip e) s = .next s ∧ exec (.thawReset e) s = .next s) ∧
  (∀ (s : State) e f, s.pkg.frozen.find? (fun f => f.entry == some e) = some f →
    (∀ g ∈ leftFrozen s e, ¬ (g.cls = f.cls ∧ g.id = f.id)) →
    (f.cls ≠ 5 → Turns (.thawResume e) s (fun p => p.isFrozen f.cls f.id = false ∧ p.mem = s.pkg.mem)) ∧
    ∃ p : Pkg, p.isFrozen f.cls f.id = false ∧ p.mem = s.pkg.mem ∧ p.frozen.length = (leftFrozen s e).length ∧
      exec (.thawSkip e) s = .next { s with pkg := p.failWork false f } ∧
      exec (.thawReset e) s = .next { s with pkg := p.failWork true f }) ∧
  (∀ (s : State), s.pkg.hold = true → exec .packageHold s = .next s) ∧
  (∀ (s : State), s.pkg.hold = false → Turns .packageHold s (fun p => p.hold = true ∧
    ∀ c b w y, p.warp? c b w = some y → ∀ x ∈ y.splits, x.st = .free ∨ x.st = .stopped ∨ x.inCow = true)) ∧
  (∀ (s : State), s.pkg.hold = false ∨ s.mgmt.held = true ∨ s.pkg.quiet = false → exec .holdComplete s = .next s) ∧
  (∀ (s : State), s.pkg.hold = true → s.mgmt.held = false → s.pkg.quiet = true → s.pkg.traces = [] →
    ∃ t, exec .holdComplete s = .next t ∧ t.mgmt = { s.mgmt with held := true }) ∧
  (∀ (s : State), ∃ t, exec .packageUnhold s = .next t ∧ t.mgmt = { s.mgmt with held := false } ∧ t.pkg.hold = false ∧
    t.pkg.mem = s.pkg.mem)

/-- 25 R456-R458, 27 R495-R500, 16 R380: a controlled reset begins on a die: blocks of HALTED queues end there and the ACTIVE
queues with a block there are pre-empted; a refused save ends it with ERR 1; once every image is written and nothing is left
on it the die is swept and in reset, its cores gone, and the queues that it pre-empted resume; a die that stops at once ends
the launches that had a block on it, with STATUS FAULTED and DETAIL 0x1C, and poisons the lines that it alone held; RELEASE
ends the resets of dies; an X-die in reset has no ports, no groups and no collectives, its queues end or are lost as their
blocks settle (log 63), and it boots when it is released. -/
def Sys2Proof.Claim.DieResetsRule : Prop :=
  (∀ (s : State) d, 4 ≤ d ∨ s.pkg.resetBusy = true ∨ (s.pkg.die d).inReset = true →
    exec (.dieResetControlled d) s = .next s) ∧
  (∀ (s : State) d, d < 4 → s.pkg.resetBusy = false → (s.pkg.die d).inReset = false →
    ∃ t, exec (.dieResetControlled d) s = .next t ∧ (t.pkg.die d).drain ≠ none ∧ t.mgmt = { s.mgmt with rstErr := 0 } ∧
      (∀ c b bl, s.pkg.block? c b = some bl → dieOfCore c = d → (qOf s (s.pkg.queueOf bl)).st = .halted →
        ∀ x, t.pkg.block? c b = some x → x.mode = .ending ∨ ∃ o, x.mode = .halting o .kill) ∧
      (∀ q ∈ s.pkg.queuesOn d, (qOf s q).st = .active → (qOf s q).preemptDue = false → s.pkg.examining q = false →
        (t.pkg.queue q).st = .preempting ∧ q ∈ ((t.pkg.die d).drain).getD [])) ∧
  (∀ (s : State) d, (s.pkg.die d).drain = none → exec (.dieResetSweep d) s = .next s) ∧
  (∀ (s : State) d qs, (s.pkg.die d).drain = some qs →
    (saveWasRefused s.pkg d qs → ∃ t, exec (.dieResetSweep d) s = .next t ∧ t.mgmt = { s.mgmt with rstErr := 1 } ∧
      (t.pkg.die d).drain = none ∧ (t.pkg.die d).inReset = (s.pkg.die d).inReset) ∧
    (¬ saveWasRefused s.pkg d qs → let p0 := s.pkg.drainDie d
      (¬ vacated p0 d ∨ stillSaving p0 d ∨ ¬ enginesIdle p0 d → exec (.dieResetSweep d) s = .next { s with pkg := p0 }) ∧
      (vacated p0 d → ¬ stillSaving p0 d → enginesIdle p0 d →
        (∀ r, swept p0 d = .ok r → Turns (.dieResetSweep d) s (fun p =>
          (p.die d).inReset = true ∧ (p.die d).rebuild = false ∧ (p.die d).drain = none ∧ vacated p d ∧
          ∀ q ∈ ((p0.die d).drain).getD [], (p0.queue q).st = .preempted →
            (p.queue q).st ≠ .preempted ∨ (p.queue q).resuming = true)) ∧
        (∀ r, swept p0 d = .error r → Turns (.dieResetSweep d) s (fun p => (p.die d).inReset = (s.pkg.die d).inReset ∧
          (p.die d).drain ≠ none))))) ∧
  (∀ (s : State) d qs, (s.pkg.die d).drain = some qs → bare s.pkg d → (∀ q ∈ qs, (qOf s q).st = .preempted ∧ (qOf s q).preemptDue = false) →
    s.pkg.traces = [] → (∀ x ∈ s.pkg.queues, x.2.fetched = none) →
    Turns (.dieResetSweep d) s (fun p => (p.die d).inReset = true ∧ (p.die d).drain = none ∧ bare p d ∧
      ∀ e ∈ p.dir, homeDie (256 * e.1) ≠ d ∧ e.2.holder ≠ some d ∧ d ∉ e.2.sharers)) ∧
  (∀ (s : State) d, 4 ≤ d ∨ (s.pkg.die d).inReset = true → exec (.dieResetUncontrolled d) s = .next s) ∧
  (∀ (s : State) d, d < 4 → (s.pkg.die d).inReset = false → (s.pkg.die d).drain = none → bare s.pkg d → s.pkg.traces = [] →
    Turns (.dieResetUncontrolled d) s (fun p => (p.die d).inReset = true ∧ (p.die d).rebuild = true ∧
      ∀ l e, (l, e) ∈ s.pkg.dir → e.holder = some d → e.owned = false ∨ (∀ x ∈ e.sharers, x = d) →
        ∀ i < 4, 4 * l + i ∈ p.poison)) ∧
  (∀ (s : State) d, d < 4 → (s.pkg.die d).inReset = false →
    let p0 := ((s.pkg.loseTrace d).loseBlocks d).enterReset d true
    Turns (.dieResetUncontrolled d) s (fun p =>
      (p.die d).inReset = true ∧ (p.die d).rebuild = true ∧ (p.die d).drain = none ∧ vacated p d ∧
      (∀ l e, (l, e) ∈ p0.dir → e.holder = some d → e.owned = false ∨ (∀ x ∈ e.sharers, x = d) →
        ∀ i < 4, 4 * l + i ∈ p.poison) ∧
      (∀ c b bl l, s.pkg.block? c b = some bl → dieOfCore c = d → p.launch? bl.launch = some l → l.ending = true) ∧
      (∀ id l n x, s.pkg.launch? id = some l → l.ending = false → l.st ≠ .complete → l.packet = some n → Pkt l.q n x s.pkg →
        s.pkg.blocksOn d ≠ [] → (∀ y ∈ s.pkg.blocksOn d, y.2.2.launch = id) →
        (∀ k ∈ s.pkg.cores, dieOfCore k.1 ≠ d → ∀ b ∈ k.2.blocks, b.2.launch ≠ id) →
        (∀ e ∈ s.pkg.launches, e.2.parent ≠ some id) → Pkt l.q n (overWith x 2 0x1C) p))) ∧
  (∀ (s : State), Turns .dieRelease s (fun p => ∀ d, (p.die d).inReset = false)) ∧
  (∀ (s : State) d, Turns (.directoryRebuildDone d) s (fun p => (p.die d).inReset = (s.pkg.die d).inReset ∧
    ((p.die d).inReset = false → (p.die d).rebuild = false))) ∧
  (∀ (s : State) x, s.pkg.xreset ≠ [] → exec (.xdieReset x) s = .next s) ∧
  (∀ (s : State) x, s.pkg.xreset.find? x ≠ none → exec (.xdieErrorReset x) s = .next s) ∧
  (∀ (s : State) x, x < 2 →
    (s.pkg.xreset = [] → ∃ t, exec (.xdieReset x) s = .next t ∧ XdieDown s x false t) ∧
    (s.pkg.xreset.find? x = none → ∃ t, exec (.xdieErrorReset x) s = .next t ∧ XdieDown s x true t)) ∧
  (∀ (s : State) x, s.pkg.xreset.find? x = none → exec (.xdieRelease x) s = .next s ∧ exec (.xdieAutoRelease x) s = .next s) ∧
  (∀ (s : State) x, s.pkg.xreset.find? x ≠ none → ∃ t, exec (.xdieRelease x) s = .next t ∧
    t.pkg = (restarted s x).pkg ∧ (t.fwAlive x = Config.firmwareVerifies s.pkg.tick x)) ∧
  (∀ (s : State) x b (t : DWord), s.pkg.xreset.find? x = some (b, t) →
    (b = true → t.toNat + 1000000 ≤ s.pkg.ptime.toNat → exec (.xdieAutoRelease x) s = exec (.xdieRelease x) s) ∧
    (b = false ∨ s.pkg.ptime.toNat < t.toNat + 1000000 → exec (.xdieAutoRelease x) s = .next s))

/-- The rules `FreezeAndHoldRule`, `DieResetsRule` together. Choices of the model that it rests on: log 9, 59, 63, 64, 65.
-/
def Obligations.ContainmentAndResets : Prop :=
  FreezeAndHoldRule ∧ DieResetsRule

/-- 01 R23, 27 R501-R502, 17 R396: a window whose estimate is too high paces density-8 formats and changes nothing else,
and a later one lifts the pacing (which window that is, is the model's reading, log 87); every 10 µs a reading of a die's
monitors raises its throttle to the stage that the temperature and the supply ask for; a die that enters stage 3 by
temperature drains, to restart by itself (log 30), and one at T_CUT or above or below V_CUT is in reset at once; 100 ms in
stage 2 enter stage 3; a stage falls after 1 ms, and a die that stage 3 shut down restarts after 10 ms. -/
def Sys2Proof.Claim.PowerAndThrottleRule : Prop :=
  (∀ (s : State), let now := s.pkg.ptime.toNat / 100000
    exec (.powerWindow true) s = .next { s with pkg := { s.pkg with paced := true, powerAt := now } } ∧
    (s.pkg.powerAt + 2 ≤ now → exec (.powerWindow false) s = .next { s with pkg := { s.pkg with paced := false } }) ∧
    (now < s.pkg.powerAt + 2 → exec (.powerWindow false) s = .next s)) ∧
  (∀ (s : State) d r, 4 ≤ d ∨ s.pkg.ptime.toNat < (s.pkg.die d).monDue.toNat → exec (.monitorUpdate d r) s = .next s) ∧
  (∀ (s : State) d r, d < 4 → (s.pkg.die d).monDue.toNat ≤ s.pkg.ptime.toNat →
    let k := (s.pkg.die d).thr
    let x := Readings.extremes (r.temp.take 32) (r.vcore.take 96)
    let want := stageFor k.tHold k.tPace x.1 (decide (x.2 < 700) && k.low)
    x.1 < 1000 → 650 ≤ x.2 → want < 3 ∨ 3 ≤ k.stage →
    ∃ t, exec (.monitorUpdate d r) s = .next t ∧ (t.pkg.die d).thr.stage = max k.stage want ∧
      (t.pkg.die d).thr.events = k.events + BitVec.ofNat 32 (want - k.stage) ∧ (t.pkg.die d).thr.low = decide (x.2 < 700) ∧
      (∀ i < 32, i < r.temp.length → (t.pkg.die d).temps.find? i = r.temp[i]?) ∧
      (∀ i < 96, ((t.pkg.die d).droops.getD i 0).toNat =
        min 65535 (((s.pkg.die d).droops.getD i 0).toNat + (r.droop.getD i 0).toNat))) ∧
  (∀ (s : State) d r, d < 4 → (s.pkg.die d).monDue.toNat ≤ s.pkg.ptime.toNat →
    let k := (s.pkg.die d).thr
    let x := Readings.extremes (r.temp.take 32) (r.vcore.take 96)
    let want := stageFor k.tHold k.tPace x.1 (decide (x.2 < 700) && k.low)
    (x.1 < 1000 → 650 ≤ x.2 → want = 3 → k.stage < 3 → ∃ t, exec (.monitorUpdate d r) s = .next t ∧
      (t.pkg.die d).thr.stage = 3 ∧ (t.pkg.die d).thr.events = k.events + BitVec.ofNat 32 (3 - k.stage) ∧
      ((s.pkg.die d).inReset = false → (s.pkg.die d).drain = none →
        (t.pkg.die d).drain ≠ none ∧ (t.pkg.die d).thr.shut = true) ∧
      t.mgmt = (State.interrupt s (3 - k.stage)).mgmt) ∧
    (1000 ≤ x.1 ∨ x.2 < 650 → ∃ t, exec (.monitorUpdate d r) s = .next t ∧ (t.pkg.die d).inReset = true ∧
      (t.pkg.die d).thr.stage = max k.stage want ∧ ((s.pkg.die d).inReset = false → (t.pkg.die d).rebuild = true) ∧
      t.mgmt = (State.interrupt s (max (want - k.stage) 1)).mgmt)) ∧
  (∀ (s : State) d, let k := (s.pkg.die d).thr
    (k.stage ≠ 2 ∨ s.pkg.ptime.toNat < k.entered.toNat + 100000000 → exec (.throttleStageTimeout d) s = .next s) ∧
    (k.stage = 2 → k.entered.toNat + 100000000 ≤ s.pkg.ptime.toNat → ∃ t, exec (.throttleStageTimeout d) s = .next t ∧
      (t.pkg.die d).thr.stage = 3 ∧ (t.pkg.die d).thr.events = k.events + 1 ∧ (t.pkg.die d).thr.entered = s.pkg.ptime)) ∧
  (∀ (s : State) d (g : DWord), (s.pkg.die d).thr.good = some g → let k := (s.pkg.die d).thr
    (k.stage ≠ 0 → g.toNat + 1000000 ≤ s.pkg.ptime.toNat →
      Turns (.throttleStepDown d) s (fun p => (p.die d).thr =
        { k with stage := k.stage - 1, entered := s.pkg.ptime, good := none, byVolt := false })) ∧
    (k.stage = 0 ∨ s.pkg.ptime.toNat < g.toNat + 1000000 → exec (.throttleStepDown d) s = .next s)) ∧
  (∀ (s : State) d (g : DWord), (s.pkg.die d).thr.cold = some g → let k := (s.pkg.die d).thr
    (k.shut = true → (s.pkg.die d).inReset = true → g.toNat + 10000000 ≤ s.pkg.ptime.toNat →
      Turns (.throttleRestart d) s (fun p => (p.die d).inReset = false ∧
        (p.die d).thr = { k with shut := false, cold := none })) ∧
    (k.shut = false ∨ (s.pkg.die d).inReset = false ∨ s.pkg.ptime.toNat < g.toNat + 10000000 →
      exec (.throttleRestart d) s = .next s)) ∧
  (∀ (s : State) d, ((s.pkg.die d).thr.good = none → exec (.throttleStepDown d) s = .next s) ∧
    ((s.pkg.die d).thr.cold = none → exec (.throttleRestart d) s = .next s))

/-- The rules `StorageErrorsRule`, `PowerAndThrottleRule` together. Choices of the model that it rests on: log 30, 66, 87.
-/
def Obligations.ErrorsAndThrottle : Prop :=
  StorageErrorsRule ∧ PowerAndThrottleRule

/-! ## The machine as a whole: reset, one step, encodings (01 R11-R23, 07 R153-R162, 24 R436-R437, 27) -/

namespace Sys2Proof.Claim

open Sys2Proof.Machine

/-- The management registers hold values that their fields can hold: the memory window's address is a multiple of 4
below 2^42, and every selector is one of the values that its field has. -/
structure MgmtInv (m : Mgmt) : Prop where
  window : m.waddr < 2 ^ 42 ∧ m.waddr % 4 = 0
  tlb : m.tlbKind < 4 ∧ m.tlbAsid < 65536
  freeze : m.frzAction < 4 ∧ m.frzEntry < 8
  die : m.rstDie < 4 ∧ m.rstErr ≤ 1

/-- The package of an issue decision in which nothing parks, merges or traps: the other splits of the port had an
opportunity (02 R31-R33, 07 R161). -/
def decided (p : Pkg) (i : Issuer) (w : Warp) : Pkg :=
  (p.modWarp i.core i.slot i.w Warp.settle).opportunity i (portOf i.w w.slot)

/-- An issue decision that comes to the fetch (02 R31-R33, R57): nothing parks, merges or traps, the package is not held,
the block is not saved, the warp is not halting, no dirty byte of its core has to wait, it is the split's turn, and no
breakpoint stands at its next word. -/
structure Fetches (p : Pkg) (i : Issuer) (bl : Block) (w : Warp) : Prop where
  block : p.block? i.core i.slot = some bl
  warp : p.warp? i.core i.slot i.w = some w
  settled : w.settle = w
  flows : p.l1Barred i.core = false
  free : (p.die (dieOfCore i.core)).inReset = false ∧ p.hold = false ∧ p.saving bl = false ∧ w.halt = .running
  ready : (w.split i.sp).st = .ready ∧ (w.split i.sp).held = none
  noTrap : ∀ s ∈ w.splits, s.pend = none
  noBreak : ∀ e ∈ (p.core i.core).bps, (e.2.getD 2 0).getLsbD 31 = false
  plain : (p.launch? bl.launch).bind (·.splice) = none
  turn : (decided p i w).inTurn i w (w.split i.sp) = true

/-- The package as the fetch finds it: the warp settled and, at the first word of a run, its halt counted on. -/
def beforeFetch (p : Pkg) (i : Issuer) (w : Warp) : Pkg :=
  let p := decided p i w
  if (w.split i.sp).pfx.words != 0 then p
  else p.modWarp i.core i.slot i.w (fun w => { w with halt := match w.halt with | .reached n t => .reached (n + 1) t | h => h })

/-- The address of the word that the split fetches: its own, or the next one of its prefix run (07 R159). -/
def fetchAt (w : Warp) (i : Issuer) : DWord := (w.split i.sp).pc + BitVec.ofNat 64 (4 * (w.split i.sp).pfx.words)

/-- The package once word `x` was fetched: the split holds it, its yield is over and the issue counts (17 R383). -/
def fetchedBy (p : Pkg) (i : Issuer) (x : Word) : Pkg :=
  let p := p.modWarp i.core i.slot i.w (fun w => w.modSplit i.sp (fun s => { s with held := some x }))
  ((p.turnArm i).modSplitAt i.core i.slot i.w i.sp (fun s => { s with yielded := false, seen := [] })).countIssue i x

/-- Every encoding of the spec's tables: an instruction that has a word. -/
def encodes (k : Instr) : Prop := ∃ w, encode k = some w

/-- The state when the head of its agenda is taken and time has passed for the step (01 R18). -/
def atHead (s : State) (t : List Action) : State := ({ s with agenda := t } : State).tickOn

end Sys2Proof.Claim

/-- 01 R19, 01 R12, 13 R310, 27 R501: `ptime` is zero, nothing is resident, and the registers that the spec gives a value
read it; that memory lists nothing, so that every byte reads zero, is the model's choice (log 1). Choices of the model
that it rests on: log 1. -/
def Obligations.ResetRegisters : Prop :=
  State.reset.pkg.ptime = 0 ∧ State.reset.pkg.mem = [] ∧ State.reset.pkg.launches = [] ∧
  (∀ c b, State.reset.pkg.block? c b = none) ∧
  (∀ d, d < 4 → State.reset.reg d 0xB00 = 0 ∧ State.reset.reg d 0xB04 = 880 * 65536 + 840 ∧
    State.reset.reg d 0xB08 = 1000 * 65536 + 920 ∧ State.reset.reg d 0xB0C = 650 * 65536 + 700 ∧
    State.reset.reg d 0xB10 = 0) ∧
  (State.reset.reg 12 0x04 = 0x3FFF ∧ State.reset.reg 12 0x10 = 2100 ∧ State.reset.reg 12 0x08 = 0) ∧
  (∀ x q o, x < 2 → q < 512 → o < 16 →
    State.reset.reg (12 + x) (0x10000 + 64 * q + 4 * o) = if o = 3 then 0x10000 else 0)

/-- The invariant of `StepKeepsManagement` holds after reset. -/
def Obligations.ResetManagement : Prop := MgmtInv State.reset.mgmt

/-- 04 R109, 27 R486, R490, R495: whatever a step does, the management registers keep to the values of their
fields. -/
def Obligations.StepKeepsManagement : Prop :=
  ∀ s t : State, MgmtInv s.mgmt → step s = .next t → MgmtInv t.mgmt

/-- 02 R31-R33, 07 R153: a step of a split or armature runs the instruction that the word at its address decodes to; a
step of an event runs the event. Choices of the model that it rests on: log 3, 5. -/
def Obligations.StepRunsDecoded : Prop :=
  (∀ (s : State) t i bl w (p1 p2 : Pkg) xl a k, s.agenda = .run i :: t →
    let q := s.pkg.tickOn
    Fetches q i bl w →
    p1 = beforeFetch q i w →
    p1.xlate i.core bl.ctx (fetchAt w i) .fetch = .ok (p2, xl) → p2.plainPa xl = some a →
    p2.homeDown a = false → p2.poisoned a = false → noStash p2 →
    decode (p2.readMem a 4) = .ok (k, []) →
    step s = exec k { atHead s t with
      pkg := fetchedBy p2 i (BitVec.ofNat 32 (ofBytes (p2.readMem a 4))), cur := some i }) ∧
  (∀ (s : State) t i bl w (p1 p2 : Pkg) xl a e, s.agenda = .run i :: t →
    let q := s.pkg.tickOn
    Fetches q i bl w →
    p1 = beforeFetch q i w →
    p1.xlate i.core bl.ctx (fetchAt w i) .fetch = .ok (p2, xl) → p2.plainPa xl = some a →
    p2.homeDown a = false → p2.poisoned a = false → noStash p2 →
    decode (p2.readMem a 4) = .error e →
    let x := BitVec.ofNat 32 (ofBytes (p2.readMem a 4))
    step s = exec (.illegalEncoding x) { atHead s t with pkg := fetchedBy p2 i x, cur := some i }) ∧
  (∀ (s : State) t e, s.agenda = .event e :: t → isEvent e = true → step s = exec e (atHead s t))

/-- 07 R154-R160 and the encoding tables: words written out bit by bit, and the instructions they stand for. -/
def Obligations.DecodeWords : Prop :=
  decodeTableWord 32 0x75D2840C = some (.setpF64 .always (.two 1) .lt (.reg 4) (.reg 6)) ∧
  decodeTableWord 32 0x42C20815 = some (.fmaF64 (.p 3) (.reg 4) (.reg 8) (.reg 10)) ∧
  decodeTableWord 32 0x00801000 = some (.pfxOff 0x1000) ∧
  decodeTableWord 32 0xA1C302A0 = some (.ld .always (.reg 6) (.reg 2) .w64 .default)

/-- 07 R153, 24 R436-R437: every well-formed instruction that has a word is the one its word decodes to, and every
word that decodes is the word of a well-formed instruction. -/
def Obligations.RoundTrip : Prop :=
  (∀ i w, i.wellFormed = true → encode i = some w → w < 2 ^ 32 ∧ decodeWord w = .ok i ∧
    decode (bytesOfWord w) = .ok (i, [])) ∧
  (∀ w i, w < 2 ^ 32 → decodeWord w = .ok i → encode i = some w ∧ i.wellFormed = true)

/-- 07 R154, 24 R433: an instruction that a live split or armature issues always has a next state, and it changes
neither the management registers nor what is to happen next; the one stop is an issuer that does not exist. -/
def Obligations.InstructionsGoOn : Prop :=
  (∀ k s i w, encodes k → s.cur = some i → s.pkg.warp? i.core i.slot i.w = some w → (w.split i.sp).mask ≠ 0 →
    ∃ p : Pkg, exec k s = .next { s with pkg := p }) ∧
  (∀ k s, encodes k → (∃ p : Pkg, exec k s = .next { s with pkg := p }) ∨ exec k s = .fault .noIssuer) ∧
  (∀ k s f, encode k = none → (∀ x, k ≠ .illegalEncoding x) → exec k s ≠ .fault f) ∧
  (∀ k s r, exec k s ≠ .refused r)
end

