-- ==== Sys2Proof/Laws/Maps.lean ====
section
/-!
SUPPORT. Laws of the sparse keyed lists: reading after storing and erasing, and the canonical form.
-/

namespace Sys2Proof.KMap

variable {α : Type}

@[simp] theorem find?_nil (k : Nat) : find? ([] : KMap α) k = none := rfl

@[simp] theorem find?_insert_self (k : Nat) (v : α) (m : KMap α) : find? (insert k v m) k = some v := by
  induction m with
  | nil => simp [insert, find?]
  | cons e t ih =>
    obtain ⟨k', v'⟩ := e
    simp only [insert]
    split
    · simp [find?]
    · split
      · simp [find?]
      · rename_i h; simp [find?, h, ih]

theorem find?_insert_ne {j k : Nat} (h : j ≠ k) (v : α) (m : KMap α) :
    find? (insert k v m) j = find? m j := by
  induction m with
  | nil => simp [insert, find?, h.symm]
  | cons e t ih =>
    obtain ⟨k', v'⟩ := e
    simp only [insert]
    split
    · simp [find?, h.symm]
    · split
      · rename_i hk; subst hk; simp [find?, h.symm]
      · simp [find?, ih]

@[simp] theorem find?_erase_self (k : Nat) (m : KMap α) : find? (erase k m) k = none := by
  induction m with
  | nil => rfl
  | cons e t ih =>
    obtain ⟨k', v'⟩ := e
    simp only [erase]
    split
    · exact ih
    · rename_i h; simp [find?, h, ih]

theorem find?_erase_ne {j k : Nat} (h : j ≠ k) (m : KMap α) : find? (erase k m) j = find? m j := by
  induction m with
  | nil => rfl
  | cons e t ih =>
    obtain ⟨k', v'⟩ := e
    simp only [erase]
    split
    · rename_i hk; subst hk; simp [find?, h.symm, ih]
    · simp [find?, ih]

@[simp] theorem getD_setD_self [DecidableEq α] (m : KMap α) (k : Nat) (v d : α) :
    (m.setD k v d).getD k d = v := by
  unfold setD getD
  split
  · rename_i h; simp [h]
  · simp

theorem getD_setD_ne [DecidableEq α] {j k : Nat} (h : j ≠ k) (m : KMap α) (v d e : α) :
    (m.setD k v d).getD j e = m.getD j e := by
  unfold setD getD
  split
  · rw [find?_erase_ne h]
  · rw [find?_insert_ne h]

@[simp] theorem insert_insert (k : Nat) (u v : α) (m : KMap α) :
    insert k v (insert k u m) = insert k v m := by
  induction m with
  | nil => simp [insert]
  | cons e t ih =>
    obtain ⟨k', v'⟩ := e
    simp only [insert]
    by_cases h1 : k < k'
    · simp [h1, insert]
    · by_cases h2 : k' = k
      · subst h2; simp [insert]
      · simp [h1, h2, insert, ih]

theorem modify_of_find? {m : KMap α} {k : Nat} {v : α} (h : m.find? k = some v) (f : α → α) :
    m.modify k f = insert k (f v) m := by simp [modify, h]

theorem modify_of_none {m : KMap α} {k : Nat} (h : m.find? k = none) (f : α → α) : m.modify k f = m := by
  simp [modify, h]

@[simp] theorem find?_modify_self (m : KMap α) (k : Nat) (f : α → α) :
    (m.modify k f).find? k = (m.find? k).map f := by
  unfold modify
  cases h : m.find? k <;> simp [h]

theorem find?_modify_ne {j k : Nat} (h : j ≠ k) (m : KMap α) (f : α → α) :
    (m.modify k f).find? j = m.find? j := by
  unfold modify
  cases m.find? k with
  | none => rfl
  | some v => exact find?_insert_ne h _ _

@[simp] theorem modify_modify (m : KMap α) (k : Nat) (f g : α → α) :
    (m.modify k f).modify k g = m.modify k (fun v => g (f v)) := by
  unfold modify
  cases h : m.find? k <;> simp [h]

/-! ## The canonical form -/

theorem sorted_cons {k : Nat} {v : α} {t : KMap α} :
    sorted ((k, v) :: t) = true ↔ sorted t = true ∧ ∀ e, t.head? = some e → k < e.1 := by
  cases t with
  | nil => simp [sorted]
  | cons e t => obtain ⟨k', v'⟩ := e; simp [sorted, and_comm]

theorem sorted_lt {k : Nat} {v : α} {t : KMap α} (h : sorted ((k, v) :: t) = true) :
    ∀ e ∈ t, k < e.1 := by
  induction t generalizing k v with
  | nil => simp
  | cons e t ih =>
    obtain ⟨k', v'⟩ := e
    simp only [sorted, Bool.and_eq_true, decide_eq_true_eq] at h
    intro e he
    rcases List.mem_cons.1 he with rfl | he
    · exact h.1
    · exact lt_trans h.1 (ih h.2 e he)

theorem sorted_of_lt {k : Nat} {v : α} {t : KMap α} (h : sorted t = true) (hk : ∀ e ∈ t, k < e.1) :
    sorted ((k, v) :: t) = true := by
  rw [sorted_cons]
  exact ⟨h, fun e he => hk e (List.mem_of_mem_head? he)⟩

theorem mem_insert {k : Nat} {v : α} {m : KMap α} {e : Nat × α} (h : e ∈ insert k v m) :
    e = (k, v) ∨ e ∈ m := by
  induction m with
  | nil => simpa [insert] using h
  | cons x t ih =>
    obtain ⟨k', v'⟩ := x
    simp only [insert] at h
    split at h
    · simpa using h
    · split at h
      · rcases List.mem_cons.1 h with h | h
        · exact .inl h
        · exact .inr (List.mem_cons_of_mem _ h)
      · rcases List.mem_cons.1 h with h | h
        · exact .inr (h ▸ List.mem_cons_self ..)
        · exact (ih h).imp id (List.mem_cons_of_mem _)

theorem mem_erase {k : Nat} {m : KMap α} {e : Nat × α} (h : e ∈ erase k m) : e ∈ m := by
  induction m with
  | nil => simp [erase] at h
  | cons x t ih =>
    obtain ⟨k', v'⟩ := x
    simp only [erase] at h
    split at h
    · exact List.mem_cons_of_mem _ (ih h)
    · rcases List.mem_cons.1 h with h | h
      · exact h ▸ List.mem_cons_self ..
      · exact List.mem_cons_of_mem _ (ih h)

theorem sorted_tail {e : Nat × α} {t : KMap α} (h : sorted (e :: t) = true) : sorted t = true := by
  obtain ⟨k, v⟩ := e
  exact (sorted_cons.1 h).1

theorem sorted_insert (k : Nat) (v : α) {m : KMap α} (h : sorted m = true) : sorted (insert k v m) = true := by
  induction m with
  | nil => rfl
  | cons x t ih =>
    obtain ⟨k', v'⟩ := x
    simp only [insert]
    split
    · rename_i hk
      refine sorted_of_lt h fun e he => ?_
      rcases List.mem_cons.1 he with rfl | he
      · exact hk
      · exact lt_trans hk (sorted_lt h e he)
    · split
      · rename_i hk; subst hk
        exact sorted_of_lt (sorted_tail h) (sorted_lt h)
      · refine sorted_of_lt (ih (sorted_tail h)) fun e he => ?_
        rcases mem_insert he with rfl | he
        · dsimp; omega
        · exact sorted_lt h e he

theorem sorted_erase (k : Nat) {m : KMap α} (h : sorted m = true) : sorted (erase k m) = true := by
  induction m with
  | nil => rfl
  | cons x t ih =>
    obtain ⟨k', v'⟩ := x
    simp only [erase]
    split
    · exact ih (sorted_tail h)
    · exact sorted_of_lt (ih (sorted_tail h)) fun e he => sorted_lt h e (mem_erase he)

theorem canon_setD [DecidableEq α] {m : KMap α} {d : α} (h : m.canon d = true) (k : Nat) (v : α) :
    (m.setD k v d).canon d = true := by
  simp only [canon, Bool.and_eq_true, List.all_eq_true, decide_eq_true_eq] at h ⊢
  unfold setD
  split
  · exact ⟨sorted_erase k h.1, fun e he => h.2 e (mem_erase he)⟩
  · rename_i hv
    refine ⟨sorted_insert k v h.1, fun e he => ?_⟩
    rcases mem_insert he with rfl | he
    · exact hv
    · exact h.2 e he

theorem sorted_filter (p : Nat × α → Bool) {m : KMap α} (h : sorted m = true) :
    sorted (List.filter p m : KMap α) = true := by
  induction m with
  | nil => rfl
  | cons x t ih =>
    obtain ⟨k, v⟩ := x
    by_cases hp : p (k, v) = true
    · simp only [List.filter_cons, hp, if_true]
      exact sorted_of_lt (ih (sorted_tail h)) fun e he => sorted_lt h e (List.mem_of_mem_filter he)
    · simp only [List.filter_cons, hp]
      exact ih (sorted_tail h)

theorem canon_filter [DecidableEq α] (p : Nat × α → Bool) {m : KMap α} {d : α} (h : m.canon d = true) :
    KMap.canon (List.filter p m : KMap α) d = true := by
  simp only [canon, Bool.and_eq_true, List.all_eq_true, decide_eq_true_eq] at h ⊢
  exact ⟨sorted_filter p h.1, fun e he => h.2 e (List.mem_of_mem_filter he)⟩

end Sys2Proof.KMap
end

