-- ==== Sys2Proof/Laws/State.lean ====
section
/-!
SUPPORT. What each update of the state leaves alone, field by field, and what reading gives after writing.
-/

namespace Sys2Proof.Machine

/-! ### A byte of package memory is written -/

@[simp] theorem Pkg.setByte_ptime (p : Pkg) (a : Nat) (b : Byte) : (p.setByte a b).ptime = p.ptime := rfl
@[simp] theorem Pkg.setByte_tick (p : Pkg) (a : Nat) (b : Byte) : (p.setByte a b).tick = p.tick := rfl
@[simp] theorem Pkg.setByte_poison (p : Pkg) (a : Nat) (b : Byte) : (p.setByte a b).poison = p.poison := rfl
@[simp] theorem Pkg.setByte_dir (p : Pkg) (a : Nat) (b : Byte) : (p.setByte a b).dir = p.dir := rfl
@[simp] theorem Pkg.setByte_cores (p : Pkg) (a : Nat) (b : Byte) : (p.setByte a b).cores = p.cores := rfl
@[simp] theorem Pkg.setByte_dies (p : Pkg) (a : Nat) (b : Byte) : (p.setByte a b).dies = p.dies := rfl
@[simp] theorem Pkg.setByte_regions (p : Pkg) (a : Nat) (b : Byte) : (p.setByte a b).regions = p.regions := rfl
@[simp] theorem Pkg.setByte_cows (p : Pkg) (a : Nat) (b : Byte) : (p.setByte a b).cows = p.cows := rfl
@[simp] theorem Pkg.setByte_snaps (p : Pkg) (a : Nat) (b : Byte) : (p.setByte a b).snaps = p.snaps := rfl
@[simp] theorem Pkg.setByte_queues (p : Pkg) (a : Nat) (b : Byte) : (p.setByte a b).queues = p.queues := rfl
@[simp] theorem Pkg.setByte_launches (p : Pkg) (a : Nat) (b : Byte) : (p.setByte a b).launches = p.launches := rfl
@[simp] theorem Pkg.setByte_nextLaunch (p : Pkg) (a : Nat) (b : Byte) : (p.setByte a b).nextLaunch = p.nextLaunch := rfl
@[simp] theorem Pkg.setByte_plHigh (p : Pkg) (a : Nat) (b : Byte) : (p.setByte a b).plHigh = p.plHigh := rfl
@[simp] theorem Pkg.setByte_plFull (p : Pkg) (a : Nat) (b : Byte) : (p.setByte a b).plFull = p.plFull := rfl
@[simp] theorem Pkg.setByte_events (p : Pkg) (a : Nat) (b : Byte) : (p.setByte a b).events = p.events := rfl
@[simp] theorem Pkg.setByte_liveHigh (p : Pkg) (a : Nat) (b : Byte) : (p.setByte a b).liveHigh = p.liveHigh := rfl
@[simp] theorem Pkg.setByte_evStalls (p : Pkg) (a : Nat) (b : Byte) : (p.setByte a b).evStalls = p.evStalls := rfl
@[simp] theorem Pkg.setByte_cursor (p : Pkg) (a : Nat) (b : Byte) : (p.setByte a b).cursor = p.cursor := rfl
@[simp] theorem Pkg.setByte_nextId (p : Pkg) (a : Nat) (b : Byte) : (p.setByte a b).nextId = p.nextId := rfl
@[simp] theorem Pkg.setByte_fwq (p : Pkg) (a : Nat) (b : Byte) : (p.setByte a b).fwq = p.fwq := rfl
@[simp] theorem Pkg.setByte_turn (p : Pkg) (a : Nat) (b : Byte) : (p.setByte a b).turn = p.turn := rfl
@[simp] theorem Pkg.setByte_groups (p : Pkg) (a : Nat) (b : Byte) : (p.setByte a b).groups = p.groups := rfl
@[simp] theorem Pkg.setByte_colls (p : Pkg) (a : Nat) (b : Byte) : (p.setByte a b).colls = p.colls := rfl
@[simp] theorem Pkg.setByte_pods (p : Pkg) (a : Nat) (b : Byte) : (p.setByte a b).pods = p.pods := rfl
@[simp] theorem Pkg.setByte_heldLines (p : Pkg) (a : Nat) (b : Byte) : (p.setByte a b).heldLines = p.heldLines := rfl
@[simp] theorem Pkg.setByte_traces (p : Pkg) (a : Nat) (b : Byte) : (p.setByte a b).traces = p.traces := rfl
@[simp] theorem Pkg.setByte_link (p : Pkg) (a : Nat) (b : Byte) : (p.setByte a b).link = p.link := rfl
@[simp] theorem Pkg.setByte_paced (p : Pkg) (a : Nat) (b : Byte) : (p.setByte a b).paced = p.paced := rfl
@[simp] theorem Pkg.setByte_owed (p : Pkg) (a : Nat) (b : Byte) : (p.setByte a b).owed = p.owed := rfl
@[simp] theorem Pkg.setByte_frozen (p : Pkg) (a : Nat) (b : Byte) : (p.setByte a b).frozen = p.frozen := rfl
@[simp] theorem Pkg.setByte_shunned (p : Pkg) (a : Nat) (b : Byte) : (p.setByte a b).shunned = p.shunned := rfl
@[simp] theorem Pkg.setByte_linker (p : Pkg) (a : Nat) (b : Byte) : (p.setByte a b).linker = p.linker := rfl
@[simp] theorem Pkg.setByte_xreset (p : Pkg) (a : Nat) (b : Byte) : (p.setByte a b).xreset = p.xreset := rfl
@[simp] theorem Pkg.setByte_hold (p : Pkg) (a : Nat) (b : Byte) : (p.setByte a b).hold = p.hold := rfl
@[simp] theorem Pkg.setByte_sent (p : Pkg) (a : Nat) (b : Byte) : (p.setByte a b).sent = p.sent := rfl
@[simp] theorem Pkg.setByte_powerAt (p : Pkg) (a : Nat) (b : Byte) : (p.setByte a b).powerAt = p.powerAt := rfl
@[simp] theorem Pkg.setByte_inWait (p : Pkg) (a : Nat) (b : Byte) : (p.setByte a b).inWait = p.inWait := rfl
@[simp] theorem Pkg.setByte_passing (p : Pkg) (a : Nat) (b : Byte) : (p.setByte a b).passing = p.passing := rfl

/-! ### An issue is noted -/

@[simp] theorem Pkg.noteIssue_ptime (p : Pkg) (i : Issuer) : (p.noteIssue i).ptime = p.ptime := rfl
@[simp] theorem Pkg.noteIssue_tick (p : Pkg) (i : Issuer) : (p.noteIssue i).tick = p.tick := rfl
@[simp] theorem Pkg.noteIssue_mem (p : Pkg) (i : Issuer) : (p.noteIssue i).mem = p.mem := rfl
@[simp] theorem Pkg.noteIssue_poison (p : Pkg) (i : Issuer) : (p.noteIssue i).poison = p.poison := rfl
@[simp] theorem Pkg.noteIssue_dir (p : Pkg) (i : Issuer) : (p.noteIssue i).dir = p.dir := rfl
@[simp] theorem Pkg.noteIssue_cores (p : Pkg) (i : Issuer) : (p.noteIssue i).cores = p.cores := rfl
@[simp] theorem Pkg.noteIssue_dies (p : Pkg) (i : Issuer) : (p.noteIssue i).dies = p.dies := rfl
@[simp] theorem Pkg.noteIssue_regions (p : Pkg) (i : Issuer) : (p.noteIssue i).regions = p.regions := rfl
@[simp] theorem Pkg.noteIssue_cows (p : Pkg) (i : Issuer) : (p.noteIssue i).cows = p.cows := rfl
@[simp] theorem Pkg.noteIssue_snaps (p : Pkg) (i : Issuer) : (p.noteIssue i).snaps = p.snaps := rfl
@[simp] theorem Pkg.noteIssue_queues (p : Pkg) (i : Issuer) : (p.noteIssue i).queues = p.queues := rfl
@[simp] theorem Pkg.noteIssue_launches (p : Pkg) (i : Issuer) : (p.noteIssue i).launches = p.launches := rfl
@[simp] theorem Pkg.noteIssue_nextLaunch (p : Pkg) (i : Issuer) : (p.noteIssue i).nextLaunch = p.nextLaunch := rfl
@[simp] theorem Pkg.noteIssue_plHigh (p : Pkg) (i : Issuer) : (p.noteIssue i).plHigh = p.plHigh := rfl
@[simp] theorem Pkg.noteIssue_plFull (p : Pkg) (i : Issuer) : (p.noteIssue i).plFull = p.plFull := rfl
@[simp] theorem Pkg.noteIssue_events (p : Pkg) (i : Issuer) : (p.noteIssue i).events = p.events := rfl
@[simp] theorem Pkg.noteIssue_liveHigh (p : Pkg) (i : Issuer) : (p.noteIssue i).liveHigh = p.liveHigh := rfl
@[simp] theorem Pkg.noteIssue_evStalls (p : Pkg) (i : Issuer) : (p.noteIssue i).evStalls = p.evStalls := rfl
@[simp] theorem Pkg.noteIssue_cursor (p : Pkg) (i : Issuer) : (p.noteIssue i).cursor = p.cursor := rfl
@[simp] theorem Pkg.noteIssue_nextId (p : Pkg) (i : Issuer) : (p.noteIssue i).nextId = p.nextId := rfl
@[simp] theorem Pkg.noteIssue_fwq (p : Pkg) (i : Issuer) : (p.noteIssue i).fwq = p.fwq := rfl
@[simp] theorem Pkg.noteIssue_turn (p : Pkg) (i : Issuer) : (p.noteIssue i).turn = p.turn := rfl
@[simp] theorem Pkg.noteIssue_groups (p : Pkg) (i : Issuer) : (p.noteIssue i).groups = p.groups := rfl
@[simp] theorem Pkg.noteIssue_colls (p : Pkg) (i : Issuer) : (p.noteIssue i).colls = p.colls := rfl
@[simp] theorem Pkg.noteIssue_pods (p : Pkg) (i : Issuer) : (p.noteIssue i).pods = p.pods := rfl
@[simp] theorem Pkg.noteIssue_heldLines (p : Pkg) (i : Issuer) : (p.noteIssue i).heldLines = p.heldLines := rfl
@[simp] theorem Pkg.noteIssue_sent (p : Pkg) (i : Issuer) : (p.noteIssue i).sent = p.sent := rfl
@[simp] theorem Pkg.noteIssue_traces (p : Pkg) (i : Issuer) : (p.noteIssue i).traces = p.traces := rfl
@[simp] theorem Pkg.noteIssue_link (p : Pkg) (i : Issuer) : (p.noteIssue i).link = p.link := rfl
@[simp] theorem Pkg.noteIssue_paced (p : Pkg) (i : Issuer) : (p.noteIssue i).paced = p.paced := rfl
@[simp] theorem Pkg.noteIssue_powerAt (p : Pkg) (i : Issuer) : (p.noteIssue i).powerAt = p.powerAt := rfl
@[simp] theorem Pkg.noteIssue_owed (p : Pkg) (i : Issuer) : (p.noteIssue i).owed = p.owed := rfl
@[simp] theorem Pkg.noteIssue_frozen (p : Pkg) (i : Issuer) : (p.noteIssue i).frozen = p.frozen := rfl
@[simp] theorem Pkg.noteIssue_shunned (p : Pkg) (i : Issuer) : (p.noteIssue i).shunned = p.shunned := rfl
@[simp] theorem Pkg.noteIssue_inWait (p : Pkg) (i : Issuer) : (p.noteIssue i).inWait = p.inWait := rfl
@[simp] theorem Pkg.noteIssue_linker (p : Pkg) (i : Issuer) : (p.noteIssue i).linker = p.linker := rfl
@[simp] theorem Pkg.noteIssue_xreset (p : Pkg) (i : Issuer) : (p.noteIssue i).xreset = p.xreset := rfl
@[simp] theorem Pkg.noteIssue_hold (p : Pkg) (i : Issuer) : (p.noteIssue i).hold = p.hold := rfl
@[simp] theorem Pkg.noteIssue_passing (p : Pkg) (i : Issuer) : (p.noteIssue i).passing = some i := rfl
@[simp] theorem Pkg.noteIssue_core (p : Pkg) (i : Issuer) (c : Nat) : (p.noteIssue i).core c = p.core c := rfl
@[simp] theorem Pkg.noteIssue_block? (p : Pkg) (i : Issuer) (c b : Nat) : (p.noteIssue i).block? c b = p.block? c b := rfl
@[simp] theorem Pkg.noteIssue_warp? (p : Pkg) (i : Issuer) (c b w : Nat) : (p.noteIssue i).warp? c b w = p.warp? c b w := rfl

/-! ### A core is replaced -/

@[simp] theorem Pkg.setCore_ptime (p : Pkg) (c : Nat) (k : Core) : (p.setCore c k).ptime = p.ptime := rfl
@[simp] theorem Pkg.setCore_tick (p : Pkg) (c : Nat) (k : Core) : (p.setCore c k).tick = p.tick := rfl
@[simp] theorem Pkg.setCore_mem (p : Pkg) (c : Nat) (k : Core) : (p.setCore c k).mem = p.mem := rfl
@[simp] theorem Pkg.setCore_poison (p : Pkg) (c : Nat) (k : Core) : (p.setCore c k).poison = p.poison := rfl
@[simp] theorem Pkg.setCore_dir (p : Pkg) (c : Nat) (k : Core) : (p.setCore c k).dir = p.dir := rfl
@[simp] theorem Pkg.setCore_dies (p : Pkg) (c : Nat) (k : Core) : (p.setCore c k).dies = p.dies := rfl
@[simp] theorem Pkg.setCore_regions (p : Pkg) (c : Nat) (k : Core) : (p.setCore c k).regions = p.regions := rfl
@[simp] theorem Pkg.setCore_cows (p : Pkg) (c : Nat) (k : Core) : (p.setCore c k).cows = p.cows := rfl
@[simp] theorem Pkg.setCore_snaps (p : Pkg) (c : Nat) (k : Core) : (p.setCore c k).snaps = p.snaps := rfl
@[simp] theorem Pkg.setCore_queues (p : Pkg) (c : Nat) (k : Core) : (p.setCore c k).queues = p.queues := rfl
@[simp] theorem Pkg.setCore_launches (p : Pkg) (c : Nat) (k : Core) : (p.setCore c k).launches = p.launches := rfl
@[simp] theorem Pkg.setCore_nextLaunch (p : Pkg) (c : Nat) (k : Core) : (p.setCore c k).nextLaunch = p.nextLaunch := rfl
@[simp] theorem Pkg.setCore_plHigh (p : Pkg) (c : Nat) (k : Core) : (p.setCore c k).plHigh = p.plHigh := rfl
@[simp] theorem Pkg.setCore_plFull (p : Pkg) (c : Nat) (k : Core) : (p.setCore c k).plFull = p.plFull := rfl
@[simp] theorem Pkg.setCore_events (p : Pkg) (c : Nat) (k : Core) : (p.setCore c k).events = p.events := rfl
@[simp] theorem Pkg.setCore_liveHigh (p : Pkg) (c : Nat) (k : Core) : (p.setCore c k).liveHigh = p.liveHigh := rfl
@[simp] theorem Pkg.setCore_evStalls (p : Pkg) (c : Nat) (k : Core) : (p.setCore c k).evStalls = p.evStalls := rfl
@[simp] theorem Pkg.setCore_cursor (p : Pkg) (c : Nat) (k : Core) : (p.setCore c k).cursor = p.cursor := rfl
@[simp] theorem Pkg.setCore_nextId (p : Pkg) (c : Nat) (k : Core) : (p.setCore c k).nextId = p.nextId := rfl
@[simp] theorem Pkg.setCore_fwq (p : Pkg) (c : Nat) (k : Core) : (p.setCore c k).fwq = p.fwq := rfl
@[simp] theorem Pkg.setCore_turn (p : Pkg) (c : Nat) (k : Core) : (p.setCore c k).turn = p.turn := rfl
@[simp] theorem Pkg.setCore_groups (p : Pkg) (c : Nat) (k : Core) : (p.setCore c k).groups = p.groups := rfl
@[simp] theorem Pkg.setCore_colls (p : Pkg) (c : Nat) (k : Core) : (p.setCore c k).colls = p.colls := rfl
@[simp] theorem Pkg.setCore_pods (p : Pkg) (c : Nat) (k : Core) : (p.setCore c k).pods = p.pods := rfl
@[simp] theorem Pkg.setCore_heldLines (p : Pkg) (c : Nat) (k : Core) : (p.setCore c k).heldLines = p.heldLines := rfl
@[simp] theorem Pkg.setCore_traces (p : Pkg) (c : Nat) (k : Core) : (p.setCore c k).traces = p.traces := rfl
@[simp] theorem Pkg.setCore_link (p : Pkg) (c : Nat) (k : Core) : (p.setCore c k).link = p.link := rfl
@[simp] theorem Pkg.setCore_paced (p : Pkg) (c : Nat) (k : Core) : (p.setCore c k).paced = p.paced := rfl
@[simp] theorem Pkg.setCore_owed (p : Pkg) (c : Nat) (k : Core) : (p.setCore c k).owed = p.owed := rfl
@[simp] theorem Pkg.setCore_frozen (p : Pkg) (c : Nat) (k : Core) : (p.setCore c k).frozen = p.frozen := rfl
@[simp] theorem Pkg.setCore_shunned (p : Pkg) (c : Nat) (k : Core) : (p.setCore c k).shunned = p.shunned := rfl
@[simp] theorem Pkg.setCore_linker (p : Pkg) (c : Nat) (k : Core) : (p.setCore c k).linker = p.linker := rfl
@[simp] theorem Pkg.setCore_xreset (p : Pkg) (c : Nat) (k : Core) : (p.setCore c k).xreset = p.xreset := rfl
@[simp] theorem Pkg.setCore_hold (p : Pkg) (c : Nat) (k : Core) : (p.setCore c k).hold = p.hold := rfl
@[simp] theorem Pkg.setCore_sent (p : Pkg) (c : Nat) (k : Core) : (p.setCore c k).sent = p.sent := rfl
@[simp] theorem Pkg.setCore_powerAt (p : Pkg) (c : Nat) (k : Core) : (p.setCore c k).powerAt = p.powerAt := rfl
@[simp] theorem Pkg.setCore_inWait (p : Pkg) (c : Nat) (k : Core) : (p.setCore c k).inWait = p.inWait := rfl
@[simp] theorem Pkg.setCore_passing (p : Pkg) (c : Nat) (k : Core) : (p.setCore c k).passing = p.passing := rfl

/-! ### A core changes -/

@[simp] theorem Pkg.modCore_ptime (p : Pkg) (c : Nat) (f : Core → Core) : (p.modCore c f).ptime = p.ptime := rfl
@[simp] theorem Pkg.modCore_tick (p : Pkg) (c : Nat) (f : Core → Core) : (p.modCore c f).tick = p.tick := rfl
@[simp] theorem Pkg.modCore_mem (p : Pkg) (c : Nat) (f : Core → Core) : (p.modCore c f).mem = p.mem := rfl
@[simp] theorem Pkg.modCore_poison (p : Pkg) (c : Nat) (f : Core → Core) : (p.modCore c f).poison = p.poison := rfl
@[simp] theorem Pkg.modCore_dir (p : Pkg) (c : Nat) (f : Core → Core) : (p.modCore c f).dir = p.dir := rfl
@[simp] theorem Pkg.modCore_dies (p : Pkg) (c : Nat) (f : Core → Core) : (p.modCore c f).dies = p.dies := rfl
@[simp] theorem Pkg.modCore_regions (p : Pkg) (c : Nat) (f : Core → Core) : (p.modCore c f).regions = p.regions := rfl
@[simp] theorem Pkg.modCore_cows (p : Pkg) (c : Nat) (f : Core → Core) : (p.modCore c f).cows = p.cows := rfl
@[simp] theorem Pkg.modCore_snaps (p : Pkg) (c : Nat) (f : Core → Core) : (p.modCore c f).snaps = p.snaps := rfl
@[simp] theorem Pkg.modCore_queues (p : Pkg) (c : Nat) (f : Core → Core) : (p.modCore c f).queues = p.queues := rfl
@[simp] theorem Pkg.modCore_launches (p : Pkg) (c : Nat) (f : Core → Core) : (p.modCore c f).launches = p.launches := rfl
@[simp] theorem Pkg.modCore_nextLaunch (p : Pkg) (c : Nat) (f : Core → Core) : (p.modCore c f).nextLaunch = p.nextLaunch := rfl
@[simp] theorem Pkg.modCore_plHigh (p : Pkg) (c : Nat) (f : Core → Core) : (p.modCore c f).plHigh = p.plHigh := rfl
@[simp] theorem Pkg.modCore_plFull (p : Pkg) (c : Nat) (f : Core → Core) : (p.modCore c f).plFull = p.plFull := rfl
@[simp] theorem Pkg.modCore_events (p : Pkg) (c : Nat) (f : Core → Core) : (p.modCore c f).events = p.events := rfl
@[simp] theorem Pkg.modCore_liveHigh (p : Pkg) (c : Nat) (f : Core → Core) : (p.modCore c f).liveHigh = p.liveHigh := rfl
@[simp] theorem Pkg.modCore_evStalls (p : Pkg) (c : Nat) (f : Core → Core) : (p.modCore c f).evStalls = p.evStalls := rfl
@[simp] theorem Pkg.modCore_cursor (p : Pkg) (c : Nat) (f : Core → Core) : (p.modCore c f).cursor = p.cursor := rfl
@[simp] theorem Pkg.modCore_nextId (p : Pkg) (c : Nat) (f : Core → Core) : (p.modCore c f).nextId = p.nextId := rfl
@[simp] theorem Pkg.modCore_fwq (p : Pkg) (c : Nat) (f : Core → Core) : (p.modCore c f).fwq = p.fwq := rfl
@[simp] theorem Pkg.modCore_turn (p : Pkg) (c : Nat) (f : Core → Core) : (p.modCore c f).turn = p.turn := rfl
@[simp] theorem Pkg.modCore_groups (p : Pkg) (c : Nat) (f : Core → Core) : (p.modCore c f).groups = p.groups := rfl
@[simp] theorem Pkg.modCore_colls (p : Pkg) (c : Nat) (f : Core → Core) : (p.modCore c f).colls = p.colls := rfl
@[simp] theorem Pkg.modCore_pods (p : Pkg) (c : Nat) (f : Core → Core) : (p.modCore c f).pods = p.pods := rfl
@[simp] theorem Pkg.modCore_heldLines (p : Pkg) (c : Nat) (f : Core → Core) : (p.modCore c f).heldLines = p.heldLines := rfl
@[simp] theorem Pkg.modCore_traces (p : Pkg) (c : Nat) (f : Core → Core) : (p.modCore c f).traces = p.traces := rfl
@[simp] theorem Pkg.modCore_link (p : Pkg) (c : Nat) (f : Core → Core) : (p.modCore c f).link = p.link := rfl
@[simp] theorem Pkg.modCore_paced (p : Pkg) (c : Nat) (f : Core → Core) : (p.modCore c f).paced = p.paced := rfl
@[simp] theorem Pkg.modCore_owed (p : Pkg) (c : Nat) (f : Core → Core) : (p.modCore c f).owed = p.owed := rfl
@[simp] theorem Pkg.modCore_frozen (p : Pkg) (c : Nat) (f : Core → Core) : (p.modCore c f).frozen = p.frozen := rfl
@[simp] theorem Pkg.modCore_shunned (p : Pkg) (c : Nat) (f : Core → Core) : (p.modCore c f).shunned = p.shunned := rfl
@[simp] theorem Pkg.modCore_linker (p : Pkg) (c : Nat) (f : Core → Core) : (p.modCore c f).linker = p.linker := rfl
@[simp] theorem Pkg.modCore_xreset (p : Pkg) (c : Nat) (f : Core → Core) : (p.modCore c f).xreset = p.xreset := rfl
@[simp] theorem Pkg.modCore_hold (p : Pkg) (c : Nat) (f : Core → Core) : (p.modCore c f).hold = p.hold := rfl
@[simp] theorem Pkg.modCore_sent (p : Pkg) (c : Nat) (f : Core → Core) : (p.modCore c f).sent = p.sent := rfl
@[simp] theorem Pkg.modCore_powerAt (p : Pkg) (c : Nat) (f : Core → Core) : (p.modCore c f).powerAt = p.powerAt := rfl
@[simp] theorem Pkg.modCore_inWait (p : Pkg) (c : Nat) (f : Core → Core) : (p.modCore c f).inWait = p.inWait := rfl
@[simp] theorem Pkg.modCore_passing (p : Pkg) (c : Nat) (f : Core → Core) : (p.modCore c f).passing = p.passing := rfl

/-! ### A die changes -/

@[simp] theorem Pkg.modDie_ptime (p : Pkg) (d : Nat) (f : Die → Die) : (p.modDie d f).ptime = p.ptime := rfl
@[simp] theorem Pkg.modDie_tick (p : Pkg) (d : Nat) (f : Die → Die) : (p.modDie d f).tick = p.tick := rfl
@[simp] theorem Pkg.modDie_mem (p : Pkg) (d : Nat) (f : Die → Die) : (p.modDie d f).mem = p.mem := rfl
@[simp] theorem Pkg.modDie_poison (p : Pkg) (d : Nat) (f : Die → Die) : (p.modDie d f).poison = p.poison := rfl
@[simp] theorem Pkg.modDie_dir (p : Pkg) (d : Nat) (f : Die → Die) : (p.modDie d f).dir = p.dir := rfl
@[simp] theorem Pkg.modDie_cores (p : Pkg) (d : Nat) (f : Die → Die) : (p.modDie d f).cores = p.cores := rfl
@[simp] theorem Pkg.modDie_regions (p : Pkg) (d : Nat) (f : Die → Die) : (p.modDie d f).regions = p.regions := rfl
@[simp] theorem Pkg.modDie_cows (p : Pkg) (d : Nat) (f : Die → Die) : (p.modDie d f).cows = p.cows := rfl
@[simp] theorem Pkg.modDie_snaps (p : Pkg) (d : Nat) (f : Die → Die) : (p.modDie d f).snaps = p.snaps := rfl
@[simp] theorem Pkg.modDie_queues (p : Pkg) (d : Nat) (f : Die → Die) : (p.modDie d f).queues = p.queues := rfl
@[simp] theorem Pkg.modDie_launches (p : Pkg) (d : Nat) (f : Die → Die) : (p.modDie d f).launches = p.launches := rfl
@[simp] theorem Pkg.modDie_nextLaunch (p : Pkg) (d : Nat) (f : Die → Die) : (p.modDie d f).nextLaunch = p.nextLaunch := rfl
@[simp] theorem Pkg.modDie_plHigh (p : Pkg) (d : Nat) (f : Die → Die) : (p.modDie d f).plHigh = p.plHigh := rfl
@[simp] theorem Pkg.modDie_plFull (p : Pkg) (d : Nat) (f : Die → Die) : (p.modDie d f).plFull = p.plFull := rfl
@[simp] theorem Pkg.modDie_events (p : Pkg) (d : Nat) (f : Die → Die) : (p.modDie d f).events = p.events := rfl
@[simp] theorem Pkg.modDie_liveHigh (p : Pkg) (d : Nat) (f : Die → Die) : (p.modDie d f).liveHigh = p.liveHigh := rfl
@[simp] theorem Pkg.modDie_evStalls (p : Pkg) (d : Nat) (f : Die → Die) : (p.modDie d f).evStalls = p.evStalls := rfl
@[simp] theorem Pkg.modDie_cursor (p : Pkg) (d : Nat) (f : Die → Die) : (p.modDie d f).cursor = p.cursor := rfl
@[simp] theorem Pkg.modDie_nextId (p : Pkg) (d : Nat) (f : Die → Die) : (p.modDie d f).nextId = p.nextId := rfl
@[simp] theorem Pkg.modDie_fwq (p : Pkg) (d : Nat) (f : Die → Die) : (p.modDie d f).fwq = p.fwq := rfl
@[simp] theorem Pkg.modDie_turn (p : Pkg) (d : Nat) (f : Die → Die) : (p.modDie d f).turn = p.turn := rfl
@[simp] theorem Pkg.modDie_groups (p : Pkg) (d : Nat) (f : Die → Die) : (p.modDie d f).groups = p.groups := rfl
@[simp] theorem Pkg.modDie_colls (p : Pkg) (d : Nat) (f : Die → Die) : (p.modDie d f).colls = p.colls := rfl
@[simp] theorem Pkg.modDie_pods (p : Pkg) (d : Nat) (f : Die → Die) : (p.modDie d f).pods = p.pods := rfl
@[simp] theorem Pkg.modDie_heldLines (p : Pkg) (d : Nat) (f : Die → Die) : (p.modDie d f).heldLines = p.heldLines := rfl
@[simp] theorem Pkg.modDie_traces (p : Pkg) (d : Nat) (f : Die → Die) : (p.modDie d f).traces = p.traces := rfl
@[simp] theorem Pkg.modDie_link (p : Pkg) (d : Nat) (f : Die → Die) : (p.modDie d f).link = p.link := rfl
@[simp] theorem Pkg.modDie_paced (p : Pkg) (d : Nat) (f : Die → Die) : (p.modDie d f).paced = p.paced := rfl
@[simp] theorem Pkg.modDie_owed (p : Pkg) (d : Nat) (f : Die → Die) : (p.modDie d f).owed = p.owed := rfl
@[simp] theorem Pkg.modDie_frozen (p : Pkg) (d : Nat) (f : Die → Die) : (p.modDie d f).frozen = p.frozen := rfl
@[simp] theorem Pkg.modDie_shunned (p : Pkg) (d : Nat) (f : Die → Die) : (p.modDie d f).shunned = p.shunned := rfl
@[simp] theorem Pkg.modDie_linker (p : Pkg) (d : Nat) (f : Die → Die) : (p.modDie d f).linker = p.linker := rfl
@[simp] theorem Pkg.modDie_xreset (p : Pkg) (d : Nat) (f : Die → Die) : (p.modDie d f).xreset = p.xreset := rfl
@[simp] theorem Pkg.modDie_hold (p : Pkg) (d : Nat) (f : Die → Die) : (p.modDie d f).hold = p.hold := rfl
@[simp] theorem Pkg.modDie_sent (p : Pkg) (d : Nat) (f : Die → Die) : (p.modDie d f).sent = p.sent := rfl
@[simp] theorem Pkg.modDie_powerAt (p : Pkg) (d : Nat) (f : Die → Die) : (p.modDie d f).powerAt = p.powerAt := rfl
@[simp] theorem Pkg.modDie_inWait (p : Pkg) (d : Nat) (f : Die → Die) : (p.modDie d f).inWait = p.inWait := rfl
@[simp] theorem Pkg.modDie_passing (p : Pkg) (d : Nat) (f : Die → Die) : (p.modDie d f).passing = p.passing := rfl

/-! ### A queue changes -/

@[simp] theorem Pkg.modQueue_ptime (p : Pkg) (q : Nat) (f : Queue → Queue) : (p.modQueue q f).ptime = p.ptime := rfl
@[simp] theorem Pkg.modQueue_tick (p : Pkg) (q : Nat) (f : Queue → Queue) : (p.modQueue q f).tick = p.tick := rfl
@[simp] theorem Pkg.modQueue_mem (p : Pkg) (q : Nat) (f : Queue → Queue) : (p.modQueue q f).mem = p.mem := rfl
@[simp] theorem Pkg.modQueue_poison (p : Pkg) (q : Nat) (f : Queue → Queue) : (p.modQueue q f).poison = p.poison := rfl
@[simp] theorem Pkg.modQueue_dir (p : Pkg) (q : Nat) (f : Queue → Queue) : (p.modQueue q f).dir = p.dir := rfl
@[simp] theorem Pkg.modQueue_cores (p : Pkg) (q : Nat) (f : Queue → Queue) : (p.modQueue q f).cores = p.cores := rfl
@[simp] theorem Pkg.modQueue_dies (p : Pkg) (q : Nat) (f : Queue → Queue) : (p.modQueue q f).dies = p.dies := rfl
@[simp] theorem Pkg.modQueue_regions (p : Pkg) (q : Nat) (f : Queue → Queue) : (p.modQueue q f).regions = p.regions := rfl
@[simp] theorem Pkg.modQueue_cows (p : Pkg) (q : Nat) (f : Queue → Queue) : (p.modQueue q f).cows = p.cows := rfl
@[simp] theorem Pkg.modQueue_snaps (p : Pkg) (q : Nat) (f : Queue → Queue) : (p.modQueue q f).snaps = p.snaps := rfl
@[simp] theorem Pkg.modQueue_launches (p : Pkg) (q : Nat) (f : Queue → Queue) : (p.modQueue q f).launches = p.launches := rfl
@[simp] theorem Pkg.modQueue_nextLaunch (p : Pkg) (q : Nat) (f : Queue → Queue) : (p.modQueue q f).nextLaunch = p.nextLaunch := rfl
@[simp] theorem Pkg.modQueue_plHigh (p : Pkg) (q : Nat) (f : Queue → Queue) : (p.modQueue q f).plHigh = p.plHigh := rfl
@[simp] theorem Pkg.modQueue_plFull (p : Pkg) (q : Nat) (f : Queue → Queue) : (p.modQueue q f).plFull = p.plFull := rfl
@[simp] theorem Pkg.modQueue_events (p : Pkg) (q : Nat) (f : Queue → Queue) : (p.modQueue q f).events = p.events := rfl
@[simp] theorem Pkg.modQueue_liveHigh (p : Pkg) (q : Nat) (f : Queue → Queue) : (p.modQueue q f).liveHigh = p.liveHigh := rfl
@[simp] theorem Pkg.modQueue_evStalls (p : Pkg) (q : Nat) (f : Queue → Queue) : (p.modQueue q f).evStalls = p.evStalls := rfl
@[simp] theorem Pkg.modQueue_cursor (p : Pkg) (q : Nat) (f : Queue → Queue) : (p.modQueue q f).cursor = p.cursor := rfl
@[simp] theorem Pkg.modQueue_nextId (p : Pkg) (q : Nat) (f : Queue → Queue) : (p.modQueue q f).nextId = p.nextId := rfl
@[simp] theorem Pkg.modQueue_fwq (p : Pkg) (q : Nat) (f : Queue → Queue) : (p.modQueue q f).fwq = p.fwq := rfl
@[simp] theorem Pkg.modQueue_turn (p : Pkg) (q : Nat) (f : Queue → Queue) : (p.modQueue q f).turn = p.turn := rfl
@[simp] theorem Pkg.modQueue_groups (p : Pkg) (q : Nat) (f : Queue → Queue) : (p.modQueue q f).groups = p.groups := rfl
@[simp] theorem Pkg.modQueue_colls (p : Pkg) (q : Nat) (f : Queue → Queue) : (p.modQueue q f).colls = p.colls := rfl
@[simp] theorem Pkg.modQueue_pods (p : Pkg) (q : Nat) (f : Queue → Queue) : (p.modQueue q f).pods = p.pods := rfl
@[simp] theorem Pkg.modQueue_heldLines (p : Pkg) (q : Nat) (f : Queue → Queue) : (p.modQueue q f).heldLines = p.heldLines := rfl
@[simp] theorem Pkg.modQueue_traces (p : Pkg) (q : Nat) (f : Queue → Queue) : (p.modQueue q f).traces = p.traces := rfl
@[simp] theorem Pkg.modQueue_link (p : Pkg) (q : Nat) (f : Queue → Queue) : (p.modQueue q f).link = p.link := rfl
@[simp] theorem Pkg.modQueue_paced (p : Pkg) (q : Nat) (f : Queue → Queue) : (p.modQueue q f).paced = p.paced := rfl
@[simp] theorem Pkg.modQueue_owed (p : Pkg) (q : Nat) (f : Queue → Queue) : (p.modQueue q f).owed = p.owed := rfl
@[simp] theorem Pkg.modQueue_frozen (p : Pkg) (q : Nat) (f : Queue → Queue) : (p.modQueue q f).frozen = p.frozen := rfl
@[simp] theorem Pkg.modQueue_shunned (p : Pkg) (q : Nat) (f : Queue → Queue) : (p.modQueue q f).shunned = p.shunned := rfl
@[simp] theorem Pkg.modQueue_linker (p : Pkg) (q : Nat) (f : Queue → Queue) : (p.modQueue q f).linker = p.linker := rfl
@[simp] theorem Pkg.modQueue_xreset (p : Pkg) (q : Nat) (f : Queue → Queue) : (p.modQueue q f).xreset = p.xreset := rfl
@[simp] theorem Pkg.modQueue_hold (p : Pkg) (q : Nat) (f : Queue → Queue) : (p.modQueue q f).hold = p.hold := rfl
@[simp] theorem Pkg.modQueue_sent (p : Pkg) (q : Nat) (f : Queue → Queue) : (p.modQueue q f).sent = p.sent := rfl
@[simp] theorem Pkg.modQueue_powerAt (p : Pkg) (q : Nat) (f : Queue → Queue) : (p.modQueue q f).powerAt = p.powerAt := rfl
@[simp] theorem Pkg.modQueue_inWait (p : Pkg) (q : Nat) (f : Queue → Queue) : (p.modQueue q f).inWait = p.inWait := rfl
@[simp] theorem Pkg.modQueue_passing (p : Pkg) (q : Nat) (f : Queue → Queue) : (p.modQueue q f).passing = p.passing := rfl

/-! ### A launch changes -/

@[simp] theorem Pkg.modLaunch_ptime (p : Pkg) (l : Nat) (f : Launch → Launch) : (p.modLaunch l f).ptime = p.ptime := rfl
@[simp] theorem Pkg.modLaunch_tick (p : Pkg) (l : Nat) (f : Launch → Launch) : (p.modLaunch l f).tick = p.tick := rfl
@[simp] theorem Pkg.modLaunch_mem (p : Pkg) (l : Nat) (f : Launch → Launch) : (p.modLaunch l f).mem = p.mem := rfl
@[simp] theorem Pkg.modLaunch_poison (p : Pkg) (l : Nat) (f : Launch → Launch) : (p.modLaunch l f).poison = p.poison := rfl
@[simp] theorem Pkg.modLaunch_dir (p : Pkg) (l : Nat) (f : Launch → Launch) : (p.modLaunch l f).dir = p.dir := rfl
@[simp] theorem Pkg.modLaunch_cores (p : Pkg) (l : Nat) (f : Launch → Launch) : (p.modLaunch l f).cores = p.cores := rfl
@[simp] theorem Pkg.modLaunch_dies (p : Pkg) (l : Nat) (f : Launch → Launch) : (p.modLaunch l f).dies = p.dies := rfl
@[simp] theorem Pkg.modLaunch_regions (p : Pkg) (l : Nat) (f : Launch → Launch) : (p.modLaunch l f).regions = p.regions := rfl
@[simp] theorem Pkg.modLaunch_cows (p : Pkg) (l : Nat) (f : Launch → Launch) : (p.modLaunch l f).cows = p.cows := rfl
@[simp] theorem Pkg.modLaunch_snaps (p : Pkg) (l : Nat) (f : Launch → Launch) : (p.modLaunch l f).snaps = p.snaps := rfl
@[simp] theorem Pkg.modLaunch_queues (p : Pkg) (l : Nat) (f : Launch → Launch) : (p.modLaunch l f).queues = p.queues := rfl
@[simp] theorem Pkg.modLaunch_nextLaunch (p : Pkg) (l : Nat) (f : Launch → Launch) : (p.modLaunch l f).nextLaunch = p.nextLaunch := rfl
@[simp] theorem Pkg.modLaunch_plHigh (p : Pkg) (l : Nat) (f : Launch → Launch) : (p.modLaunch l f).plHigh = p.plHigh := rfl
@[simp] theorem Pkg.modLaunch_plFull (p : Pkg) (l : Nat) (f : Launch → Launch) : (p.modLaunch l f).plFull = p.plFull := rfl
@[simp] theorem Pkg.modLaunch_events (p : Pkg) (l : Nat) (f : Launch → Launch) : (p.modLaunch l f).events = p.events := rfl
@[simp] theorem Pkg.modLaunch_liveHigh (p : Pkg) (l : Nat) (f : Launch → Launch) : (p.modLaunch l f).liveHigh = p.liveHigh := rfl
@[simp] theorem Pkg.modLaunch_evStalls (p : Pkg) (l : Nat) (f : Launch → Launch) : (p.modLaunch l f).evStalls = p.evStalls := rfl
@[simp] theorem Pkg.modLaunch_cursor (p : Pkg) (l : Nat) (f : Launch → Launch) : (p.modLaunch l f).cursor = p.cursor := rfl
@[simp] theorem Pkg.modLaunch_nextId (p : Pkg) (l : Nat) (f : Launch → Launch) : (p.modLaunch l f).nextId = p.nextId := rfl
@[simp] theorem Pkg.modLaunch_fwq (p : Pkg) (l : Nat) (f : Launch → Launch) : (p.modLaunch l f).fwq = p.fwq := rfl
@[simp] theorem Pkg.modLaunch_turn (p : Pkg) (l : Nat) (f : Launch → Launch) : (p.modLaunch l f).turn = p.turn := rfl
@[simp] theorem Pkg.modLaunch_groups (p : Pkg) (l : Nat) (f : Launch → Launch) : (p.modLaunch l f).groups = p.groups := rfl
@[simp] theorem Pkg.modLaunch_colls (p : Pkg) (l : Nat) (f : Launch → Launch) : (p.modLaunch l f).colls = p.colls := rfl
@[simp] theorem Pkg.modLaunch_pods (p : Pkg) (l : Nat) (f : Launch → Launch) : (p.modLaunch l f).pods = p.pods := rfl
@[simp] theorem Pkg.modLaunch_heldLines (p : Pkg) (l : Nat) (f : Launch → Launch) : (p.modLaunch l f).heldLines = p.heldLines := rfl
@[simp] theorem Pkg.modLaunch_traces (p : Pkg) (l : Nat) (f : Launch → Launch) : (p.modLaunch l f).traces = p.traces := rfl
@[simp] theorem Pkg.modLaunch_link (p : Pkg) (l : Nat) (f : Launch → Launch) : (p.modLaunch l f).link = p.link := rfl
@[simp] theorem Pkg.modLaunch_paced (p : Pkg) (l : Nat) (f : Launch → Launch) : (p.modLaunch l f).paced = p.paced := rfl
@[simp] theorem Pkg.modLaunch_owed (p : Pkg) (l : Nat) (f : Launch → Launch) : (p.modLaunch l f).owed = p.owed := rfl
@[simp] theorem Pkg.modLaunch_frozen (p : Pkg) (l : Nat) (f : Launch → Launch) : (p.modLaunch l f).frozen = p.frozen := rfl
@[simp] theorem Pkg.modLaunch_shunned (p : Pkg) (l : Nat) (f : Launch → Launch) : (p.modLaunch l f).shunned = p.shunned := rfl
@[simp] theorem Pkg.modLaunch_linker (p : Pkg) (l : Nat) (f : Launch → Launch) : (p.modLaunch l f).linker = p.linker := rfl
@[simp] theorem Pkg.modLaunch_xreset (p : Pkg) (l : Nat) (f : Launch → Launch) : (p.modLaunch l f).xreset = p.xreset := rfl
@[simp] theorem Pkg.modLaunch_hold (p : Pkg) (l : Nat) (f : Launch → Launch) : (p.modLaunch l f).hold = p.hold := rfl
@[simp] theorem Pkg.modLaunch_sent (p : Pkg) (l : Nat) (f : Launch → Launch) : (p.modLaunch l f).sent = p.sent := rfl
@[simp] theorem Pkg.modLaunch_powerAt (p : Pkg) (l : Nat) (f : Launch → Launch) : (p.modLaunch l f).powerAt = p.powerAt := rfl
@[simp] theorem Pkg.modLaunch_inWait (p : Pkg) (l : Nat) (f : Launch → Launch) : (p.modLaunch l f).inWait = p.inWait := rfl
@[simp] theorem Pkg.modLaunch_passing (p : Pkg) (l : Nat) (f : Launch → Launch) : (p.modLaunch l f).passing = p.passing := rfl

/-! ### A block changes -/

@[simp] theorem Pkg.modBlock_ptime (p : Pkg) (c b : Nat) (f : Block → Block) : (p.modBlock c b f).ptime = p.ptime := rfl
@[simp] theorem Pkg.modBlock_tick (p : Pkg) (c b : Nat) (f : Block → Block) : (p.modBlock c b f).tick = p.tick := rfl
@[simp] theorem Pkg.modBlock_mem (p : Pkg) (c b : Nat) (f : Block → Block) : (p.modBlock c b f).mem = p.mem := rfl
@[simp] theorem Pkg.modBlock_poison (p : Pkg) (c b : Nat) (f : Block → Block) : (p.modBlock c b f).poison = p.poison := rfl
@[simp] theorem Pkg.modBlock_dir (p : Pkg) (c b : Nat) (f : Block → Block) : (p.modBlock c b f).dir = p.dir := rfl
@[simp] theorem Pkg.modBlock_dies (p : Pkg) (c b : Nat) (f : Block → Block) : (p.modBlock c b f).dies = p.dies := rfl
@[simp] theorem Pkg.modBlock_regions (p : Pkg) (c b : Nat) (f : Block → Block) : (p.modBlock c b f).regions = p.regions := rfl
@[simp] theorem Pkg.modBlock_cows (p : Pkg) (c b : Nat) (f : Block → Block) : (p.modBlock c b f).cows = p.cows := rfl
@[simp] theorem Pkg.modBlock_snaps (p : Pkg) (c b : Nat) (f : Block → Block) : (p.modBlock c b f).snaps = p.snaps := rfl
@[simp] theorem Pkg.modBlock_queues (p : Pkg) (c b : Nat) (f : Block → Block) : (p.modBlock c b f).queues = p.queues := rfl
@[simp] theorem Pkg.modBlock_launches (p : Pkg) (c b : Nat) (f : Block → Block) : (p.modBlock c b f).launches = p.launches := rfl
@[simp] theorem Pkg.modBlock_nextLaunch (p : Pkg) (c b : Nat) (f : Block → Block) : (p.modBlock c b f).nextLaunch = p.nextLaunch := rfl
@[simp] theorem Pkg.modBlock_plHigh (p : Pkg) (c b : Nat) (f : Block → Block) : (p.modBlock c b f).plHigh = p.plHigh := rfl
@[simp] theorem Pkg.modBlock_plFull (p : Pkg) (c b : Nat) (f : Block → Block) : (p.modBlock c b f).plFull = p.plFull := rfl
@[simp] theorem Pkg.modBlock_events (p : Pkg) (c b : Nat) (f : Block → Block) : (p.modBlock c b f).events = p.events := rfl
@[simp] theorem Pkg.modBlock_liveHigh (p : Pkg) (c b : Nat) (f : Block → Block) : (p.modBlock c b f).liveHigh = p.liveHigh := rfl
@[simp] theorem Pkg.modBlock_evStalls (p : Pkg) (c b : Nat) (f : Block → Block) : (p.modBlock c b f).evStalls = p.evStalls := rfl
@[simp] theorem Pkg.modBlock_cursor (p : Pkg) (c b : Nat) (f : Block → Block) : (p.modBlock c b f).cursor = p.cursor := rfl
@[simp] theorem Pkg.modBlock_nextId (p : Pkg) (c b : Nat) (f : Block → Block) : (p.modBlock c b f).nextId = p.nextId := rfl
@[simp] theorem Pkg.modBlock_fwq (p : Pkg) (c b : Nat) (f : Block → Block) : (p.modBlock c b f).fwq = p.fwq := rfl
@[simp] theorem Pkg.modBlock_turn (p : Pkg) (c b : Nat) (f : Block → Block) : (p.modBlock c b f).turn = p.turn := rfl
@[simp] theorem Pkg.modBlock_groups (p : Pkg) (c b : Nat) (f : Block → Block) : (p.modBlock c b f).groups = p.groups := rfl
@[simp] theorem Pkg.modBlock_colls (p : Pkg) (c b : Nat) (f : Block → Block) : (p.modBlock c b f).colls = p.colls := rfl
@[simp] theorem Pkg.modBlock_pods (p : Pkg) (c b : Nat) (f : Block → Block) : (p.modBlock c b f).pods = p.pods := rfl
@[simp] theorem Pkg.modBlock_heldLines (p : Pkg) (c b : Nat) (f : Block → Block) : (p.modBlock c b f).heldLines = p.heldLines := rfl
@[simp] theorem Pkg.modBlock_traces (p : Pkg) (c b : Nat) (f : Block → Block) : (p.modBlock c b f).traces = p.traces := rfl
@[simp] theorem Pkg.modBlock_link (p : Pkg) (c b : Nat) (f : Block → Block) : (p.modBlock c b f).link = p.link := rfl
@[simp] theorem Pkg.modBlock_paced (p : Pkg) (c b : Nat) (f : Block → Block) : (p.modBlock c b f).paced = p.paced := rfl
@[simp] theorem Pkg.modBlock_owed (p : Pkg) (c b : Nat) (f : Block → Block) : (p.modBlock c b f).owed = p.owed := rfl
@[simp] theorem Pkg.modBlock_frozen (p : Pkg) (c b : Nat) (f : Block → Block) : (p.modBlock c b f).frozen = p.frozen := rfl
@[simp] theorem Pkg.modBlock_shunned (p : Pkg) (c b : Nat) (f : Block → Block) : (p.modBlock c b f).shunned = p.shunned := rfl
@[simp] theorem Pkg.modBlock_linker (p : Pkg) (c b : Nat) (f : Block → Block) : (p.modBlock c b f).linker = p.linker := rfl
@[simp] theorem Pkg.modBlock_xreset (p : Pkg) (c b : Nat) (f : Block → Block) : (p.modBlock c b f).xreset = p.xreset := rfl
@[simp] theorem Pkg.modBlock_hold (p : Pkg) (c b : Nat) (f : Block → Block) : (p.modBlock c b f).hold = p.hold := rfl
@[simp] theorem Pkg.modBlock_sent (p : Pkg) (c b : Nat) (f : Block → Block) : (p.modBlock c b f).sent = p.sent := rfl
@[simp] theorem Pkg.modBlock_powerAt (p : Pkg) (c b : Nat) (f : Block → Block) : (p.modBlock c b f).powerAt = p.powerAt := rfl
@[simp] theorem Pkg.modBlock_inWait (p : Pkg) (c b : Nat) (f : Block → Block) : (p.modBlock c b f).inWait = p.inWait := rfl
@[simp] theorem Pkg.modBlock_passing (p : Pkg) (c b : Nat) (f : Block → Block) : (p.modBlock c b f).passing = p.passing := rfl

/-! ### A warp changes -/

@[simp] theorem Pkg.modWarp_ptime (p : Pkg) (c b w : Nat) (f : Warp → Warp) : (p.modWarp c b w f).ptime = p.ptime := rfl
@[simp] theorem Pkg.modWarp_tick (p : Pkg) (c b w : Nat) (f : Warp → Warp) : (p.modWarp c b w f).tick = p.tick := rfl
@[simp] theorem Pkg.modWarp_mem (p : Pkg) (c b w : Nat) (f : Warp → Warp) : (p.modWarp c b w f).mem = p.mem := rfl
@[simp] theorem Pkg.modWarp_poison (p : Pkg) (c b w : Nat) (f : Warp → Warp) : (p.modWarp c b w f).poison = p.poison := rfl
@[simp] theorem Pkg.modWarp_dir (p : Pkg) (c b w : Nat) (f : Warp → Warp) : (p.modWarp c b w f).dir = p.dir := rfl
@[simp] theorem Pkg.modWarp_dies (p : Pkg) (c b w : Nat) (f : Warp → Warp) : (p.modWarp c b w f).dies = p.dies := rfl
@[simp] theorem Pkg.modWarp_regions (p : Pkg) (c b w : Nat) (f : Warp → Warp) : (p.modWarp c b w f).regions = p.regions := rfl
@[simp] theorem Pkg.modWarp_cows (p : Pkg) (c b w : Nat) (f : Warp → Warp) : (p.modWarp c b w f).cows = p.cows := rfl
@[simp] theorem Pkg.modWarp_snaps (p : Pkg) (c b w : Nat) (f : Warp → Warp) : (p.modWarp c b w f).snaps = p.snaps := rfl
@[simp] theorem Pkg.modWarp_queues (p : Pkg) (c b w : Nat) (f : Warp → Warp) : (p.modWarp c b w f).queues = p.queues := rfl
@[simp] theorem Pkg.modWarp_launches (p : Pkg) (c b w : Nat) (f : Warp → Warp) : (p.modWarp c b w f).launches = p.launches := rfl
@[simp] theorem Pkg.modWarp_nextLaunch (p : Pkg) (c b w : Nat) (f : Warp → Warp) : (p.modWarp c b w f).nextLaunch = p.nextLaunch := rfl
@[simp] theorem Pkg.modWarp_plHigh (p : Pkg) (c b w : Nat) (f : Warp → Warp) : (p.modWarp c b w f).plHigh = p.plHigh := rfl
@[simp] theorem Pkg.modWarp_plFull (p : Pkg) (c b w : Nat) (f : Warp → Warp) : (p.modWarp c b w f).plFull = p.plFull := rfl
@[simp] theorem Pkg.modWarp_events (p : Pkg) (c b w : Nat) (f : Warp → Warp) : (p.modWarp c b w f).events = p.events := rfl
@[simp] theorem Pkg.modWarp_liveHigh (p : Pkg) (c b w : Nat) (f : Warp → Warp) : (p.modWarp c b w f).liveHigh = p.liveHigh := rfl
@[simp] theorem Pkg.modWarp_evStalls (p : Pkg) (c b w : Nat) (f : Warp → Warp) : (p.modWarp c b w f).evStalls = p.evStalls := rfl
@[simp] theorem Pkg.modWarp_cursor (p : Pkg) (c b w : Nat) (f : Warp → Warp) : (p.modWarp c b w f).cursor = p.cursor := rfl
@[simp] theorem Pkg.modWarp_nextId (p : Pkg) (c b w : Nat) (f : Warp → Warp) : (p.modWarp c b w f).nextId = p.nextId := rfl
@[simp] theorem Pkg.modWarp_fwq (p : Pkg) (c b w : Nat) (f : Warp → Warp) : (p.modWarp c b w f).fwq = p.fwq := rfl
@[simp] theorem Pkg.modWarp_turn (p : Pkg) (c b w : Nat) (f : Warp → Warp) : (p.modWarp c b w f).turn = p.turn := rfl
@[simp] theorem Pkg.modWarp_groups (p : Pkg) (c b w : Nat) (f : Warp → Warp) : (p.modWarp c b w f).groups = p.groups := rfl
@[simp] theorem Pkg.modWarp_colls (p : Pkg) (c b w : Nat) (f : Warp → Warp) : (p.modWarp c b w f).colls = p.colls := rfl
@[simp] theorem Pkg.modWarp_pods (p : Pkg) (c b w : Nat) (f : Warp → Warp) : (p.modWarp c b w f).pods = p.pods := rfl
@[simp] theorem Pkg.modWarp_heldLines (p : Pkg) (c b w : Nat) (f : Warp → Warp) : (p.modWarp c b w f).heldLines = p.heldLines := rfl
@[simp] theorem Pkg.modWarp_traces (p : Pkg) (c b w : Nat) (f : Warp → Warp) : (p.modWarp c b w f).traces = p.traces := rfl
@[simp] theorem Pkg.modWarp_link (p : Pkg) (c b w : Nat) (f : Warp → Warp) : (p.modWarp c b w f).link = p.link := rfl
@[simp] theorem Pkg.modWarp_paced (p : Pkg) (c b w : Nat) (f : Warp → Warp) : (p.modWarp c b w f).paced = p.paced := rfl
@[simp] theorem Pkg.modWarp_owed (p : Pkg) (c b w : Nat) (f : Warp → Warp) : (p.modWarp c b w f).owed = p.owed := rfl
@[simp] theorem Pkg.modWarp_frozen (p : Pkg) (c b w : Nat) (f : Warp → Warp) : (p.modWarp c b w f).frozen = p.frozen := rfl
@[simp] theorem Pkg.modWarp_shunned (p : Pkg) (c b w : Nat) (f : Warp → Warp) : (p.modWarp c b w f).shunned = p.shunned := rfl
@[simp] theorem Pkg.modWarp_linker (p : Pkg) (c b w : Nat) (f : Warp → Warp) : (p.modWarp c b w f).linker = p.linker := rfl
@[simp] theorem Pkg.modWarp_xreset (p : Pkg) (c b w : Nat) (f : Warp → Warp) : (p.modWarp c b w f).xreset = p.xreset := rfl
@[simp] theorem Pkg.modWarp_hold (p : Pkg) (c b w : Nat) (f : Warp → Warp) : (p.modWarp c b w f).hold = p.hold := rfl
@[simp] theorem Pkg.modWarp_sent (p : Pkg) (c b w : Nat) (f : Warp → Warp) : (p.modWarp c b w f).sent = p.sent := rfl
@[simp] theorem Pkg.modWarp_powerAt (p : Pkg) (c b w : Nat) (f : Warp → Warp) : (p.modWarp c b w f).powerAt = p.powerAt := rfl
@[simp] theorem Pkg.modWarp_inWait (p : Pkg) (c b w : Nat) (f : Warp → Warp) : (p.modWarp c b w f).inWait = p.inWait := rfl
@[simp] theorem Pkg.modWarp_passing (p : Pkg) (c b w : Nat) (f : Warp → Warp) : (p.modWarp c b w f).passing = p.passing := rfl

/-! ### A split entry changes -/

@[simp] theorem Warp.modSplit_slot (w : Warp) (k : Nat) (f : Split → Split) : (w.modSplit k f).slot = w.slot := rfl
@[simp] theorem Warp.modSplit_alloc (w : Warp) (k : Nat) (f : Split → Split) : (w.modSplit k f).alloc = w.alloc := rfl
@[simp] theorem Warp.modSplit_present (w : Warp) (k : Nat) (f : Split → Split) : (w.modSplit k f).present = w.present := rfl
@[simp] theorem Warp.modSplit_exited (w : Warp) (k : Nat) (f : Split → Split) : (w.modSplit k f).exited = w.exited := rfl
@[simp] theorem Warp.modSplit_dstack (w : Warp) (k : Nat) (f : Split → Split) : (w.modSplit k f).dstack = w.dstack := rfl
@[simp] theorem Warp.modSplit_regs (w : Warp) (k : Nat) (f : Split → Split) : (w.modSplit k f).regs = w.regs := rfl
@[simp] theorem Warp.modSplit_preds (w : Warp) (k : Nat) (f : Split → Split) : (w.modSplit k f).preds = w.preds := rfl
@[simp] theorem Warp.modSplit_xs (w : Warp) (k : Nat) (f : Split → Split) : (w.modSplit k f).xs = w.xs := rfl
@[simp] theorem Warp.modSplit_fprm (w : Warp) (k : Nat) (f : Split → Split) : (w.modSplit k f).fprm = w.fprm := rfl
@[simp] theorem Warp.modSplit_fpflags (w : Warp) (k : Nat) (f : Split → Split) : (w.modSplit k f).fpflags = w.fpflags := rfl
@[simp] theorem Warp.modSplit_fptrap (w : Warp) (k : Nat) (f : Split → Split) : (w.modSplit k f).fptrap = w.fptrap := rfl
@[simp] theorem Warp.modSplit_wver (w : Warp) (k : Nat) (f : Split → Split) : (w.modSplit k f).wver = w.wver := rfl
@[simp] theorem Warp.modSplit_cnt (w : Warp) (k : Nat) (f : Split → Split) : (w.modSplit k f).cnt = w.cnt := rfl
@[simp] theorem Warp.modSplit_ops (w : Warp) (k : Nat) (f : Split → Split) : (w.modSplit k f).ops = w.ops := rfl
@[simp] theorem Warp.modSplit_calls (w : Warp) (k : Nat) (f : Split → Split) : (w.modSplit k f).calls = w.calls := rfl
@[simp] theorem Warp.modSplit_callFaults (w : Warp) (k : Nat) (f : Split → Split) : (w.modSplit k f).callFaults = w.callFaults := rfl
@[simp] theorem Warp.modSplit_feedCur (w : Warp) (k : Nat) (f : Split → Split) : (w.modSplit k f).feedCur = w.feedCur := rfl
@[simp] theorem Warp.modSplit_copySeq (w : Warp) (k : Nat) (f : Split → Split) : (w.modSplit k f).copySeq = w.copySeq := rfl
@[simp] theorem Warp.modSplit_batchFaults (w : Warp) (k : Nat) (f : Split → Split) : (w.modSplit k f).batchFaults = w.batchFaults := rfl
@[simp] theorem Warp.modSplit_exitAt (w : Warp) (k : Nat) (f : Split → Split) : (w.modSplit k f).exitAt = w.exitAt := rfl
@[simp] theorem Warp.modSplit_copyDone (w : Warp) (k : Nat) (f : Split → Split) : (w.modSplit k f).copyDone = w.copyDone := rfl
@[simp] theorem Warp.modSplit_collSeq (w : Warp) (k : Nat) (f : Split → Split) : (w.modSplit k f).collSeq = w.collSeq := rfl
@[simp] theorem Warp.modSplit_stkBase (w : Warp) (k : Nat) (f : Split → Split) : (w.modSplit k f).stkBase = w.stkBase := rfl
@[simp] theorem Warp.modSplit_stkCap (w : Warp) (k : Nat) (f : Split → Split) : (w.modSplit k f).stkCap = w.stkCap := rfl
@[simp] theorem Warp.modSplit_stkDepth (w : Warp) (k : Nat) (f : Split → Split) : (w.modSplit k f).stkDepth = w.stkDepth := rfl
@[simp] theorem Warp.modSplit_stkTop (w : Warp) (k : Nat) (f : Split → Split) : (w.modSplit k f).stkTop = w.stkTop := rfl
@[simp] theorem Warp.modSplit_stkOvf (w : Warp) (k : Nat) (f : Split → Split) : (w.modSplit k f).stkOvf = w.stkOvf := rfl
@[simp] theorem Warp.modSplit_binds (w : Warp) (k : Nat) (f : Split → Split) : (w.modSplit k f).binds = w.binds := rfl
@[simp] theorem Warp.modSplit_rets (w : Warp) (k : Nat) (f : Split → Split) : (w.modSplit k f).rets = w.rets := rfl
@[simp] theorem Warp.modSplit_sbuf (w : Warp) (k : Nat) (f : Split → Split) : (w.modSplit k f).sbuf = w.sbuf := rfl
@[simp] theorem Warp.modSplit_frec (w : Warp) (k : Nat) (f : Split → Split) : (w.modSplit k f).frec = w.frec := rfl
@[simp] theorem Warp.modSplit_halt (w : Warp) (k : Nat) (f : Split → Split) : (w.modSplit k f).halt = w.halt := rfl
@[simp] theorem Warp.modSplit_regions (w : Warp) (k : Nat) (f : Split → Split) : (w.modSplit k f).regions = w.regions := rfl
@[simp] theorem Warp.modSplit_arStat (w : Warp) (k : Nat) (f : Split → Split) : (w.modSplit k f).arStat = w.arStat := rfl
@[simp] theorem Warp.modSplit_arLog (w : Warp) (k : Nat) (f : Split → Split) : (w.modSplit k f).arLog = w.arLog := rfl
@[simp] theorem Warp.modSplit_pri (w : Warp) (k : Nat) (f : Split → Split) : (w.modSplit k f).pri = w.pri := rfl
@[simp] theorem Warp.modSplit_rpoison (w : Warp) (k : Nat) (f : Split → Split) : (w.modSplit k f).rpoison = w.rpoison := rfl
@[simp] theorem Warp.modSplit_busy (w : Warp) (k : Nat) (f : Split → Split) : (w.modSplit k f).busy = w.busy := rfl

/-! ### A register is written -/

@[simp] theorem Warp.wr_slot (w : Warp) (r l : Nat) (v : Word) : (w.wr r l v).slot = w.slot := rfl
@[simp] theorem Warp.wr_alloc (w : Warp) (r l : Nat) (v : Word) : (w.wr r l v).alloc = w.alloc := rfl
@[simp] theorem Warp.wr_present (w : Warp) (r l : Nat) (v : Word) : (w.wr r l v).present = w.present := rfl
@[simp] theorem Warp.wr_exited (w : Warp) (r l : Nat) (v : Word) : (w.wr r l v).exited = w.exited := rfl
@[simp] theorem Warp.wr_splits (w : Warp) (r l : Nat) (v : Word) : (w.wr r l v).splits = w.splits := rfl
@[simp] theorem Warp.wr_dstack (w : Warp) (r l : Nat) (v : Word) : (w.wr r l v).dstack = w.dstack := rfl
@[simp] theorem Warp.wr_preds (w : Warp) (r l : Nat) (v : Word) : (w.wr r l v).preds = w.preds := rfl
@[simp] theorem Warp.wr_xs (w : Warp) (r l : Nat) (v : Word) : (w.wr r l v).xs = w.xs := rfl
@[simp] theorem Warp.wr_fprm (w : Warp) (r l : Nat) (v : Word) : (w.wr r l v).fprm = w.fprm := rfl
@[simp] theorem Warp.wr_fpflags (w : Warp) (r l : Nat) (v : Word) : (w.wr r l v).fpflags = w.fpflags := rfl
@[simp] theorem Warp.wr_fptrap (w : Warp) (r l : Nat) (v : Word) : (w.wr r l v).fptrap = w.fptrap := rfl
@[simp] theorem Warp.wr_wver (w : Warp) (r l : Nat) (v : Word) : (w.wr r l v).wver = w.wver := rfl
@[simp] theorem Warp.wr_cnt (w : Warp) (r l : Nat) (v : Word) : (w.wr r l v).cnt = w.cnt := rfl
@[simp] theorem Warp.wr_ops (w : Warp) (r l : Nat) (v : Word) : (w.wr r l v).ops = w.ops := rfl
@[simp] theorem Warp.wr_calls (w : Warp) (r l : Nat) (v : Word) : (w.wr r l v).calls = w.calls := rfl
@[simp] theorem Warp.wr_callFaults (w : Warp) (r l : Nat) (v : Word) : (w.wr r l v).callFaults = w.callFaults := rfl
@[simp] theorem Warp.wr_feedCur (w : Warp) (r l : Nat) (v : Word) : (w.wr r l v).feedCur = w.feedCur := rfl
@[simp] theorem Warp.wr_copySeq (w : Warp) (r l : Nat) (v : Word) : (w.wr r l v).copySeq = w.copySeq := rfl
@[simp] theorem Warp.wr_batchFaults (w : Warp) (r l : Nat) (v : Word) : (w.wr r l v).batchFaults = w.batchFaults := rfl
@[simp] theorem Warp.wr_exitAt (w : Warp) (r l : Nat) (v : Word) : (w.wr r l v).exitAt = w.exitAt := rfl
@[simp] theorem Warp.wr_copyDone (w : Warp) (r l : Nat) (v : Word) : (w.wr r l v).copyDone = w.copyDone := rfl
@[simp] theorem Warp.wr_collSeq (w : Warp) (r l : Nat) (v : Word) : (w.wr r l v).collSeq = w.collSeq := rfl
@[simp] theorem Warp.wr_stkBase (w : Warp) (r l : Nat) (v : Word) : (w.wr r l v).stkBase = w.stkBase := rfl
@[simp] theorem Warp.wr_stkCap (w : Warp) (r l : Nat) (v : Word) : (w.wr r l v).stkCap = w.stkCap := rfl
@[simp] theorem Warp.wr_stkDepth (w : Warp) (r l : Nat) (v : Word) : (w.wr r l v).stkDepth = w.stkDepth := rfl
@[simp] theorem Warp.wr_stkTop (w : Warp) (r l : Nat) (v : Word) : (w.wr r l v).stkTop = w.stkTop := rfl
@[simp] theorem Warp.wr_stkOvf (w : Warp) (r l : Nat) (v : Word) : (w.wr r l v).stkOvf = w.stkOvf := rfl
@[simp] theorem Warp.wr_binds (w : Warp) (r l : Nat) (v : Word) : (w.wr r l v).binds = w.binds := rfl
@[simp] theorem Warp.wr_rets (w : Warp) (r l : Nat) (v : Word) : (w.wr r l v).rets = w.rets := rfl
@[simp] theorem Warp.wr_sbuf (w : Warp) (r l : Nat) (v : Word) : (w.wr r l v).sbuf = w.sbuf := rfl
@[simp] theorem Warp.wr_frec (w : Warp) (r l : Nat) (v : Word) : (w.wr r l v).frec = w.frec := rfl
@[simp] theorem Warp.wr_halt (w : Warp) (r l : Nat) (v : Word) : (w.wr r l v).halt = w.halt := rfl
@[simp] theorem Warp.wr_regions (w : Warp) (r l : Nat) (v : Word) : (w.wr r l v).regions = w.regions := rfl
@[simp] theorem Warp.wr_arStat (w : Warp) (r l : Nat) (v : Word) : (w.wr r l v).arStat = w.arStat := rfl
@[simp] theorem Warp.wr_arLog (w : Warp) (r l : Nat) (v : Word) : (w.wr r l v).arLog = w.arLog := rfl
@[simp] theorem Warp.wr_pri (w : Warp) (r l : Nat) (v : Word) : (w.wr r l v).pri = w.pri := rfl
@[simp] theorem Warp.wr_busy (w : Warp) (r l : Nat) (v : Word) : (w.wr r l v).busy = w.busy := rfl

/-! ### A predicate is written -/

@[simp] theorem Warp.setPred_slot (w : Warp) (k : PReg) (l : Nat) (b : Bool) : (w.setPred k l b).slot = w.slot := rfl
@[simp] theorem Warp.setPred_alloc (w : Warp) (k : PReg) (l : Nat) (b : Bool) : (w.setPred k l b).alloc = w.alloc := rfl
@[simp] theorem Warp.setPred_present (w : Warp) (k : PReg) (l : Nat) (b : Bool) : (w.setPred k l b).present = w.present := rfl
@[simp] theorem Warp.setPred_exited (w : Warp) (k : PReg) (l : Nat) (b : Bool) : (w.setPred k l b).exited = w.exited := rfl
@[simp] theorem Warp.setPred_splits (w : Warp) (k : PReg) (l : Nat) (b : Bool) : (w.setPred k l b).splits = w.splits := rfl
@[simp] theorem Warp.setPred_dstack (w : Warp) (k : PReg) (l : Nat) (b : Bool) : (w.setPred k l b).dstack = w.dstack := rfl
@[simp] theorem Warp.setPred_regs (w : Warp) (k : PReg) (l : Nat) (b : Bool) : (w.setPred k l b).regs = w.regs := rfl
@[simp] theorem Warp.setPred_xs (w : Warp) (k : PReg) (l : Nat) (b : Bool) : (w.setPred k l b).xs = w.xs := rfl
@[simp] theorem Warp.setPred_fprm (w : Warp) (k : PReg) (l : Nat) (b : Bool) : (w.setPred k l b).fprm = w.fprm := rfl
@[simp] theorem Warp.setPred_fpflags (w : Warp) (k : PReg) (l : Nat) (b : Bool) : (w.setPred k l b).fpflags = w.fpflags := rfl
@[simp] theorem Warp.setPred_fptrap (w : Warp) (k : PReg) (l : Nat) (b : Bool) : (w.setPred k l b).fptrap = w.fptrap := rfl
@[simp] theorem Warp.setPred_wver (w : Warp) (k : PReg) (l : Nat) (b : Bool) : (w.setPred k l b).wver = w.wver := rfl
@[simp] theorem Warp.setPred_cnt (w : Warp) (k : PReg) (l : Nat) (b : Bool) : (w.setPred k l b).cnt = w.cnt := rfl
@[simp] theorem Warp.setPred_ops (w : Warp) (k : PReg) (l : Nat) (b : Bool) : (w.setPred k l b).ops = w.ops := rfl
@[simp] theorem Warp.setPred_calls (w : Warp) (k : PReg) (l : Nat) (b : Bool) : (w.setPred k l b).calls = w.calls := rfl
@[simp] theorem Warp.setPred_callFaults (w : Warp) (k : PReg) (l : Nat) (b : Bool) : (w.setPred k l b).callFaults = w.callFaults := rfl
@[simp] theorem Warp.setPred_feedCur (w : Warp) (k : PReg) (l : Nat) (b : Bool) : (w.setPred k l b).feedCur = w.feedCur := rfl
@[simp] theorem Warp.setPred_copySeq (w : Warp) (k : PReg) (l : Nat) (b : Bool) : (w.setPred k l b).copySeq = w.copySeq := rfl
@[simp] theorem Warp.setPred_batchFaults (w : Warp) (k : PReg) (l : Nat) (b : Bool) : (w.setPred k l b).batchFaults = w.batchFaults := rfl
@[simp] theorem Warp.setPred_exitAt (w : Warp) (k : PReg) (l : Nat) (b : Bool) : (w.setPred k l b).exitAt = w.exitAt := rfl
@[simp] theorem Warp.setPred_copyDone (w : Warp) (k : PReg) (l : Nat) (b : Bool) : (w.setPred k l b).copyDone = w.copyDone := rfl
@[simp] theorem Warp.setPred_collSeq (w : Warp) (k : PReg) (l : Nat) (b : Bool) : (w.setPred k l b).collSeq = w.collSeq := rfl
@[simp] theorem Warp.setPred_stkBase (w : Warp) (k : PReg) (l : Nat) (b : Bool) : (w.setPred k l b).stkBase = w.stkBase := rfl
@[simp] theorem Warp.setPred_stkCap (w : Warp) (k : PReg) (l : Nat) (b : Bool) : (w.setPred k l b).stkCap = w.stkCap := rfl
@[simp] theorem Warp.setPred_stkDepth (w : Warp) (k : PReg) (l : Nat) (b : Bool) : (w.setPred k l b).stkDepth = w.stkDepth := rfl
@[simp] theorem Warp.setPred_stkTop (w : Warp) (k : PReg) (l : Nat) (b : Bool) : (w.setPred k l b).stkTop = w.stkTop := rfl
@[simp] theorem Warp.setPred_stkOvf (w : Warp) (k : PReg) (l : Nat) (b : Bool) : (w.setPred k l b).stkOvf = w.stkOvf := rfl
@[simp] theorem Warp.setPred_binds (w : Warp) (k : PReg) (l : Nat) (b : Bool) : (w.setPred k l b).binds = w.binds := rfl
@[simp] theorem Warp.setPred_rets (w : Warp) (k : PReg) (l : Nat) (b : Bool) : (w.setPred k l b).rets = w.rets := rfl
@[simp] theorem Warp.setPred_sbuf (w : Warp) (k : PReg) (l : Nat) (b : Bool) : (w.setPred k l b).sbuf = w.sbuf := rfl
@[simp] theorem Warp.setPred_frec (w : Warp) (k : PReg) (l : Nat) (b : Bool) : (w.setPred k l b).frec = w.frec := rfl
@[simp] theorem Warp.setPred_halt (w : Warp) (k : PReg) (l : Nat) (b : Bool) : (w.setPred k l b).halt = w.halt := rfl
@[simp] theorem Warp.setPred_regions (w : Warp) (k : PReg) (l : Nat) (b : Bool) : (w.setPred k l b).regions = w.regions := rfl
@[simp] theorem Warp.setPred_arStat (w : Warp) (k : PReg) (l : Nat) (b : Bool) : (w.setPred k l b).arStat = w.arStat := rfl
@[simp] theorem Warp.setPred_arLog (w : Warp) (k : PReg) (l : Nat) (b : Bool) : (w.setPred k l b).arLog = w.arLog := rfl
@[simp] theorem Warp.setPred_pri (w : Warp) (k : PReg) (l : Nat) (b : Bool) : (w.setPred k l b).pri = w.pri := rfl
@[simp] theorem Warp.setPred_rpoison (w : Warp) (k : PReg) (l : Nat) (b : Bool) : (w.setPred k l b).rpoison = w.rpoison := rfl
@[simp] theorem Warp.setPred_busy (w : Warp) (k : PReg) (l : Nat) (b : Bool) : (w.setPred k l b).busy = w.busy := rfl

/-! ### An index register is written -/

@[simp] theorem Warp.setIx_slot (w : Warp) (x l : Nat) (v : Word) : (w.setIx x l v).slot = w.slot := rfl
@[simp] theorem Warp.setIx_alloc (w : Warp) (x l : Nat) (v : Word) : (w.setIx x l v).alloc = w.alloc := rfl
@[simp] theorem Warp.setIx_present (w : Warp) (x l : Nat) (v : Word) : (w.setIx x l v).present = w.present := rfl
@[simp] theorem Warp.setIx_exited (w : Warp) (x l : Nat) (v : Word) : (w.setIx x l v).exited = w.exited := rfl
@[simp] theorem Warp.setIx_splits (w : Warp) (x l : Nat) (v : Word) : (w.setIx x l v).splits = w.splits := rfl
@[simp] theorem Warp.setIx_dstack (w : Warp) (x l : Nat) (v : Word) : (w.setIx x l v).dstack = w.dstack := rfl
@[simp] theorem Warp.setIx_regs (w : Warp) (x l : Nat) (v : Word) : (w.setIx x l v).regs = w.regs := rfl
@[simp] theorem Warp.setIx_preds (w : Warp) (x l : Nat) (v : Word) : (w.setIx x l v).preds = w.preds := rfl
@[simp] theorem Warp.setIx_fprm (w : Warp) (x l : Nat) (v : Word) : (w.setIx x l v).fprm = w.fprm := rfl
@[simp] theorem Warp.setIx_fpflags (w : Warp) (x l : Nat) (v : Word) : (w.setIx x l v).fpflags = w.fpflags := rfl
@[simp] theorem Warp.setIx_fptrap (w : Warp) (x l : Nat) (v : Word) : (w.setIx x l v).fptrap = w.fptrap := rfl
@[simp] theorem Warp.setIx_wver (w : Warp) (x l : Nat) (v : Word) : (w.setIx x l v).wver = w.wver := rfl
@[simp] theorem Warp.setIx_cnt (w : Warp) (x l : Nat) (v : Word) : (w.setIx x l v).cnt = w.cnt := rfl
@[simp] theorem Warp.setIx_ops (w : Warp) (x l : Nat) (v : Word) : (w.setIx x l v).ops = w.ops := rfl
@[simp] theorem Warp.setIx_calls (w : Warp) (x l : Nat) (v : Word) : (w.setIx x l v).calls = w.calls := rfl
@[simp] theorem Warp.setIx_callFaults (w : Warp) (x l : Nat) (v : Word) : (w.setIx x l v).callFaults = w.callFaults := rfl
@[simp] theorem Warp.setIx_feedCur (w : Warp) (x l : Nat) (v : Word) : (w.setIx x l v).feedCur = w.feedCur := rfl
@[simp] theorem Warp.setIx_copySeq (w : Warp) (x l : Nat) (v : Word) : (w.setIx x l v).copySeq = w.copySeq := rfl
@[simp] theorem Warp.setIx_batchFaults (w : Warp) (x l : Nat) (v : Word) : (w.setIx x l v).batchFaults = w.batchFaults := rfl
@[simp] theorem Warp.setIx_exitAt (w : Warp) (x l : Nat) (v : Word) : (w.setIx x l v).exitAt = w.exitAt := rfl
@[simp] theorem Warp.setIx_copyDone (w : Warp) (x l : Nat) (v : Word) : (w.setIx x l v).copyDone = w.copyDone := rfl
@[simp] theorem Warp.setIx_collSeq (w : Warp) (x l : Nat) (v : Word) : (w.setIx x l v).collSeq = w.collSeq := rfl
@[simp] theorem Warp.setIx_stkBase (w : Warp) (x l : Nat) (v : Word) : (w.setIx x l v).stkBase = w.stkBase := rfl
@[simp] theorem Warp.setIx_stkCap (w : Warp) (x l : Nat) (v : Word) : (w.setIx x l v).stkCap = w.stkCap := rfl
@[simp] theorem Warp.setIx_stkDepth (w : Warp) (x l : Nat) (v : Word) : (w.setIx x l v).stkDepth = w.stkDepth := rfl
@[simp] theorem Warp.setIx_stkTop (w : Warp) (x l : Nat) (v : Word) : (w.setIx x l v).stkTop = w.stkTop := rfl
@[simp] theorem Warp.setIx_stkOvf (w : Warp) (x l : Nat) (v : Word) : (w.setIx x l v).stkOvf = w.stkOvf := rfl
@[simp] theorem Warp.setIx_binds (w : Warp) (x l : Nat) (v : Word) : (w.setIx x l v).binds = w.binds := rfl
@[simp] theorem Warp.setIx_rets (w : Warp) (x l : Nat) (v : Word) : (w.setIx x l v).rets = w.rets := rfl
@[simp] theorem Warp.setIx_sbuf (w : Warp) (x l : Nat) (v : Word) : (w.setIx x l v).sbuf = w.sbuf := rfl
@[simp] theorem Warp.setIx_frec (w : Warp) (x l : Nat) (v : Word) : (w.setIx x l v).frec = w.frec := rfl
@[simp] theorem Warp.setIx_halt (w : Warp) (x l : Nat) (v : Word) : (w.setIx x l v).halt = w.halt := rfl
@[simp] theorem Warp.setIx_regions (w : Warp) (x l : Nat) (v : Word) : (w.setIx x l v).regions = w.regions := rfl
@[simp] theorem Warp.setIx_arStat (w : Warp) (x l : Nat) (v : Word) : (w.setIx x l v).arStat = w.arStat := rfl
@[simp] theorem Warp.setIx_arLog (w : Warp) (x l : Nat) (v : Word) : (w.setIx x l v).arLog = w.arLog := rfl
@[simp] theorem Warp.setIx_pri (w : Warp) (x l : Nat) (v : Word) : (w.setIx x l v).pri = w.pri := rfl
@[simp] theorem Warp.setIx_rpoison (w : Warp) (x l : Nat) (v : Word) : (w.setIx x l v).rpoison = w.rpoison := rfl
@[simp] theorem Warp.setIx_busy (w : Warp) (x l : Nat) (v : Word) : (w.setIx x l v).busy = w.busy := rfl

/-! ### A byte of scratchpad is written -/

@[simp] theorem Block.setSp_launch (b : Block) (o : Nat) (v : Byte) : (b.setSp o v).launch = b.launch := rfl
@[simp] theorem Block.setSp_index (b : Block) (o : Nat) (v : Byte) : (b.setSp o v).index = b.index := rfl
@[simp] theorem Block.setSp_bx (b : Block) (o : Nat) (v : Byte) : (b.setSp o v).bx = b.bx := rfl
@[simp] theorem Block.setSp_by_ (b : Block) (o : Nat) (v : Byte) : (b.setSp o v).by_ = b.by_ := rfl
@[simp] theorem Block.setSp_bz (b : Block) (o : Nat) (v : Byte) : (b.setSp o v).bz = b.bz := rfl
@[simp] theorem Block.setSp_cpos (b : Block) (o : Nat) (v : Byte) : (b.setSp o v).cpos = b.cpos := rfl
@[simp] theorem Block.setSp_cluster (b : Block) (o : Nat) (v : Byte) : (b.setSp o v).cluster = b.cluster := rfl
@[simp] theorem Block.setSp_clusterSize (b : Block) (o : Nat) (v : Byte) : (b.setSp o v).clusterSize = b.clusterSize := rfl
@[simp] theorem Block.setSp_ctx (b : Block) (o : Nat) (v : Byte) : (b.setSp o v).ctx = b.ctx := rfl
@[simp] theorem Block.setSp_carve (b : Block) (o : Nat) (v : Byte) : (b.setSp o v).carve = b.carve := rfl
@[simp] theorem Block.setSp_warps (b : Block) (o : Nat) (v : Byte) : (b.setSp o v).warps = b.warps := rfl
@[simp] theorem Block.setSp_spSize (b : Block) (o : Nat) (v : Byte) : (b.setSp o v).spSize = b.spSize := rfl
@[simp] theorem Block.setSp_spPoison (b : Block) (o : Nat) (v : Byte) : (b.setSp o v).spPoison = b.spPoison := rfl
@[simp] theorem Block.setSp_bars (b : Block) (o : Nat) (v : Byte) : (b.setSp o v).bars = b.bars := rfl
@[simp] theorem Block.setSp_feed (b : Block) (o : Nat) (v : Byte) : (b.setSp o v).feed = b.feed := rfl
@[simp] theorem Block.setSp_feedBase (b : Block) (o : Nat) (v : Byte) : (b.setSp o v).feedBase = b.feedBase := rfl
@[simp] theorem Block.setSp_armEnded (b : Block) (o : Nat) (v : Byte) : (b.setSp o v).armEnded = b.armEnded := rfl
@[simp] theorem Block.setSp_stash (b : Block) (o : Nat) (v : Byte) : (b.setSp o v).stash = b.stash := rfl
@[simp] theorem Block.setSp_prod (b : Block) (o : Nat) (v : Byte) : (b.setSp o v).prod = b.prod := rfl
@[simp] theorem Block.setSp_mode (b : Block) (o : Nat) (v : Byte) : (b.setSp o v).mode = b.mode := rfl
@[simp] theorem Block.setSp_trapped (b : Block) (o : Nat) (v : Byte) : (b.setSp o v).trapped = b.trapped := rfl
@[simp] theorem Block.setSp_lastIssue (b : Block) (o : Nat) (v : Byte) : (b.setSp o v).lastIssue = b.lastIssue := rfl
@[simp] theorem Block.setSp_paused (b : Block) (o : Nat) (v : Byte) : (b.setSp o v).paused = b.paused := rfl
@[simp] theorem Block.setSp_stuck (b : Block) (o : Nat) (v : Byte) : (b.setSp o v).stuck = b.stuck := rfl

/-! ## Reading after writing -/

@[simp] theorem Pkg.core_setCore (p : Pkg) (c : Nat) (k : Core) : (p.setCore c k).core c = k := by
  simp [Pkg.core, Pkg.setCore, KMap.getD]

theorem Pkg.core_setCore_ne (p : Pkg) {c d : Nat} (h : d ≠ c) (k : Core) : (p.setCore c k).core d = p.core d := by
  simp [Pkg.core, Pkg.setCore, KMap.getD, KMap.find?_insert_ne h]

@[simp] theorem Pkg.core_modCore (p : Pkg) (c : Nat) (f : Core → Core) : (p.modCore c f).core c = f (p.core c) := by
  simp [Pkg.modCore]

theorem Pkg.core_modCore_ne (p : Pkg) {c d : Nat} (h : d ≠ c) (f : Core → Core) :
    (p.modCore c f).core d = p.core d := by simp [Pkg.modCore, Pkg.core_setCore_ne p h]

@[simp] theorem Pkg.modCore_modCore (p : Pkg) (c : Nat) (f g : Core → Core) :
    (p.modCore c f).modCore c g = p.modCore c (fun k => g (f k)) := by
  simp [Pkg.modCore, Pkg.setCore, Pkg.core, KMap.getD]

@[simp] theorem Pkg.modBlock_modBlock (p : Pkg) (c b : Nat) (f g : Block → Block) :
    (p.modBlock c b f).modBlock c b g = p.modBlock c b (fun x => g (f x)) := by
  simp [Pkg.modBlock]

@[simp] theorem Pkg.modWarp_modWarp (p : Pkg) (c b w : Nat) (f g : Warp → Warp) :
    (p.modWarp c b w f).modWarp c b w g = p.modWarp c b w (fun x => g (f x)) := by
  simp [Pkg.modWarp]

@[simp] theorem Pkg.block?_modBlock (p : Pkg) (c b : Nat) (f : Block → Block) :
    (p.modBlock c b f).block? c b = (p.block? c b).map f := by
  simp [Pkg.modBlock, Pkg.block?]

@[simp] theorem Pkg.block?_modWarp (p : Pkg) (c b w : Nat) (f : Warp → Warp) :
    (p.modWarp c b w f).block? c b =
      (p.block? c b).map (fun bl => { bl with warps := bl.warps.modify w f }) := by
  simp [Pkg.modWarp]

@[simp] theorem Pkg.warp?_modWarp (p : Pkg) (c b w : Nat) (f : Warp → Warp) :
    (p.modWarp c b w f).warp? c b w = (p.warp? c b w).map f := by
  simp only [Pkg.warp?, Pkg.block?_modWarp]
  cases p.block? c b <;> simp

@[simp] theorem Pkg.byte_setByte (p : Pkg) (a : Nat) (b : Byte) : (p.setByte a b).byte a = b := by
  simp [Pkg.byte, Pkg.setByte]

theorem Pkg.byte_setByte_ne (p : Pkg) {a c : Nat} (h : c ≠ a) (b : Byte) : (p.setByte a b).byte c = p.byte c := by
  simp [Pkg.byte, Pkg.setByte, KMap.getD_setD_ne h]

@[simp] theorem Block.spByte_setSp (b : Block) (o : Nat) (v : Byte) : (b.setSp o v).spByte o = v := by
  simp [Block.spByte, Block.setSp]

theorem Block.spByte_setSp_ne (b : Block) {o j : Nat} (h : j ≠ o) (v : Byte) : (b.setSp o v).spByte j = b.spByte j := by
  simp [Block.spByte, Block.setSp, KMap.getD_setD_ne h]

/-- A register that was written reads as it was written, and every other register as before. -/
theorem Warp.rd_wr (w : Warp) (r l : Nat) (v : Word) (r' l' : Nat) :
    (w.wr r l v).rd r' l' = if 32 * r' + l' = 32 * r + l then v else w.rd r' l' := by
  unfold Warp.rd Warp.wr
  split
  · rename_i h; simp [h]
  · rename_i h; exact KMap.getD_setD_ne h _ _ _ _

end Sys2Proof.Machine
end

