-- ==== Sys2Proof/Laws/Memory.lean ====
section
/-!
SUPPORT. Package memory: every operation that writes it keeps its canonical form, and a byte read after a write.
-/

namespace Sys2Proof.Machine

/-- The memory of the package is in its canonical form. -/
def Pkg.Canonical (p : Pkg) : Prop := Memory.wf p.mem = true

theorem Pkg.Canonical.of_mem {p q : Pkg} (h : p.Canonical) (e : q.mem = p.mem) : q.Canonical := by
  unfold Pkg.Canonical at *; rw [e]; exact h

/-- What every step of a fold keeps, the fold keeps. -/
theorem foldl_canonical {α : Type} (f : Pkg → α → Pkg) (h : ∀ p x, p.Canonical → (f p x).Canonical) (l : List α) :
    ∀ p : Pkg, p.Canonical → (l.foldl f p).Canonical := by
  induction l with
  | nil => exact fun _ hp => hp
  | cons x t ih => exact fun p hp => ih _ (h p x hp)

theorem reset_canonical : State.reset.pkg.Canonical := rfl

theorem Pkg.modCore_canonical {p : Pkg} (h : p.Canonical) (c : Nat) (f : Core → Core) : (p.modCore c f).Canonical := h

theorem Pkg.modBlock_canonical {p : Pkg} (h : p.Canonical) (c b : Nat) (f : Block → Block) :
    (p.modBlock c b f).Canonical := h

/-! ### Bytes -/

theorem Pkg.setByte_canonical {p : Pkg} (h : p.Canonical) (a : Nat) (b : Byte) : (p.setByte a b).Canonical :=
  KMap.canon_setD h a b

theorem Pkg.writeMem_canonical (bs : List Byte) : ∀ {p : Pkg} (_ : p.Canonical) (a : Nat), (p.writeMem a bs).Canonical := by
  induction bs with
  | nil => exact fun h _ => h
  | cons b t ih => exact fun h a => ih (Pkg.setByte_canonical h a b) (a + 1)

/-- A byte outside the bytes written reads as before. -/
theorem Pkg.byte_writeMem_outside (bs : List Byte) : ∀ (p : Pkg) (a x : Nat), ¬(a ≤ x ∧ x < a + bs.length) →
    (p.writeMem a bs).byte x = p.byte x := by
  induction bs with
  | nil => exact fun _ _ _ _ => rfl
  | cons b t ih =>
    intro p a x h
    simp only [List.length_cons] at h
    rw [Pkg.writeMem, ih _ _ _ (by omega), Pkg.byte_setByte_ne _ (by omega)]

/-- A byte that was written reads as it was written. -/
theorem Pkg.byte_writeMem_inside (bs : List Byte) : ∀ (p : Pkg) (a k : Nat), k < bs.length →
    (p.writeMem a bs).byte (a + k) = bs.getD k 0 := by
  induction bs with
  | nil => intro _ _ k h; simp at h
  | cons b t ih =>
    intro p a k h
    cases k with
    | zero =>
      rw [Pkg.writeMem, Pkg.byte_writeMem_outside _ _ _ _ (by omega)]
      simp
    | succ k =>
      rw [Pkg.writeMem, show a + (k + 1) = (a + 1) + k by omega, ih _ _ _ (by simpa using h)]
      simp

/-! ### The directory does not touch memory -/

@[simp] theorem Pkg.dirRoom_mem (p : Pkg) (d l : Nat) : (p.dirRoom d l).mem = p.mem := by
  unfold Pkg.dirRoom
  dsimp only
  split
  · rfl
  · split <;> rfl

@[simp] theorem Pkg.dirRead_mem (p : Pkg) (d a : Nat) : (p.dirRead d a).mem = p.mem := by
  rw [← Pkg.dirRoom_mem p d (a / 256)]
  unfold Pkg.dirRead
  dsimp only
  split
  · rfl
  · split <;> rfl

@[simp] theorem Pkg.dirWrite_mem (p : Pkg) (d a : Nat) : (p.dirWrite d a).mem = p.mem := Pkg.dirRoom_mem p d (a / 256)

/-! ### Stash windows -/

theorem Pkg.stashWriteBack_canonical {p : Pkg} (h : p.Canonical) (c b id sec : Nat) :
    (p.stashWriteBack c b id sec).Canonical := by
  unfold Pkg.stashWriteBack
  split
  · exact h
  · rename_i bl _
    split
    · exact h
    · rename_i st _
      split
      · exact Pkg.modBlock_canonical (Pkg.writeMem_canonical _ h _) c b _
      · exact h

theorem Pkg.recallStash_canonical {p : Pkg} (h : p.Canonical) (line : Nat) (wr : Bool) :
    (p.recallStash line wr).Canonical :=
  foldl_canonical _ (fun p x hp => by
    have := Pkg.stashWriteBack_canonical hp x.1 x.2.1 x.2.2.1 x.2.2.2
    dsimp only
    split
    · exact this.of_mem (by simp [Pkg.stashDrop])
    · exact this) _ _ h

/-! ### L1 -/

theorem Pkg.l1Flush_canonical {p : Pkg} (h : p.Canonical) (c : Nat) (sel : Nat → Bool) : (p.l1Flush c sel).Canonical := by
  have := foldl_canonical
    (fun p (e : Nat × Byte) => ((p.recallStash (e.1 / 256) true).setByte e.1 e.2).dirWrite (dieOfCore c) e.1)
    (fun p e hp => (Pkg.setByte_canonical (Pkg.recallStash_canonical hp (e.1 / 256) true) e.1 e.2).of_mem (by simp))
    (List.filter (fun e => sel e.1) (p.core c).l1.dirty) p h
  exact this.of_mem rfl

theorem Pkg.l1WriteBack_canonical {p : Pkg} (h : p.Canonical) (c : Nat) : (p.l1WriteBack c).Canonical :=
  Pkg.l1Flush_canonical h c _

theorem Pkg.l1WriteBackLine_canonical {p : Pkg} (h : p.Canonical) (c line : Nat) : (p.l1WriteBackLine c line).Canonical :=
  Pkg.l1Flush_canonical h c _

theorem Pkg.l1Evict_canonical {p : Pkg} (h : p.Canonical) (c line : Nat) : (p.l1Evict c line).Canonical :=
  (Pkg.l1WriteBackLine_canonical h c line).of_mem (by simp [Pkg.l1Evict, Pkg.l1InvalidateLine])

theorem Pkg.l1Alloc_canonical {p : Pkg} (h : p.Canonical) (c : Nat) (pol : Policy) (line : Nat) :
    (p.l1Alloc c pol line).Canonical := by
  unfold Pkg.l1Alloc
  refine Pkg.modCore_canonical ?_ c _
  dsimp only
  split
  · exact h
  · split
    · exact h
    · split
      · exact Pkg.l1Evict_canonical h _ _
      · exact h

theorem Pkg.l1Fill_canonical {p : Pkg} (h : p.Canonical) (c : Nat) (pol : Policy) (a : Nat) :
    (p.l1Fill c pol a).Canonical :=
  (Pkg.recallStash_canonical (Pkg.l1Alloc_canonical h c pol (a / 256)) (a / 256) false).of_mem (by simp [Pkg.l1Fill])

/-- A load keeps the form, and so does a store (04 R89-R90). -/
theorem Pkg.load_canonical {p : Pkg} (h : p.Canonical) (c : Nat) (pol : Policy) (a n : Nat) :
    (p.load c pol a n).1.Canonical := by
  unfold Pkg.load
  split
  · exact (Pkg.recallStash_canonical (Pkg.l1Flush_canonical h c (fun x => x / 64 == a / 64)) (a / 256) false).of_mem (by simp)
  · dsimp only; split
    · exact h
    · exact (Pkg.recallStash_canonical h (a / 256) false).of_mem (by simp)
  · dsimp only; split
    · exact Pkg.l1Alloc_canonical h _ _ _
    · exact Pkg.l1Fill_canonical h _ _ _

theorem Pkg.store_canonical {p : Pkg} (h : p.Canonical) (c : Nat) (pol : Policy) (a : Nat) (vs : List Byte) :
    (p.store c pol a vs).Canonical := by
  have low : ∀ q : Pkg, q.Canonical →
      (((q.recallStash (a / 256) true).dirWrite (dieOfCore c) a).writeMem a vs).Canonical := fun q hq =>
    Pkg.writeMem_canonical vs ((Pkg.recallStash_canonical hq (a / 256) true).of_mem (by simp)) a
  cases pol with
  | l2 => exact (low _ (Pkg.l1Flush_canonical h c (fun x => x / 64 == a / 64))).of_mem rfl
  | noalloc => exact (low _ h).of_mem rfl
  | default => exact (Pkg.l1Alloc_canonical h c .default (a / 256)).of_mem rfl
  | stream => exact (Pkg.l1Alloc_canonical h c .stream (a / 256)).of_mem rfl
  | keep => exact (Pkg.l1Alloc_canonical h c .keep (a / 256)).of_mem rfl

theorem Pkg.toL2_canonical {p : Pkg} (h : p.Canonical) (c a : Nat) (wr : Bool) : (p.toL2 c a wr).Canonical := by
  have := Pkg.recallStash_canonical ((Pkg.l1WriteBackLine_canonical h c (a / 256)).of_mem
    (q := (p.l1WriteBackLine c (a / 256)).l1InvalidateLine c (a / 256)) rfl) (a / 256) wr
  unfold Pkg.toL2; dsimp only
  split
  · exact this.of_mem (by simp)
  · exact this.of_mem (by simp)

/-! ### Engines and frames -/

theorem Pkg.engineStore_canonical {p : Pkg} (h : p.Canonical) (a : Nat) (bs : List Byte) : (p.engineStore a bs).Canonical :=
  Pkg.writeMem_canonical bs ((Pkg.recallStash_canonical h (a / 256) true).of_mem
    (q := { p.recallStash (a / 256) true with dir := KMap.erase (a / 256) (p.recallStash (a / 256) true).dir }) rfl) a

theorem Pkg.poisonSector_mem (p : Pkg) (x : Nat) : (p.poisonSector x).mem = p.mem := by
  unfold Pkg.poisonSector; split <;> rfl

theorem Pkg.poisonSector_canonical {p : Pkg} (h : p.Canonical) (x : Nat) : (p.poisonSector x).Canonical :=
  h.of_mem (p.poisonSector_mem x)

theorem Pkg.copyFrame_canonical {p : Pkg} (h : p.Canonical) (src dst : Nat) : (p.copyFrame src dst).Canonical := by
  have fold : ∀ (l : List (Nat × Byte)) (m : KMap Byte), m.canon 0 = true →
      (l.foldl (fun m e => KMap.setD m e.1 e.2 0) m).canon 0 = true := by
    intro l
    induction l with
    | nil => exact fun _ h => h
    | cons e t ih => exact fun m hm => ih _ (KMap.canon_setD hm e.1 e.2)
  have sectors : ∀ (l : List Nat) (q : Pkg), q.Canonical → (l.foldl Pkg.poisonSector q).Canonical := by
    intro l
    induction l with
    | nil => exact fun _ h => h
    | cons x t ih => exact fun q hq => ih _ (Pkg.poisonSector_canonical hq x)
  exact sectors _ _ (fold _ _ (KMap.canon_filter _ h))

end Sys2Proof.Machine
end

