-- ==== Sys2Proof/Laws/Events.lean ====
section
/-!
SUPPORT. What keeping an overflow table does (13 R318): it writes memory through the engine's store and changes no event,
no queue and no launch, and memory keeps its canonical form.
-/

namespace Sys2Proof.Machine

/-- What an engine's store leaves as it is, besides memory, the directory and stash windows. -/
def Pkg.Beside (p q : Pkg) : Prop :=
  q.events = p.events ∧ q.queues = p.queues ∧ q.launches = p.launches ∧ q.fwq = p.fwq ∧ q.ptime = p.ptime ∧
    q.tick = p.tick ∧ q.link = p.link ∧ q.liveHigh = p.liveHigh ∧ q.nextId = p.nextId

theorem Pkg.Beside.refl (p : Pkg) : Pkg.Beside p p := ⟨rfl, rfl, rfl, rfl, rfl, rfl, rfl, rfl, rfl⟩

theorem Pkg.Beside.trans {p q r : Pkg} (h : Pkg.Beside p q) (k : Pkg.Beside q r) : Pkg.Beside p r := by
  obtain ⟨h1, h2, h3, h4, h5, h6, h7, h8, h9⟩ := h
  obtain ⟨k1, k2, k3, k4, k5, k6, k7, k8, k9⟩ := k
  exact ⟨k1.trans h1, k2.trans h2, k3.trans h3, k4.trans h4, k5.trans h5, k6.trans h6, k7.trans h7, k8.trans h8, k9.trans h9⟩

theorem foldl_beside {α : Type} (f : Pkg → α → Pkg) (h : ∀ p x, Pkg.Beside p (f p x)) (l : List α) :
    ∀ p, Pkg.Beside p (l.foldl f p) := by
  induction l with
  | nil => exact Pkg.Beside.refl
  | cons x t ih => exact fun p => (h p x).trans (ih _)

theorem Pkg.modBlock_beside (p : Pkg) (c b : Nat) (f : Block → Block) : Pkg.Beside p (p.modBlock c b f) :=
  ⟨rfl, rfl, rfl, rfl, rfl, rfl, rfl, rfl, rfl⟩

theorem Pkg.writeMem_beside (bs : List Byte) : ∀ (p : Pkg) (a : Nat), Pkg.Beside p (p.writeMem a bs) := by
  induction bs with
  | nil => exact fun p _ => Pkg.Beside.refl p
  | cons b t ih =>
    intro p a
    have h : Pkg.Beside p (p.setByte a b) := ⟨rfl, rfl, rfl, rfl, rfl, rfl, rfl, rfl, rfl⟩
    exact h.trans (ih _ _)

theorem Pkg.stashWriteBack_beside (p : Pkg) (c b id sec : Nat) : Pkg.Beside p (p.stashWriteBack c b id sec) := by
  unfold Pkg.stashWriteBack
  split
  · exact Pkg.Beside.refl p
  · split
    · exact Pkg.Beside.refl p
    · split
      · exact (Pkg.writeMem_beside _ p _).trans (Pkg.modBlock_beside _ _ _ _)
      · exact Pkg.Beside.refl p

theorem Pkg.engineStore_beside (p : Pkg) (a : Nat) (bs : List Byte) : Pkg.Beside p (p.engineStore a bs) := by
  have h : Pkg.Beside p (p.recallStash (a / 256) true) := by
    unfold Pkg.recallStash
    refine foldl_beside _ (fun p x => ?_) _ _
    dsimp only
    exact (Pkg.stashWriteBack_beside p _ _ _ _).trans (Pkg.modBlock_beside _ _ _ _)
  have k : Pkg.Beside (p.recallStash (a / 256) true)
      { p.recallStash (a / 256) true with dir := KMap.erase (a / 256) (p.recallStash (a / 256) true).dir } :=
    ⟨rfl, rfl, rfl, rfl, rfl, rfl, rfl, rfl, rfl⟩
  exact (h.trans k).trans (Pkg.writeMem_beside bs _ a)

theorem Pkg.storeBytes_beside (p : Pkg) (pa : Nat) (bs : List Byte) : Pkg.Beside p (p.storeBytes pa bs) := by
  unfold Pkg.storeBytes
  refine foldl_beside _ (fun p b => ?_) _ _
  split
  · exact Pkg.engineStore_beside p _ _
  · exact Pkg.Beside.refl p

/-- Writing an overflow table changes no event. -/
theorem Pkg.writeOverflow_beside (p o : Pkg) (ctx : Ctx) : Pkg.Beside p (p.writeOverflow o ctx) := by
  unfold Pkg.writeOverflow
  dsimp only
  split
  · exact Pkg.Beside.refl p
  · exact foldl_beside _ (fun q _ => Pkg.storeBytes_beside q _ _) _ _

theorem Pkg.syncOverflow_beside (p o : Pkg) : Pkg.Beside p (p.syncOverflow o) := by
  unfold Pkg.syncOverflow
  exact foldl_beside _ (fun q _ => Pkg.writeOverflow_beside q _ _) _ _

/-- Where an address space has no entries before and after, its table is not written. -/
theorem Pkg.writeOverflow_of_eq {p o : Pkg} {ctx : Ctx} (h : p.overflowEntries ctx.asid = o.overflowEntries ctx.asid) :
    p.writeOverflow o ctx = p := by
  unfold Pkg.writeOverflow
  dsimp only
  rw [if_pos (Or.inr h)]

theorem Pkg.storeBytes_canonical {p : Pkg} (h : p.Canonical) (pa : Nat) (bs : List Byte) : (p.storeBytes pa bs).Canonical :=
  foldl_canonical _ (fun p b hp => by
    split
    · exact Pkg.engineStore_canonical hp _ _
    · exact hp) _ _ h

theorem Pkg.writeOverflow_canonical {p : Pkg} (h : p.Canonical) (o : Pkg) (ctx : Ctx) : (p.writeOverflow o ctx).Canonical := by
  unfold Pkg.writeOverflow
  dsimp only
  split
  · exact h
  · exact foldl_canonical _ (fun q _ hq => Pkg.storeBytes_canonical hq _ _) _ _ h

end Sys2Proof.Machine
end

