-- ==== Sys2Proof/Laws/Issue.lean ====
section
/-!
SUPPORT. What an instruction does whose checks pass: `perform` once, the lane forms once, and the state that they
leave. Every claim about such an instruction rests on these and on its own result.
-/

namespace Sys2Proof.Claim

open Sys2Proof.Machine

/-- The instruction as its meaning sees it. -/
def envAt (s : State) (i : Issuer) (w : Warp) (f : Form) (z : Option Wait) : Env :=
  { is := i, arm := i.w == armNo, exec := (w.split i.sp).mask, on := acts w i f.guard, act := acts w i f.guard, pc := (w.split i.sp).pc
    npc := nextPc w i, lit := litOf w i, off := offOf w i, md := (w.split i.sp).pfx.md, sq := 0, qv := []
    resume := z, orig := s.pkg }

/-- The same for an instruction that is issued. -/
abbrev envOf (s : State) (i : Issuer) (w : Warp) (f : Form) : Env := envAt s i w f none

/-! ## Lists -/

theorem modify_congr {α : Type} {l : List α} {k : Nat} {f g : α → α} (h : ∀ x, l[k]? = some x → f x = g x) :
    l.modify k f = l.modify k g := by
  apply List.ext_getElem?
  intro j
  simp only [List.getElem?_modify]
  split
  · rename_i hj; subst hj
    cases hx : l[k]? with
    | none => rfl
    | some x => simp [h x hx]
  · rfl

theorem modify_comp {α : Type} (l : List α) (k : Nat) (f g : α → α) :
    (l.modify k f).modify k g = l.modify k (fun x => g (f x)) := by
  apply List.ext_getElem?
  intro j
  simp only [List.getElem?_modify]
  split <;> simp [Function.comp_def]

theorem split_of_getElem? {w : Warp} {k : Nat} {x : Split} (h : w.splits[k]? = some x) : w.split k = x := by
  simp [Warp.split, h]

theorem find?_warps {p : Pkg} {c b n : Nat} {w : Warp} (h : p.warp? c b n = some w) :
    ∃ bl, p.block? c b = some bl ∧ bl.warps.find? n = some w := by
  unfold Pkg.warp? at h
  split at h
  · exact ⟨_, by assumption, h⟩
  · cases h

theorem modBlock_congr {p : Pkg} {c b : Nat} {f g : Block → Block} {bl : Block} (h : p.block? c b = some bl)
    (e : f bl = g bl) : p.modBlock c b f = p.modBlock c b g := by
  unfold Pkg.block? at h
  unfold Pkg.modBlock Pkg.modCore
  dsimp only
  rw [KMap.modify_of_find? h, KMap.modify_of_find? h, e]

theorem modWarp_const {p : Pkg} {c b n : Nat} {w : Warp} (h : p.warp? c b n = some w) (f : Warp → Warp) :
    p.modWarp c b n f = p.modWarp c b n (fun _ => f w) := by
  obtain ⟨bl, hb, hw⟩ := find?_warps h
  refine modBlock_congr hb ?_
  simp [KMap.modify, hw]

/-! ## Performing -/

theorem minus_zero (m : Mask) : Mask.minus m 0 = m := by
  unfold Mask.minus
  have h : ~~~(0 : Mask) = BitVec.allOnes 32 := by decide
  rw [h, BitVec.and_allOnes]

/-- The wait keeps nothing that was read and no words to push: the form's own meaning goes on with it. -/
def Plain (z : Option Wait) : Prop := ∀ x, z = some x → x.took = none ∧ ∀ q, x.kind ≠ .push q

theorem plain_none : Plain none := fun _ h => by cases h

/-- A form that names no queue reads none. -/
theorem readQueues_of_noQueue {f : Form} (h : f.namesQ = false) : f.readQueues = [] := by
  unfold Form.namesQ at h
  rw [List.any_eq_false] at h
  unfold Form.readQueues
  rw [List.filterMap_eq_nil_iff.2]
  · rfl
  · intro o ho
    have := h o ho
    split <;> simp_all

/-- `perform` on an instruction whose checks pass. -/
theorem perform_of_issues {s : State} {i : Issuer} {w : Warp} {f : Form} {z : Option Wait} (h : IssuesAt s i w f z)
    (hz : Plain z) (body : Env → Pkg → Res) :
    perform f body s =
      let r := body (envAt s i w f z) s.pkg
      let r' : Res := { r with faults := sortBy (fun a b => decide (a.lane ≤ b.lane)) r.faults }
      .next { s with pkg := Pkg.traceDiverge ((envAt s i w f z).finish (w.split i.sp).pfx.hint r') s.pkg i } := by
  have hmask : (w.split i.sp).mask ≠ 0 := by
    intro h0; apply h.lanes; unfold acts; rw [h0]; simp
  have hbad : (lanesOf (acts w i f.guard)).filterMap
      (fun l => (f.laneFault w l).map (fun c => LFault.of l c)) = [] := by
    rw [List.filterMap_eq_nil_iff]
    intro l hl
    have : (acts w i f.guard).getLsbD l = true := by
      unfold lanesOf at hl; exact (List.mem_filter.1 hl).2
    simp [h.regs l this]
  have hbusy : ((lanesOf (acts w i f.guard)).any
      (fun l => (f.regsOf w l).any (fun r => w.busy.contains (32 * r + l)))) = false := by
    rw [List.any_eq_false]
    intro l hl
    have hb : (acts w i f.guard).getLsbD l = true := by
      unfold lanesOf at hl; exact (List.mem_filter.1 hl).2
    simp only [List.any_eq_true, List.contains_iff_mem, not_exists, not_and]
    exact h.idle l hb
  have hq : f.queues.any (fun q => (w.bind? q).isNone) = false := by
    rw [List.any_eq_false]
    intro q hm
    unfold Form.queues at hm
    rw [List.mem_dedup, List.mem_filterMap] at hm
    obtain ⟨o, ho, he⟩ := hm
    have hf := h.noQueue
    unfold Form.namesQ at hf
    rw [List.any_eq_false] at hf
    have := hf o ho
    split at he <;> simp_all
  have hin : ((envAt s i w f z).inHandler s.pkg && (!f.handler || f.namesSq || f.namesQ)) = false := by
    have hm := h.mode
    rw [h.noQueue, h.noFeed] at hm ⊢
    unfold mayRun at hm
    unfold Env.inHandler Env.block envAt
    cases hb : s.pkg.block? i.core i.slot with
    | none => simp
    | some b =>
      simp only [hb] at hm
      rcases hm with hm | hm
      · simp at hm; simp [hm]
      · cases hb : b.mode <;> simp_all
  unfold perform
  simp only [h.cur, h.here, hmask, if_false]
  congr 3
  unfold Pkg.issue
  simp only [h.here, h.legal]
  have hact : acts w i f.guard = (w.split i.sp).mask &&& w.guardMask f.guard := rfl
  simp only [← hact, h.lanes, if_false]
  have e0 : ({ is := i, arm := i.w == armNo, exec := (w.split i.sp).mask, on := acts w i f.guard, act := acts w i f.guard, pc := (w.split i.sp).pc
               npc := (w.split i.sp).pc + BitVec.ofNat 64 (4 * ((w.split i.sp).pfx.words + 1))
               lit := (w.split i.sp).pfx.lit.getD 0, off := (w.split i.sp).pfx.off.getD 0, md := (w.split i.sp).pfx.md
               sq := 0, qv := [], resume := (w.split i.sp).wait, orig := s.pkg } : Env) = envAt s i w f z := by
    simp [envAt, h.waits, nextPc, litOf, offOf]
  simp only [e0]
  have hl : (envAt s i w f z).lanes = lanesOf (acts w i f.guard) := rfl
  have htr : ((w.split i.sp).pend.isSome && f.ends (w.split i.sp).cstack.length && w.onlyReady i.sp) = false := by
    rcases h.noTrap with e | e | e <;> simp [e]
  simp only [htr, hl, h.preds, Bool.false_or, hbusy, hin, h.noRegion, List.isEmpty_nil, if_true, Bool.false_eq_true, if_false]
  unfold Pkg.performLanes
  simp only [hl, hbad, List.map_nil, hq, Bool.false_eq_true, if_false, List.nil_append]
  have h0 : maskOfList [] = 0 := rfl
  have hact' : (envAt s i w f z).act = acts w i f.guard := rfl
  simp only [h0, hact', minus_zero, h.lanes, if_false]
  have hr : (envAt s i w f z).resume = z := rfl
  have hrd : ∀ e : Env, e.resume = z → s.pkg.performRead f body e = body e s.pkg := by
    intro e he
    unfold Pkg.performRead
    have : e.resume.bind Wait.took = none := by
      rw [he]
      cases z with
      | none => rfl
      | some x => exact (hz x rfl).1
    rw [this]
    simp [h.noFeed, readQueues_of_noQueue h.noQueue]
  have key := hrd (envAt s i w f z) hr
  unfold envAt at key
  simp only [envAt, key]
  split
  · rename_i q m r ws t
    exact absurd rfl ((hz _ rfl).2 q)
  · rfl

theorem modify_st {l : List Split} {k : Nat} {g : Split → Split}
    (hg : ∀ x, l[k]? = some x → ((g x).st != .free) = (x.st != .free)) :
    ((l.modify k g).filter (fun x => x.st != .free)).length = (l.filter (fun x => x.st != .free)).length := by
  induction l generalizing k with
  | nil => cases k <;> rfl
  | cons a t ih =>
    cases k with
    | zero =>
      have := hg a rfl
      simp only [List.modify_zero_cons, List.filter_cons, this]
      split <;> simp
    | succ k =>
      simp only [List.modify_succ_cons, List.filter_cons]
      split <;> simp [ih (fun x hx => hg x (by simpa using hx))]

/-- The entry of the issuing split after an answer, before its time of issue is set. -/
def entryAfter (npc : DWord) (nx : Next) (mid : Bool) (x : Split) : Split :=
  match nx with
  | .seq => x.advance npc mid
  | .jump t => x.advance t false
  | .block y => { x with st := .blocked, wait := some y }
  | .park y => { x with st := .parked, wait := some y }
  | _ => x

/-- What an instruction leaves when it is issued, or goes on after a wait. -/
def leaveAt (z : Option Wait) (s : State) (p : Pkg) (i : Issuer) (v : Warp) : State :=
  match z with
  | none => leave s p i v
  | some _ => leaveWait s p i v

/-- The state that `finish` and the trace leave of an instruction with no fault: its split is changed by `g`, which
keeps it in use, and its hint is applied. -/
theorem finish_with {s : State} {i : Issuer} {w v : Warp} {f : Form} {z : Option Wait} (h : IssuesAt s i w f z) {p : Pkg}
    (hp : p.warp? i.core i.slot i.w = some v) (hv : v.split i.sp = w.split i.sp) (hn : v.entries ≤ w.entries)
    (nx : Next) (g : Split → Split)
    (hx : ∀ mid, entryAfter (nextPc w i) nx mid (v.split i.sp) = g (v.split i.sp))
    (hs : nx ≠ .stall) (hf : (g (v.split i.sp)).st ≠ .free)
    (hpend : nx = .seq ∨ (∃ t, nx = .jump t) ∨ nx = .own ∨ (v.split i.sp).pend = none)
    (hz : z = none ∨ (g (v.split i.sp)).st = .ready ∨ (g (v.split i.sp)).st = .parked)
    (hgp : (g (v.split i.sp)).pend = (v.split i.sp).pend) :
    ({ s with pkg := Pkg.traceDiverge ((envAt s i w f z).finish (w.split i.sp).pfx.hint ⟨p, [], nx⟩) s.pkg i } : State)
      = leaveAt z s p i (hinted i v (fun x => { g x with since := p.ptime, passed := 0 })) := by
  obtain ⟨bl, hb, hw⟩ := find?_warps hp
  have hrd := h.ready
  have hst := h.noStep
  rw [← hv] at hrd hst
  generalize hV : hinted i v (fun x => { g x with since := p.ptime, passed := 0 }) = V
  have hVe : V.entries = v.entries := by
    subst hV
    unfold Warp.entries hinted
    dsimp only
    congr 1
    apply modify_st
    intro x hx
    have hs := split_of_getElem? hx
    rw [hs] at hf hrd
    have e1 : ((g x).st != .free) = true := by simpa using hf
    have e2 : (x.st != .free) = true := by rw [hrd]; rfl
    cases v.split i.sp |>.pfx.hint with
    | none => exact e1.trans e2.symm
    | some y => cases hy : y.yld <;> simp only [Option.any, hy, if_true, Bool.false_eq_true, if_false] <;> exact e1.trans e2.symm
  have key : ∀ q : Pkg, q.warp? i.core i.slot i.w = some V → q.traceDiverge s.pkg i = q := by
    intro q hq
    unfold Pkg.traceDiverge
    rw [h.here, hq]
    cases hbq : q.block? i.core i.slot with
    | none => rfl
    | some bq => dsimp only; rw [hVe, if_neg (by omega)]
  have hi : (envAt s i w f z).is = i := rfl
  have hr : (envAt s i w f z).resume = z := rfl
  have hnpc : (envAt s i w f z).npc = nextPc w i := rfl
  let E (mid : Bool) (x : Split) : Split := entryAfter (nextPc w i) nx mid x
  have hE : ∀ mid, E mid (v.split i.sp) = g (v.split i.sp) := hx
  have body : ∀ (mid : Bool) (c : Split → Split),
      (∀ x, x.st = (g (v.split i.sp)).st → c x = { x with since := p.ptime, passed := 0 }) →
      (((v.applyHint i.sp (w.split i.sp).pfx.hint).modSplit i.sp (E mid)).modSplit i.sp c) = V := by
    intro mid c hc
    have hEy : ∀ x : Split, E mid x.yield = (E mid x).yield := by
      intro x
      dsimp only [E, entryAfter]
      cases nx <;> rfl
    subst hV
    unfold Warp.modSplit hinted Warp.applyHint
    rw [hv]
    cases hh : (w.split i.sp).pfx.hint with
    | none =>
      dsimp only
      rw [modify_comp]
      congr 1
      apply modify_congr
      intro x hx
      have hs := split_of_getElem? hx
      have hg := hE mid
      rw [hs] at hg hc
      rw [hc _ (by rw [hg]), hg]
      rfl
    | some y =>
      obtain ⟨prv, pri, likely, yld⟩ := y
      dsimp only [Warp.modSplit]
      cases prv <;> cases yld <;>
        simp only [if_true, Bool.false_eq_true, if_false, modify_comp] <;>
      · congr 1
        apply modify_congr
        intro x hx
        have hs := split_of_getElem? hx
        have hg := hE mid
        rw [hs] at hg hc
        first
        | (rw [hc _ (by rw [hg]), hg]; rfl)
        | (rw [hEy, hc _ (by rw [hg]; rfl), hg]; rfl)
  have hstop : ∀ q : Pkg, q.stepOver (envAt s i w f z).orig i = q := by
    intro q
    unfold Pkg.stepOver
    have ho : (envAt s i w f z).orig = s.pkg := rfl
    rw [ho, h.here]
    have := h.noStep
    split
    · rename_i hw _ _
      cases hw
      simp [h.noStep]
    · rfl
  have fin : ∀ mid : Bool,
      ((envAt s i w f z).issued ((envAt s i w f z).modWarp p (fun w' =>
        (w'.applyHint i.sp (w.split i.sp).pfx.hint).modSplit i.sp (E mid)))).stepOver (envAt s i w f z).orig i =
      (leaveAt z s p i V).pkg := by
    intro mid
    rw [hstop]
    unfold Env.issued
    simp only [hr, hi]
    cases z with
    | none =>
      simp only [Env.modWarp, hi, Pkg.modWarp_ptime]
      unfold leaveAt leave Pkg.modWarp
      dsimp only
      rw [Pkg.modBlock_modBlock]
      refine congrArg (Pkg.noteIssue · i) (modBlock_congr hb ?_)
      dsimp only
      rw [KMap.modify_modify]
      simp only [KMap.modify, hw, body mid (fun x => { x with since := p.ptime, passed := 0 }) (fun _ _ => rfl)]
    | some y =>
      simp only [Env.modWarp, hi, Pkg.modWarp_ptime, Pkg.modWarp_modWarp]
      unfold leaveAt leaveWait
      dsimp only
      rw [modWarp_const hp]
      rw [body mid _ (fun x hx => if_neg (by
        rcases hz with hz | hz | hz
        · cases hz
        · simp [hx, hz]
        · simp [hx, hz]))]
  have hq : ∀ q : Pkg, q = (leaveAt z s p i V).pkg →
      q.warp? i.core i.slot i.w = some V := by
    intro q hqe
    subst hqe
    cases z with
    | none => unfold leaveAt leave Pkg.warp?; simp [hb, KMap.modify, hw]
    | some _ => unfold leaveAt leaveWait; simp [hp]
  have goal : ∀ q : Pkg, q = (leaveAt z s p i V).pkg →
      ({ s with pkg := Pkg.traceDiverge q s.pkg i } : State) =
        leaveAt z s p i V := by
    intro q hqe
    rw [key q (hq q hqe)]
    subst hqe
    cases z <;> rfl
  have htrap : ∀ q : Pkg, q = (leaveAt z s p i V).pkg →
      (v.split i.sp).pend = none → q.trapIf i = q := by
    intro q hqe hpn
    unfold Pkg.trapIf
    rw [hq q hqe]
    have : (V.split i.sp).pend = none := by
      subst hV
      unfold Warp.split hinted
      dsimp only
      rw [List.getD_eq_getElem?_getD, List.getElem?_modify]
      simp only [if_true]
      cases hx : v.splits[i.sp]? with
      | none => rfl
      | some x =>
        have hs := split_of_getElem? hx
        rw [hs] at hgp hpn
        simp only [Option.map_eq_map, Option.map_some, Option.getD_some]
        split
        · exact hgp.trans hpn
        · exact hgp.trans hpn
    simp only [this]
  apply goal
  cases nx with
  | stall => exact absurd rfl hs
  | seq => exact fin _
  | jump t => exact fin false
  | own => exact fin false
  | block x =>
    have hpn : (v.split i.sp).pend = none := by
      rcases hpend with h1 | ⟨t, h1⟩ | h1 | h1
      · cases h1
      · cases h1
      · cases h1
      · exact h1
    exact (htrap _ (fin false) hpn).trans (fin false)
  | park x =>
    have hpn : (v.split i.sp).pend = none := by
      rcases hpend with h1 | ⟨t, h1⟩ | h1 | h1
      · cases h1
      · cases h1
      · cases h1
      · exact h1
    exact (htrap _ (fin false) hpn).trans (fin false)

/-- An instruction that completes with no fault. -/
theorem perform_ok {s : State} {i : Issuer} {w v : Warp} {f : Form} {z : Option Wait} (h : IssuesAt s i w f z)
    (hz : Plain z) {body : Env → Pkg → Res} {q : Pkg} (hr : body (envAt s i w f z) s.pkg = Res.ok q)
    (hp : q.warp? i.core i.slot i.w = some v) (hv : v.split i.sp = w.split i.sp) (hn : v.entries ≤ w.entries) :
    perform f body s = .next (leaveAt z s q i (moved i q.ptime (nextPc w i) v)) := by
  rw [perform_of_issues h hz body, hr]
  have hrd := h.ready
  have hst := h.noStep
  rw [← hv] at hrd hst
  refine congrArg _ (finish_with h hp hv hn .seq
    (fun x => { x with pc := nextPc w i, pfx := Pfx.none, held := none, wait := none, noBreak := false }) ?_
    (by simp) (by simp [hrd]) (.inl rfl) (.inr (.inl hrd)) rfl)
  intro mid
  simp only [entryAfter, Split.advance, hst, Bool.false_and, Bool.false_eq_true, if_false, hrd]
  rfl

/-- An instruction that completes with a jump. -/
theorem perform_jump {s : State} {i : Issuer} {w v : Warp} {f : Form} {z : Option Wait} (h : IssuesAt s i w f z)
    (hz : Plain z) {body : Env → Pkg → Res} {q : Pkg} {t : DWord} (hr : body (envAt s i w f z) s.pkg = ⟨q, [], .jump t⟩)
    (hp : q.warp? i.core i.slot i.w = some v) (hv : v.split i.sp = w.split i.sp) (hn : v.entries ≤ w.entries) :
    perform f body s = .next (leaveAt z s q i (moved i q.ptime t v)) := by
  rw [perform_of_issues h hz body, hr]
  have hrd := h.ready
  have hst := h.noStep
  rw [← hv] at hrd hst
  refine congrArg _ (finish_with h hp hv hn (.jump t)
    (fun x => { x with pc := t, pfx := Pfx.none, held := none, wait := none, noBreak := false }) ?_
    (by simp) (by simp [hrd]) (.inr (.inl ⟨t, rfl⟩)) (.inr (.inl hrd)) rfl)
  intro mid
  simp only [entryAfter, Split.advance, hst, Bool.false_and, Bool.false_eq_true, if_false, hrd]
  rfl

/-- An instruction that blocks its split. -/
theorem perform_block {s : State} {i : Issuer} {w v : Warp} {f : Form} (h : Issues s i w f)
    {body : Env → Pkg → Res} {q : Pkg} {y : Wait} (hr : body (envOf s i w f) s.pkg = ⟨q, [], .block y⟩)
    (hp : q.warp? i.core i.slot i.w = some v) (hv : v.split i.sp = w.split i.sp) (hn : v.entries ≤ w.entries)
    (hpend : (w.split i.sp).pend = none) :
    perform f body s = .next (leave s q i (blocked i q.ptime y v)) := by
  rw [perform_of_issues h plain_none body, hr]
  exact congrArg _ (finish_with h hp hv hn (.block y) (fun x => { x with st := .blocked, wait := some y })
    (fun _ => rfl) (by simp) (by simp) (.inr (.inr (.inr (by rw [hv, hpend])))) (.inl rfl) rfl)

/-! ## Writing a destination -/

theorem rd_wrList (w : Warp) (r l : Nat) (vs : List Word) (hl : l < 32) (r' l' : Nat) (hl' : l' < 32) :
    (w.wrList r l vs).rd r' l' =
      if l' = l ∧ r ≤ r' ∧ r' < r + vs.length then vs.getD (r' - r) 0 else w.rd r' l' := by
  induction vs generalizing w r with
  | nil => simp [Warp.wrList]
  | cons v t ih =>
    rw [Warp.wrList, ih, Warp.rd_wr]
    by_cases h1 : l' = l ∧ r + 1 ≤ r' ∧ r' < r + 1 + t.length
    · rw [if_pos h1, if_pos (by simp; omega)]
      have : r' - r = (r' - (r + 1)) + 1 := by omega
      rw [this, List.getD_cons_succ]
    · rw [if_neg h1]
      by_cases h2 : l' = l ∧ r' = r
      · obtain ⟨rfl, rfl⟩ := h2
        simp
      · rw [if_neg (by omega), if_neg (by simp; omega)]

theorem mem_rpoison_wrList (w : Warp) (r l : Nat) (vs : List Word) (x : Nat) :
    x ∈ (w.wrList r l vs).rpoison ↔ x ∈ w.rpoison ∧ ∀ k < vs.length, x ≠ 32 * (r + k) + l := by
  induction vs generalizing w r with
  | nil => simp [Warp.wrList]
  | cons v t ih =>
    rw [Warp.wrList, ih]
    have : x ∈ (w.wr r l v).rpoison ↔ x ∈ w.rpoison ∧ x ≠ 32 * r + l := by
      simp [Warp.wr]
    rw [this]
    constructor
    · rintro ⟨⟨a, b⟩, c⟩
      refine ⟨a, fun k hk => ?_⟩
      cases k with
      | zero => simpa using b
      | succ k => have := c k (by simpa using hk); omega
    · rintro ⟨a, c⟩
      refine ⟨⟨a, by simpa using c 0 (by simp)⟩, fun k hk => ?_⟩
      have := c (k + 1) (by simpa using hk); omega

theorem wrList_rest (w : Warp) (r l : Nat) (vs : List Word) :
    w.wrList r l vs = { w with regs := (w.wrList r l vs).regs, rpoison := (w.wrList r l vs).rpoison } := by
  induction vs generalizing w r with
  | nil => rfl
  | cons v t ih => rw [Warp.wrList, ih]; rfl

/-- A lane's words written to the destination it names. -/
def wrDst (w : Warp) (d : Operand) (l : Nat) (vs : List Word) : Warp :=
  match w.regOf d l with | some b => w.wrList b l vs | none => w

/-- The words of some lanes written one lane after another. -/
def wrDsts (w : Warp) (d : Operand) (vals : List (Nat × List Word)) : Warp :=
  vals.foldl (fun w x => wrDst w d x.1 x.2) w

theorem wrDst_rest (w : Warp) (d : Operand) (l : Nat) (vs : List Word) :
    wrDst w d l vs = { w with regs := (wrDst w d l vs).regs, rpoison := (wrDst w d l vs).rpoison } := by
  unfold wrDst
  split
  · exact wrList_rest ..
  · rfl

theorem regOf_of_xs {w w' : Warp} (h : w'.xs = w.xs) (d : Operand) (l : Nat) : w'.regOf d l = w.regOf d l := by
  unfold Warp.regOf
  cases d <;> simp [Warp.ix, h]

theorem wrDst_xs (w : Warp) (d : Operand) (l : Nat) (vs : List Word) : (wrDst w d l vs).xs = w.xs := by
  rw [wrDst_rest]

theorem wrDsts_rest (w : Warp) (d : Operand) (vals : List (Nat × List Word)) :
    wrDsts w d vals = { w with regs := (wrDsts w d vals).regs, rpoison := (wrDsts w d vals).rpoison } := by
  unfold wrDsts
  induction vals generalizing w with
  | nil => rfl
  | cons x t ih =>
    rw [List.foldl_cons, ih]
    generalize List.foldl _ (wrDst w d x.1 x.2) t = u
    rw [wrDst_rest]

/-- Registers after the words of lanes `ls` have been written. -/
theorem rd_wrDsts (w : Warp) (d : Operand) (n : Nat) (val : Nat → List Word) (ls : List Nat)
    (hls : ∀ l ∈ ls, l < 32) (hv : ∀ l, (val l).length = n) (l : Nat) (hl : l < 32) (r : Nat) :
    (wrDsts w d (ls.map (fun l => (l, val l)))).rd r l =
      match w.regOf d l with
      | some b => if l ∈ ls ∧ b ≤ r ∧ r < b + n then (val l).getD (r - b) 0 else w.rd r l
      | none => w.rd r l := by
  unfold wrDsts
  induction ls generalizing w with
  | nil => cases w.regOf d l <;> simp
  | cons a t ih =>
    rw [List.map_cons, List.foldl_cons, ih _ (fun l h => hls l (List.mem_cons_of_mem _ h)),
      regOf_of_xs (wrDst_xs ..)]
    cases hb : w.regOf d l with
    | none =>
      dsimp only
      unfold wrDst
      split
      · rename_i b hb'
        rw [rd_wrList _ _ _ _ (hls a (List.mem_cons_self ..)) _ _ hl, if_neg]
        rintro ⟨rfl, -⟩
        rw [hb] at hb'; cases hb'
      · rfl
    | some b =>
      dsimp only
      by_cases ht : l ∈ t ∧ b ≤ r ∧ r < b + n
      · rw [if_pos ht, if_pos ⟨List.mem_cons_of_mem _ ht.1, ht.2⟩]
      · rw [if_neg ht]
        unfold wrDst
        split
        · rename_i b' hb'
          rw [rd_wrList _ _ _ _ (hls a (List.mem_cons_self ..)) _ _ hl, hv]
          by_cases ha : l = a
          · subst ha
            rw [hb] at hb'; cases hb'
            simp
          · rw [if_neg (by simp [ha]), if_neg (by simp only [List.mem_cons, ha, false_or]; exact ht)]
        · rename_i hb'
          rw [if_neg]
          rintro ⟨hm, hr⟩
          rcases List.mem_cons.1 hm with rfl | hm
          · rw [hb] at hb'; cases hb'
          · exact ht ⟨hm, hr⟩

theorem mem_rpoison_wrDsts (w : Warp) (d : Operand) (n : Nat) (val : Nat → List Word) (ls : List Nat)
    (hls : ∀ l ∈ ls, l < 32) (hv : ∀ l, (val l).length = n) (l : Nat) (hl : l < 32) (r : Nat) :
    32 * r + l ∈ (wrDsts w d (ls.map (fun l => (l, val l)))).rpoison ↔
      32 * r + l ∈ w.rpoison ∧ ¬ (l ∈ ls ∧ ∃ b, w.regOf d l = some b ∧ b ≤ r ∧ r < b + n) := by
  unfold wrDsts
  induction ls generalizing w with
  | nil => simp
  | cons a t ih =>
    rw [List.map_cons, List.foldl_cons, ih _ (fun l h => hls l (List.mem_cons_of_mem _ h)),
      regOf_of_xs (wrDst_xs ..)]
    have ha := hls a (List.mem_cons_self ..)
    have : 32 * r + l ∈ (wrDst w d a (val a)).rpoison ↔
        32 * r + l ∈ w.rpoison ∧ ¬ (l = a ∧ ∃ b, w.regOf d l = some b ∧ b ≤ r ∧ r < b + n) := by
      unfold wrDst
      split
      · rename_i b hb
        rw [mem_rpoison_wrList, hv]
        refine and_congr_right fun _ => ?_
        constructor
        · rintro h ⟨rfl, b', hb', h1, h2⟩
          rw [hb] at hb'; cases hb'
          exact h (r - b) (by omega) (by omega)
        · rintro h k hk he
          have e1 : l = a := by omega
          subst e1
          exact h ⟨rfl, b, hb, by omega, by omega⟩
      · rename_i hb
        constructor
        · intro h
          refine ⟨h, ?_⟩
          rintro ⟨rfl, b, hb', -⟩
          rw [hb] at hb'; cases hb'
        · exact fun h => h.1
    rw [this, List.mem_cons]
    constructor
    · rintro ⟨⟨h1, h2⟩, h3⟩
      refine ⟨h1, ?_⟩
      rintro ⟨rfl | h, hb⟩
      · exact h2 ⟨rfl, hb⟩
      · exact h3 ⟨h, hb⟩
    · rintro ⟨h1, h2⟩
      exact ⟨⟨h1, fun h => h2 ⟨.inl h.1, h.2⟩⟩, fun h => h2 ⟨.inr h.1, h.2⟩⟩

theorem mem_lanesOf {m : Mask} {l : Nat} : l ∈ lanesOf m ↔ l < 32 ∧ m.getLsbD l = true := by
  simp [lanesOf, allLanes]

/-- The lanes of a mask written: the destination, and nothing else. -/
theorem wrote_wrDsts (w : Warp) (m : Mask) (d : Operand) (n : Nat) (val : Nat → List Word)
    (hv : ∀ l, (val l).length = n) :
    Wrote w (wrDsts w d ((lanesOf m).map (fun l => (l, val l)))) m d n (fun l k => (val l).getD k 0) where
  regs := by
    intro l hl r
    rw [rd_wrDsts w d n val _ (fun l h => (mem_lanesOf.1 h).1) hv l hl r]
    unfold place
    cases w.regOf d l with
    | none => rfl
    | some b =>
      dsimp only
      simp only [mem_lanesOf, hl, true_and]
      split <;> rfl
  poison := by
    intro l hl r
    rw [mem_rpoison_wrDsts w d n val _ (fun l h => (mem_lanesOf.1 h).1) hv l hl r]
    refine and_congr_right fun _ => ?_
    unfold place
    cases w.regOf d l with
    | none => simp
    | some b => simp [mem_lanesOf, hl]
  rest := wrDsts_rest ..

/-- Leaving a package whose issuing warp alone was changed. -/
theorem leave_modWarp (s : State) (p : Pkg) (i : Issuer) (f : Warp → Warp) (x : Warp) :
    leave s (p.modWarp i.core i.slot i.w f) i x = leave s p i x := by
  unfold leave
  rw [Pkg.modWarp_ptime]
  unfold Pkg.modWarp
  rw [Pkg.modBlock_modBlock]
  simp only [KMap.modify_modify]

/-- One package is another with the issuing warp changed to `v`. -/
structure Became (e : Env) (p q : Pkg) (v : Warp) : Prop where
  warp : e.warp q = some v
  time : q.ptime = p.ptime
  same : ∀ s x, leave s q e.is x = leave s p e.is x

theorem Became.modWarp {e : Env} {p q : Pkg} {v : Warp} (h : Became e p q v) (f : Warp → Warp) :
    Became e p (e.modWarp q f) (f v) where
  warp := by
    have := h.warp
    unfold Env.warp at this
    simp [Env.warp, Env.modWarp, this]
  time := by simp [Env.modWarp, h.time]
  same := fun s x => by rw [← h.same s x]; exact leave_modWarp s q e.is f x

theorem Became.writeLane {e : Env} {p q : Pkg} {v : Warp} (h : Became e p q v) (o : Operand) (x : Nat × List Word) :
    Became e p (e.writeLane q o x) (wrDst v o x.1 x.2) := h.modWarp _

theorem Became.writeLanes {e : Env} {p : Pkg} (o : Operand) (vals : List (Nat × List Word)) :
    ∀ {q : Pkg} {v : Warp}, Became e p q v → Became e p (vals.foldl (fun p x => e.writeLane p o x) q) (wrDsts v o vals) := by
  induction vals with
  | nil => exact fun h => h
  | cons x t ih => exact fun h => ih (h.writeLane o x)

/-- A destination that is no register takes nothing. -/
theorem wrDsts_noReg {w : Warp} {d : Operand} (hd : ∀ (v : Warp) l, v.regOf d l = none) (vals : List (Nat × List Word)) :
    wrDsts w d vals = w := by
  unfold wrDsts
  induction vals generalizing w with
  | nil => rfl
  | cons x t ih => rw [List.foldl_cons, ih, wrDst, hd]

/-- Writing to a destination that is no queue completes, and the package is as before but for the warp. -/
theorem writeAll_plain {e : Env} {p q : Pkg} {o : Operand} {v : Warp} (ho : ∀ n, o ≠ .q n) (h : Became e p q v)
    (vals : List (Nat × List Word)) :
    ∃ q', e.writeAll q o vals = Res.ok q' ∧ Became e p q' (wrDsts v o vals) := by
  cases o with
  | q n => exact absurd rfl (ho n)
  | reg n => exact ⟨_, rfl, h.writeLanes _ vals⟩
  | ix x => exact ⟨_, rfl, h.writeLanes _ vals⟩
  | zero | lit | sq => exact ⟨q, rfl, by rw [wrDsts_noReg (fun _ _ => rfl)]; exact h⟩

/-! ## Lane forms -/

theorem envOf_warp {s : State} {i : Issuer} {w : Warp} {f : Form} (h : Issues s i w f) :
    (envOf s i w f).warp s.pkg = some w := h.here

theorem Issues.became {s : State} {i : Issuer} {w : Warp} {f : Form} (h : Issues s i w f) :
    Became (envOf s i w f) s.pkg s.pkg w := ⟨h.here, rfl, fun _ _ => rfl⟩

/-- An instruction that completes with no fault and leaves its warp as `v` and all else as it was. -/
theorem perform_done {s : State} {i : Issuer} {w v : Warp} {f : Form} (h : Issues s i w f)
    {body : Env → Pkg → Res} {q : Pkg} (hr : body (envOf s i w f) s.pkg = Res.ok q)
    (hb : Became (envOf s i w f) s.pkg q v) (hs : v.splits = w.splits) (hd : v.dstack = w.dstack) :
    perform f body s = .next (done s s.pkg i w v) := by
  have hsp : v.split i.sp = w.split i.sp := by unfold Warp.split; rw [hs]
  rw [perform_ok h plain_none hr hb.warp hsp (by unfold Warp.entries; rw [hs, hd])]
  unfold done leaveAt
  rw [hb.time]
  exact congrArg _ (hb.same s _)

theorem wrDsts_splits (w : Warp) (d : Operand) (vals : List (Nat × List Word)) :
    (wrDsts w d vals).splits = w.splits := by rw [wrDsts_rest]

theorem wrDsts_dstack (w : Warp) (d : Operand) (vals : List (Nat × List Word)) :
    (wrDsts w d vals).dstack = w.dstack := by rw [wrDsts_rest]

/-- A form that names no queue names none in a given operand. -/
theorem Issues.noQ {s : State} {i : Issuer} {w : Warp} {f : Form} (h : Issues s i w f) {k : Pos} {o : Operand}
    (ho : (k, o) ∈ f.ops) (n : QReg) : o ≠ .q n := by
  rintro rfl
  have := h.noQueue
  unfold Form.namesQ at this
  rw [List.any_eq_false] at this
  exact this _ ho rfl

/-- A lane form writes the words of its lanes to d, and changes nothing else. -/
theorem laneForm_writes {s : State} {i : Issuer} {w : Warp} {f : Form} (h : Issues s i w f) {k : Pos} {d : Operand}
    (hd : (k, d) ∈ f.ops) {val : Env → Warp → Nat → List Word} {n : Nat}
    (hv : ∀ l, (val (envOf s i w f) w l).length = n) :
    ∃ v, Wrote w v (acts w i f.guard) d n (fun l k => (val (envOf s i w f) w l).getD k 0) ∧
      laneForm f d val s = .next (done s s.pkg i w v) := by
  refine ⟨_, wrote_wrDsts w (acts w i f.guard) d n (val (envOf s i w f) w) hv, ?_⟩
  obtain ⟨q, h1, h2⟩ := writeAll_plain (h.noQ hd) h.became
    ((lanesOf (acts w i f.guard)).map (fun l => (l, val (envOf s i w f) w l)))
  refine perform_done h ?_ h2 (wrDsts_splits ..) (wrDsts_dstack ..)
  simp only [envOf_warp h]
  exact h1

/-! ## Sources -/

theorem rd32_envOf {s : State} {i : Issuer} {w : Warp} {f : Form} (o : Operand) (l : Nat) :
    (envOf s i w f).rd32 w o l = src32 w i o l := by
  cases o <;> rfl

theorem rd64_envOf {s : State} {i : Issuer} {w : Warp} {f : Form} (o : Operand) (l : Nat) :
    (envOf s i w f).rd64 w o l = src64 w i o l := by
  cases o <;> rfl

end Sys2Proof.Claim
end

