-- ==== Sys2Proof/Tests/Slice0.lean ====
section
/-!
SUPPORT. Tests: ill-formed instructions, words written out from the encoding tables, small steps with results taken
from the spec, and for every statement a state and operands that meet its hypotheses.
-/

namespace Sys2Proof.Tests

open Sys2Proof.Machine Sys2Proof.Claim

/-! ## States -/

/-- Warp 0, lanes 0 and 1, 64 registers. -/
def w0 : Warp := Warp.fresh 0 64 3 0x1000 0

/-- The armature's context: one lane. -/
def arm0 : Warp := Warp.fresh 0 64 1 0x1000 0

def ctx0 : Ctx := ⟨0, 1, 0, 0, 0⟩
def i0 : Issuer := ⟨0, 0, 0, 0⟩
def iArm : Issuer := ⟨0, 0, 32, 0⟩

/-- A block of one warp and an armature, of launch 0. -/
def b0 (w a : Warp) : Block := Block.fresh 0 0 0 0 0 0 0 1 ctx0 0 65536 0 [(0, w), (32, a)]

/-- The package with that block in slot 0 of core 0. -/
def p0 (b : Block) (ln : Launch) : Pkg :=
  { Pkg.reset with cores := [(0, { Core.reset with blocks := [(0, b)] })], launches := [(0, ln)] }

def ln0 : Launch := { Launch.fresh [] 0 none none 0 0 ctx0 0 with st := .resident, placed := 1 }

/-- Warp `w` issues. -/
def st (w : Warp) : State := { State.reset with pkg := p0 (b0 w arm0) ln0, cur := some i0 }

/-- The armature issues. -/
def sa (w : Warp) : State := { State.reset with pkg := p0 (b0 w0 w) ln0, cur := some iArm }

/-- The checks of `Comes`, computed. -/
def comesB (s : State) (i : Issuer) (w : Warp) (f : Form) (z : Option Wait) : Bool :=
  s.cur == some i && s.pkg.warp? i.core i.slot i.w == some w && acts w i f.guard != 0 &&
  f.decodeFault (i.w == armNo) (w.split i.sp).pfx == none && w.busy.isEmpty && !w.predsBusy (w.split i.sp).mask &&
  (match s.pkg.block? i.core i.slot with | some b => b.mode == .running | none => true) &&
  (w.split i.sp).st == .ready && (w.split i.sp).wait == z && !(w.split i.sp).stepping && (w.split i.sp).pend == none

theorem comes_of {s : State} {i : Issuer} {w : Warp} {f : Form} {z : Option Wait} (h : comesB s i w f z = true) :
    Comes s i w f z := by
  simp only [comesB, Bool.and_eq_true, beq_iff_eq, bne_iff_ne, ne_eq, List.isEmpty_iff, Bool.not_eq_true'] at h
  obtain ⟨⟨⟨⟨⟨⟨⟨⟨⟨⟨h1, h2⟩, h3⟩, h4⟩, h5⟩, hp⟩, h6⟩, h7⟩, h8⟩, h9⟩, h10⟩ := h
  refine ⟨h1, h2, h3, h4, ?_, hp, ?_, h7, h8, h9, .inl h10⟩
  · intro l _ r _; rw [h5]; simp
  · cases hb : s.pkg.block? i.core i.slot with
    | none => trivial
    | some b =>
      rw [hb] at h6
      right; intro o k hm
      simp [hm] at h6

/-- The checks of `Checked`, computed. -/
def issuesB (s : State) (i : Issuer) (w : Warp) (f : Form) (z : Option Wait) : Bool :=
  comesB s i w f z && w.regions.isEmpty &&
  (List.range 32).all (fun l => !(acts w i f.guard).getLsbD l || f.laneFault w l == none)

theorem checked_of {s : State} {i : Issuer} {w : Warp} {f : Form} {z : Option Wait} (h : issuesB s i w f z = true) :
    Checked s i w f z := by
  simp only [issuesB, Bool.and_eq_true, List.isEmpty_iff, List.all_eq_true, List.mem_range, Bool.or_eq_true,
    beq_iff_eq] at h
  refine ⟨⟨comes_of h.1.1, h.1.2⟩, fun l hl => ?_⟩
  have := h.2 l (BitVec.lt_of_getLsbD hl)
  simpa [hl] using this

theorem issues_of {s : State} {i : Issuer} {w : Warp} {f : Form} {z : Option Wait} (h : issuesB s i w f z = true)
    (hq : f.namesQ = false) (hs : f.namesSq = false) : IssuesAt s i w f z := ⟨checked_of h, hq, hs⟩

/-- Operands. -/
def r (n : Nat) (h : n < 112 := by decide) : Operand := .reg ⟨n, h⟩

/-! ## States and operands that meet the hypotheses of the statements -/

/-- Registers of the lanes, under key 32 r + l. -/
def wr (l : List (Nat × Word)) : Warp := { w0 with regs := l }

/-- Index register x0 of both lanes names v4, with all registers of the warp allowed. -/
def wx : Warp := { w0 with xs := [(0, 0x20010000), (1, 0x20010000)] }

/-- The split holds the literal 5. -/
def wl : Warp := { w0 with splits := [{ Split.free with mask := 3, st := .ready, pc := 0x1000, pfx := { Pfx.none with lit := some 5, words := 1 } }, Split.free, Split.free, Split.free] }

theorem witness_IntegerArithmetic :
    Issues (st w0) i0 w0 (Form.wa .always [(.dst .w32, r 0), (.src .w32, r 1), (.src .w32, r 2)]) ∧
    Issues (st wx) i0 wx (Form.wa .always [(.dst .w32, .ix 0), (.src .w32, .ix 0), (.src .w32, .zero)]) ∧
    Issues (st wl) i0 wl (Form.wa .always [(.upd .w32, r 0), (.src .w32, r 0), (.src .w32, .lit)]) ∧
    Issues (st w0) i0 w0 (Form.wa .always [(.dst .w64, r 62), (.src .w32, r 1), (.src .w32, r 63)]) ∧
    Issues (st w0) i0 w0 (Form.wa .always [(.dst .w64, .zero), (.src .w64, r 2), (.src .w64, r 2)]) ∧
    Issues (st w0) i0 w0 (Form.wa .always [(.dst .w32, r 3), (.src .w32, r 3)]) ∧
    Issues (st w0) i0 w0 (Form.wa .always [(.dst .w32, r 63)]) :=
  by refine ⟨?_, ?_, ?_, ?_, ?_, ?_, ?_⟩
     all_goals exact issues_of (by decide) rfl rfl

theorem witness_IntegerUnary :
    Issues (st w0) i0 w0 (Form.wa .always [(.dst .w32, r 0), (.src .w32, r 1)]) ∧
    Issues (st w0) i0 w0 (Form.wa .always [(.dst .w64, r 0), (.src .w64, r 2)]) ∧
    Issues (st w0) i0 w0 (Form.wa .always [(.dst .w32, r 1), (.src .w64, r 2)]) :=
  by refine ⟨?_, ?_, ?_⟩ <;> exact issues_of (by decide) rfl rfl

theorem witness_LaneExchange_VotesAndReductions :
    Issues (st w0) i0 w0 (Form.w .always [(.dst .w32, r 0), (.src .w32, r 0), (.src .w32, r 2)]) ∧
    Issues (st w0) i0 w0 (Form.w .always [(.dst .w32, r 0), (.src .w32, r 1)]) ∧
    Issues (st w0) i0 w0 (Form.w .always [(.dst .w32, r 0)]) :=
  by refine ⟨?_, ?_, ?_⟩ <;> exact issues_of (by decide) rfl rfl

theorem witness_IndexRegisters :
    Issues (st w0) i0 w0 (Form.w .always [(.src .w32, r 0)]) ∧ Issues (st w0) i0 w0 (Form.w .always [(.dst .w32, r 63)]) :=
  ⟨issues_of (by decide) rfl rfl, issues_of (by decide) rfl rfl⟩

/-- Both executors, with the block and its launch. -/
theorem witness_SpecialRegistersAndPredicates :
    Issues (st w0) i0 w0 (Form.wa .always [(.dst .w32, r 0)]) ∧ Issues (sa arm0) iArm arm0 (Form.wa .always [(.dst .w32, r 63)]) ∧
    Issues (sa arm0) iArm arm0 (Form.wa .always [(.src .w32, r 0)]) ∧
    (sa arm0).pkg.block? 0 0 = some (b0 w0 arm0) ∧ (sa arm0).pkg.launch? 0 = some ln0 ∧
    Issues (st w0) i0 w0 (Form.wa .always [(.dst .w64, r 62)]) ∧ Issues (st w0) i0 w0 (Form.wa .always []) :=
  ⟨issues_of (by decide) rfl rfl, issues_of (by decide) rfl rfl, issues_of (by decide) rfl rfl, by decide, by decide,
    issues_of (by decide) rfl rfl, issues_of (by decide) rfl rfl⟩

/-- A compare of signalling NaNs with no trap enabled. -/
theorem witness_Compares : Issues (st w0) i0 w0 (Form.wa .always [(.src .w32, r 0), (.src .w32, r 1)]) ∧
    Issues (st w0) i0 w0 (Form.wa .always [(.src .w64, r 0), (.src .w64, r 2)]) ∧
    (let w := wr [(32, 0x7F800001)]
     Issues (st w) i0 w (Form.w .always [(.src .w32, r 1), (.src .w32, r 1)]) ∧ w.fptrap.getLsbD 4 = false) ∧
    Issues (st w0) i0 w0 (Form.w .always [(.src .w64, r 0), (.src .w64, r 2)]) :=
  ⟨issues_of (by decide) rfl rfl, issues_of (by decide) rfl rfl, ⟨issues_of (by decide) rfl rfl, by decide⟩,
    issues_of (by decide) rfl rfl⟩

theorem witness_FloatingArithmetic :
    Issues (st w0) i0 w0 { Form.w .always [(.dst .w64, r 0), (.src .w64, r 2), (.src .w64, r 4)] with rm := true } ∧
    Issues (st w0) i0 w0 (Form.w .always [(.dst .w32, r 0), (.src .w32, r 2), (.src .w32, r 4)]) ∧
    Issues (st w0) i0 w0 { Form.w .always [(.upd .w32, r 0), (.src .w32, r 2), (.src .w32, r 4)] with rm := true } ∧
    Issues (st w0) i0 w0 { Form.w .always [(.dst .w64, r 0), (.src .w64, r 2)] with rm := true } :=
  by refine ⟨?_, ?_, ?_, ?_⟩ <;> exact issues_of (by decide) rfl rfl

/-- With a `pfx.mod` that names a rounding mode and saturation. -/
theorem witness_ConversionsAndNarrow :
    (let w : Warp := { w0 with splits := [{ Split.free with mask := 3, st := .ready, pc := 0x1000, pfx := { Pfx.none with md := some ⟨none, true, none, some .rd⟩, words := 1 } }, Split.free, Split.free, Split.free] }
     Issues (st w) i0 w { Form.w .always [(.dst .w32, r 0), (.src .w32, r 2)] with rm := true, sat := true }) ∧
    Issues (st w0) i0 w0 { Form.w .always [(.upd .w32, r 0), (.src .w32, r 2), (.src .w32, r 3)] with rm := true } :=
  ⟨issues_of (by decide) rfl rfl, issues_of (by decide) rfl rfl⟩

/-- 1.0 of FP32 is a value; one third of an ulp above it is not, and does not overflow. -/
theorem witness_RepresentableIsExact_RoundingIsCorrect : f32.decode 0x3F800000 = .fin false 8388608 (-23) ∧
    (f32.round .ieee .rne false 25165825 (-24) false).2 &&& flagOF = 0 := by decide

/-- Lane 0 adds a signalling NaN with FPTRAP.NV set, lane 1 does not. -/
theorem witness_FloatTrapDeferred :
    let w : Warp := { wr [(32, 0x7F800001)] with fptrap := 16 }
    Issues (st w) i0 w { Form.w .always [(.dst .w32, r 0), (.src .w32, r 1), (.src .w32, r 2)] with rm := true } ∧
    (f32.add .rne (f32.decode 0x7F800001) (f32.decode 0)).2 = 16 ∧ (f32.add .rne (f32.decode 0) (f32.decode 0)).2 = 0 ∧
    (w.split 0).mask = 3 ∧ (w.split 0).pend = none :=
  ⟨issues_of (by decide) rfl rfl, by decide, by decide, by decide, by decide⟩

/-- Both lanes, or lane 0 alone, take a branch; a call stack with one address. -/
theorem witness_DirectBranches : Issues (st w0) i0 w0 (Form.wa .always []) ∧ acts w0 i0 .always = (w0.split 0).mask ∧
    (let w : Warp := { w0 with preds := Vector.replicate 7 1, splits := [{ Split.free with mask := 3, st := .ready, pc := 0x1000, cstack := [0x2000] }, Split.free, Split.free, Split.free] }
     Issues (st w) i0 w (Form.wa (.p 0) []) ∧ acts w i0 (.p 0) ≠ (w.split 0).mask ∧
       (w.split 0).cstack = [] ++ [0x2000] ∧ (w.split 0).cstack.length < 8 ∧ hasRoom w ∧ (st w).pkg.traces = []) :=
  ⟨issues_of (by decide) rfl rfl, by decide, issues_of (by decide) rfl rfl, by decide, by decide, by decide,
    .inr (by decide), rfl⟩

/-- Lanes that name one target, and lanes that name two. -/
theorem witness_IndirectBranches :
    (let w := wr [(64, 0x2000), (65, 0x2000)]
     Issues (st w) i0 w (Form.wa .always [(.src .w64, r 2)]) ∧ src64 w i0 (r 2) 0 = 0x2000 ∧ src64 w i0 (r 2) 1 = 0x2000) ∧
    (let w := wr [(64, 0x2000), (65, 0x3000)]
     Issues (st w) i0 w (Form.wa .always [(.src .w64, r 2)]) ∧ src64 w i0 (r 2) 0 = 0x2000 ∧ src64 w i0 (r 2) 1 = 0x3000 ∧
       hasRoom w) :=
  ⟨⟨issues_of (by decide) rfl rfl, by decide, by decide⟩, issues_of (by decide) rfl rfl, by decide, by decide, .inr (by decide)⟩

/-- A sleep that starts, a sleep of 0, and one whose deadline has come. -/
theorem witness_SplitControl : Issues (st w0) i0 w0 (Form.w .always []) ∧ Issues (st w0) i0 w0 (Form.w .always [(.dst .w32, r 0)]) ∧
    (let w := wr [(32, 7)]; Issues (st w) i0 w (Form.wa .always [(.src .w32, r 1)]) ∧ src32 w i0 (r 1) 0 = 7) ∧
    (Issues (st w0) i0 w0 (Form.wa .always [(.src .w32, r 1)]) ∧ src32 w0 i0 (r 1) 0 = 0) ∧
    (let z : Wait := { Wait.of (.sleep 0) with released := true }
     let w : Warp := { w0 with splits := [{ Split.free with mask := 3, st := .ready, pc := 0x1000, wait := some z }, Split.free, Split.free, Split.free] }
     IssuesAt (st w) i0 w (Form.wa .always [(.src .w32, r 1)]) (some z) ∧ z.kind = .sleep 0 ∧ z.took = none ∧
       (0 : DWord).toNat ≤ (st w).pkg.ptime.toNat) ∧
    Issues (st w0) i0 w0 { Form.w .always [] with ends := fun _ => true } ∧ (w0.split 0).pend = none :=
  ⟨issues_of (by decide) rfl rfl, issues_of (by decide) rfl rfl, ⟨issues_of (by decide) rfl rfl, by decide⟩,
    ⟨issues_of (by decide) rfl rfl, by decide⟩, ⟨issues_of (by decide) rfl rfl, rfl, rfl, by decide⟩, issues_of (by decide) rfl rfl, rfl⟩

theorem witness_Exits : EndForm (.exit .always) { Form.wa .always [] with ends := fun _ => true } .always (w0.split 0) ∧
    Issues (st w0) i0 w0 { Form.wa .always [] with ends := fun _ => true } ∧ (b0 w0 arm0).bars = [] ∧ ln0.cbars = [] ∧
    w0.ops = [] ∧ w0.batchFaults = [] ∧ Issues (sa arm0) iArm arm0 { Form.wa .always [] with warp := false } ∧
    acts arm0 iArm .always = arm0.live ∧ acts arm0 iArm .always = (arm0.split 0).mask ∧
    arm0.cnt = Vector.replicate 7 0 ∧ ((sa arm0).pkg.core 0).mx.ops = [] :=
  ⟨.inl ⟨rfl, rfl⟩, issues_of (by decide) rfl rfl, rfl, rfl, rfl, rfl, issues_of (by decide) rfl rfl, by decide, by decide, by decide, by decide⟩

/-- The first arrival of both lanes with expected count 1 completes; with 2 it does not; and a released wait. -/
theorem witness_BlockAndClusterBarriers :
    (let w := wr [(32, 1), (33, 1)]
     Issues (st w) i0 w { Form.wa .always [(.src .w32, r 1)] with handler := false } ∧
     wantOf w i0 3 (r 1) (some 1) ∧ accepts ((b0 w arm0).bar 0) 0 33 3 (some 1) ∧
     (withBar 0 (arriveRule ((b0 w arm0).bar 0) 0 3 (some 1)) (b0 w arm0)).barDone
       (arriveRule ((b0 w arm0).bar 0) 0 3 (some 1)) = true) ∧
    (let w := wr [(32, 2), (33, 2)]
     Issues (st w) i0 w { Form.wa .always [(.src .w32, r 1)] with handler := false } ∧
     wantOf w i0 3 (r 1) (some 2) ∧ accepts ((b0 w arm0).bar 0) 0 33 3 (some 2) ∧
     (withBar 0 (arriveRule ((b0 w arm0).bar 0) 0 3 (some 2)) (b0 w arm0)).barDone
       (arriveRule ((b0 w arm0).bar 0) 0 3 (some 2)) = false ∧ accepts (ln0.cbar 0 0) 0 8 3 (some 2)) ∧
    (let z : Wait := { Wait.of (.bar 0 0) with released := true }
     let w : Warp := { w0 with splits := [{ Split.free with mask := 3, st := .ready, pc := 0x1000, wait := some z }, Split.free, Split.free, Split.free] }
     IssuesAt (st w) i0 w { Form.wa .always [(.src .w32, r 1)] with handler := false } (some z) ∧ z.kind = .bar 0 0 ∧
       z.took = none ∧ z.released = true ∧ Drained (st w) i0) :=
  ⟨⟨issues_of (by decide) rfl rfl, ⟨1, rfl, by decide⟩, ⟨by decide, by simp, .inl rfl⟩, by decide⟩,
    ⟨issues_of (by decide) rfl rfl, ⟨2, rfl, by decide⟩, ⟨by decide, by simp, .inl rfl⟩, by decide, by decide, by simp, .inl rfl⟩,
    issues_of (by decide) rfl rfl, rfl, rfl, rfl, by unfold Drained; decide⟩

/-- Operands of an arrival barrier at offset 0 of the scratchpad: v1 the token, count or bytes, v2 the address. -/
theorem witness_ArrivalBarriers :
    (let w := wr [(32, 1), (33, 1)]
     Issues (st w) i0 w { Form.wa .always [(.src .w32, r 1), (.src .w32, r 2)] with once := true } ∧
     Names (st w) i0 w .always (r 2) 0 0 0 ∧ (src32 w i0 (r 1) (lead w i0 .always)).toNat % 2048 = 1 ∧
     Sound ((st w).pkg.abarAt 0 0 0) ∧ ((st w).pkg.abarAt 0 0 0).valid = false ∧ Drained (st w) i0 ∧
     Issues (st w) i0 w { Form.wa .always [(.dst .w32, r 1), (.src .w32, r 2)] with scv := some 2 } ∧
     Issues (st w) i0 w { Form.wa .always [(.upd .w32, r 1), (.src .w32, r 2)] with scv := some 2 } ∧
     Issues (st w) i0 w { Form.wa .always [(.src .w32, r 2)] with once := true }) ∧
    (let w := wr [(32, 1), (33, 1)]
     let s : State := { st w with pkg := (st w).pkg.setAbar 0 0 0 ⟨false, true, 2, 0, 0, [0, 0, 0, 0, 0, 0, 0, 0], false⟩ }
     Issues s i0 w { Form.wa .always [(.upd .w32, r 1), (.src .w32, r 2)] with scv := some 2 } ∧
     Names s i0 w .always (r 2) 0 0 0 ∧ (s.pkg.abarAt 0 0 0).valid = true ∧ Sound (s.pkg.abarAt 0 0 0) ∧
     (s.pkg.abarAt 0 0 0).arrived + 2 ≤ (s.pkg.abarAt 0 0 0).expected ∧
     (∀ l ∈ lanesOf (acts w i0 .always), token w i0 (r 1) l ≠ (s.pkg.abarAt 0 0 0).phase) ∧
     (∃ l ∈ lanesOf (acts w i0 .always), token w i0 (r 2) l = (s.pkg.abarAt 0 0 0).phase)) ∧
    (let z : Wait := { Wait.of (.abar 0 0) with released := true, data := [1] }
     let w : Warp := { w0 with splits := [{ Split.free with mask := 3, st := .ready, pc := 0x1000, wait := some z }, Split.free, Split.free, Split.free] }
     IssuesAt (st w) i0 w { Form.wa .always [(.upd .w32, r 1), (.src .w32, r 2)] with scv := some 2 } (some z) ∧
       Names (st w) i0 w .always (r 2) 0 0 0 ∧ (∃ q f, z.kind = .abar q f) ∧ z.took = none) :=
  ⟨⟨issues_of (by decide) rfl rfl, ⟨rfl, ⟨_, rfl, rfl, rfl⟩, .inl (by decide)⟩, by decide, by unfold Sound; decide, by decide,
      by unfold Drained; decide, issues_of (by decide) rfl rfl, issues_of (by decide) rfl rfl,
      issues_of (by decide) rfl rfl⟩,
    ⟨issues_of (by decide) rfl rfl, ⟨rfl, ⟨_, rfl, rfl, rfl⟩, .inl (by decide)⟩, by decide, by unfold Sound; decide, by decide, by decide,
      by decide⟩,
    issues_of (by decide) rfl rfl, ⟨rfl, ⟨_, rfl, rfl, rfl⟩, .inl (by decide)⟩, ⟨0, 0, rfl⟩, rfl⟩

/-- The page 0x1000 is translated to itself, and v2:3 of lane l holds 0x1100 + 8 l. -/
def wm : Warp := wr [(32, 0x11223344), (33, 0x55667788), (64, 0x1100), (65, 0x1108)]

def tlb1 : TlbEntry := ⟨1, 1, 4096, 0x1000, false, false, false, true, true⟩

/-- The package of `st` with that translation. -/
def sm (w : Warp) : State := { st w with pkg := { (st w).pkg.modCore 0 (fun k => { k with tlb := [tlb1] }) with
  dir := [(0x11, ⟨some 0, true, [], 0⟩)] } }

theorem witness_LoadsAndStores : let w := wm; let s := sm w
    Fresh s i0 ∧
    Issues s i0 w { Form.wa .always [(.ldst .w32, r 0), (.addr, r 2)] with off := true } ∧ counts w i0 0 ∧ s.pkg.calm = true ∧
    (eachLane (laneLoad i0 w .default .w32 (r 0) (r 2)) (lanesOf (acts w i0 .always)) (numbered s.pkg)).isSome = true ∧
    Issues s i0 w { Form.wa .always [(.src .w32, r 1), (.addr, r 2)] with off := true } ∧ counts w i0 1 ∧
    (eachLane (laneStore i0 w .default .w32 (r 1) (r 2)) (lanesOf (acts w i0 .always)) (numbered s.pkg)).isSome = true ∧
    (eachLane (laneStore i0 w .l2 .w32 (r 1) (r 2)) (lanesOf (acts w i0 .always)) (numbered s.pkg)).isSome = true :=
  ⟨⟨by decide, by decide⟩, issues_of (by decide) rfl rfl, .inr (by decide), by decide, by decide, issues_of (by decide) rfl rfl, .inr (by decide), by decide,
    by decide⟩

theorem witness_StoreEffect : (∀ e ∈ (sm wm).pkg.cores, ∀ f ∈ e.2.blocks, f.2.stash = []) ∧
    (0x113C / 64 = (0x113C + [1, 2, 3, 4].length - 1) / 64) := by decide

theorem witness_Scratchpad : let w := wm; let s := st w
    Issues s i0 w { Form.wa .always [(.ldst .w32, r 0), (.src .w32, r 2)] with off := true } ∧
    Issues s i0 w { Form.wa .always [(.src .w32, r 1), (.src .w32, r 2)] with off := true } ∧
    Issues s i0 w { Form.wa .always [(.atom .w32, r 1), (.src .w32, r 2)] with off := true } ∧
    (eachLane (laneLoadSp i0 w .w32 (r 0) (r 2)) (lanesOf (acts w i0 .always)) s.pkg).isSome = true ∧
    (eachLane (laneStoreSp i0 w .w32 (r 1) (r 2)) (lanesOf (acts w i0 .always)) s.pkg).isSome = true ∧
    (eachLane (laneAtomSp i0 w .addI32 (r 1) (r 2)) (lanesOf (acts w i0 .always)) (released s.pkg 0 false)).isSome = true ∧
    Drained s i0 ∧ NoTile s i0 :=
  ⟨issues_of (by decide) rfl rfl, issues_of (by decide) rfl rfl, issues_of (by decide) rfl rfl, by decide, by decide, by decide,
    by unfold Drained; decide, .inl (by decide)⟩

theorem witness_VersionedLoads : let w := wm; let s := sm w
    Issues s i0 w { Form.w .always [(.dst .w32, r 0), (.addr, r 2), (.src .w32, r 1)] with off := true } ∧ counts w i0 0 ∧ s.pkg.calm = true ∧
    (eachLane (laneVersioned i0 w .w32 none (r 0) (r 2) (r 1)) (lanesOf (acts w i0 .always)) (numbered s.pkg)).isSome = true ∧
    (eachLane (laneVersioned i0 w .w32 (some 6) (r 0) (r 2) (r 1)) (lanesOf (acts w i0 .always)) (numbered s.pkg)).isSome = true :=
  ⟨issues_of (by decide) rfl rfl, .inr (by decide), by decide, by decide, by decide⟩

theorem witness_AtomicsAndOrdered : let w := wm; let s := sm w
    Issues s i0 w { Form.wa .always [(.atom .w32, r 1), (.addr, r 2)] with off := true } ∧ counts w i0 (atomClass (r 1)) ∧
    s.pkg.calm = true ∧ Drained s i0 ∧ Fresh s i0 ∧ lineSet i0 w (r 2) 4 s.pkg (lanesOf (acts w i0 .always)) = [17] ∧
    s.pkg.contended 0 17 = none ∧
    (eachLane (laneAtom i0 w .addI32 (r 1) (r 2)) (lanesOf (acts w i0 .always))
      (released { s.pkg.noWait 0 17 with nextId := s.pkg.nextId + 1 } 0 false)).isSome = true ∧
    (eachLane (laneLoad i0 w .l2 .w32 (r 0) (r 2)) (lanesOf (acts w i0 .always)) ([17].foldl (fun p x => p.l1WriteBackLine 0 x) (numbered s.pkg))).isSome = true ∧
    w.count 0 = 0 ∧ w.count 1 = 0 ∧
    (eachLane (laneStore i0 w .l2 .w32 (r 1) (r 2)) (lanesOf (acts w i0 .always)) (released (numbered s.pkg) 0 true)).isSome = true :=
  ⟨issues_of (by decide) rfl rfl, .inr (by decide), by decide, by unfold Drained; decide, ⟨by decide, by decide⟩, by decide, by decide, by decide,
    by decide, by decide, by decide, by decide⟩

theorem witness_FencesLinesPrefetch : let s := sm wm
    Issues s i0 wm (Form.wa .always []) ∧ Drained s i0 ∧ wm.cnt = Vector.replicate 7 0 ∧ wm.ops = [] ∧
    Issues s i0 wm { Form.wa .always [(.addr, r 2)] with off := true } ∧
    (eachLane (fun l p => (reached p i0 (gAddr wm i0 (r 2) l) 1 .load).map (fun r => r.1)) (lanesOf (acts wm i0 .always))
      (numbered s.pkg)).isSome = true ∧
    (let w : Warp := { w0 with cnt := ((Vector.replicate 7 0).set 6 1) }
     Issues (st w) i0 w (Form.wa .always []) ∧ w.count 6 ≠ 0 ∧ (16 : BitVec 5).getLsbD 4 = true) :=
  ⟨issues_of (by decide) rfl rfl, by unfold Drained; decide, by decide, rfl, issues_of (by decide) rfl rfl, by decide,
    issues_of (by decide) rfl rfl, by decide, by decide⟩

/-- v4:7 of both lanes: a window of one page at virtual address 0x1000 over scratchpad offset 0. -/
def wst : Warp := wr [(128, 0x1000), (129, 0x1000), (224, 0x1000), (225, 0x1000)]

theorem witness_StashWindows : let w := wst; let s := sm w
    Issues s i0 w { onceForm .always [(.dst .w32, r 0), (.src .w128, r 4)] with arm := false } ∧
    s.pkg.block? 0 0 = some (b0 w arm0) ∧ (List.range 8).find? (fun k => ((b0 w arm0).stash.find? k).isNone) = some 0 ∧
    srcWords w i0 4 (r 4) 0 = [0x1000, 0, 0, 0x1000] ∧
    (match s.pkg.stashMap 0 ctx0 0x1000 0 0x1000 with | .ok _ => true | .error _ => false) = true ∧
    (let s1 : State := { s with pkg := s.pkg.modBlock 0 0 (fun b => { b with stash := [(0, ⟨0x1000, 0, 0x1000, [(0, 0x1000)], [], [], [], [], []⟩)] }) }
     Issues s1 i0 w { onceForm .always [(.src .w32, r 0)] with arm := false } ∧
     (s1.pkg.block? 0 0).any (fun b => (b.stash.find? (leadWord w i0 .always (r 0)).toNat).isSome) = true ∧ counts w i0 5) :=
  ⟨issues_of (by decide) rfl rfl, by decide, by decide, by decide, by decide, issues_of (by decide) rfl rfl, by decide, .inr (by decide)⟩

/-- A region of lane 0 that saved v0, whose lane alone is in the split. -/
def rg0 : Region := ⟨0x3000, [(0, 9)], 0, [], [], [], [], [], 0⟩
def wrg : Warp := { Warp.fresh 0 64 1 0x1000 0 with regions := [(0, rg0)] }

theorem witness_AtomicRegions : Issues (st w0) i0 w0 { Form.w .always [] with region := true } ∧
    (st w0).pkg.openRegions 0 + (lanesOf (acts w0 i0 .always)).length ≤ 512 ∧
    Issues (st w0) i0 w0 { Form.w .always [(.dst .w32, r 0)] with region := true } ∧
    Comes (st wrg) i0 wrg { Form.w .always [] with region := true } none ∧
    acts wrg i0 .always = laneBit 0 ∧ (wrg.split 0).mask = laneBit 0 ∧ rg0.saved.sorted = true ∧ rg0.tags = [] ∧
    Placed (st wrg).pkg i0 ∧ Drained (st wrg) i0 ∧
    LocksAtOnce (st wrg) i0 wrg .always (released (st wrg).pkg 0 false) rg0 ∧
    (match tried (st wrg) i0 wrg .always (released (st wrg).pkg 0 false) 0 rg0 with | some (.done _) => true | _ => false) = true ∧
    (let g : Region := { rg0 with cons := [⟨⟨0, 0, 0, true⟩, .eq, .nat, true, 1, true⟩], loads := [⟨0x1000, 0x1000, 4, 0, 0, false, 0⟩] }
     let w : Warp := { wrg with regions := [(0, g)] }
     LocksAtOnce (sm w) i0 w .always (released (sm w).pkg 0 false) g ∧
     (match tried (sm w) i0 w .always (released (sm w).pkg 0 false) 0 g with | some (.abort _ _) => true | _ => false) = true) :=
  ⟨issues_of (by decide) rfl rfl, by decide, issues_of (by decide) rfl rfl, comes_of (by decide), by decide, by decide, by decide, rfl,
    by unfold Placed; decide, by unfold Drained; decide, ⟨by decide, _, _, _, rfl, by decide⟩, by decide, ⟨by decide, _, _, _, rfl, by decide⟩,
    by decide⟩

/-- Queue 0 bound to class 3, with one record of two words for each lane. -/
def wq : Warp := { wr [(128, 0x0200), (129, 0x0200)] with
  binds := [(0, ⟨3, 0, 0, 0⟩)], rets := [(0, [⟨[0x200, 7], 0, 0⟩]), (1, [⟨[0x200, 8], 1, 0⟩])] }

/-- Queue 0 bound, no record. -/
def wqe : Warp := { wr [(128, 0x0200), (129, 0x0200)] with binds := [(0, ⟨3, 0, 0, 0⟩)] }

theorem witness_Queues :
    Issues (st w0) i0 w0 (qForm .always [(.src .w32, r 0)] true) ∧ w0.bind? 0 = none ∧
    Issues (st wqe) i0 wqe (qForm .always [] true) ∧ wqe.bind? 0 ≠ none ∧ wqe.queueBusy 0 = false ∧ wqe.calls = [] ∧ wqe.callFaults = [] ∧
    Issues (st wq) i0 wq (qForm .always [(.dst .w32, r 0)] false) ∧ wq.bind? 0 = some ⟨3, 0, 0, 0⟩ ∧
    Issues (st wqe) i0 wqe { qForm .always [(.call, r 4)] false with nb := true } ∧ wqe.count 3 < 63 ∧
    (eachLane (laneSend i0 wqe 0 0 4) (lanesOf (acts wqe i0 .always)) (numbered (st wqe).pkg)).isSome = true ∧
    Issues (st wq) i0 wq { qForm .always [(.blockDst 16, r 16)] false with nb := true } ∧
    (∀ l ∈ lanesOf (acts wq i0 .always), wq.retsOf 0 l ≠ []) ∧
    Issues (st wqe) i0 wqe { qForm .always [(.blockDst 16, r 16)] false with nb := true } ∧
    (∃ l ∈ lanesOf (acts wqe i0 .always), wqe.retsOf 0 l = []) ∧ nbOf wqe i0 = none :=
  ⟨issues_of (by decide) rfl rfl, by decide, issues_of (by decide) rfl rfl, by decide, by decide, rfl, rfl, issues_of (by decide) rfl rfl, by decide,
    issues_of (by decide) rfl rfl, by decide, by decide, issues_of (by decide) rfl rfl, by decide, issues_of (by decide) rfl rfl, by decide, by decide⟩

/-- The state with entries in the feed queue. -/
def sf (w : Warp) (l : List Word) : State := { st w with pkg := p0 { b0 w arm0 with feed := l } ln0 }

theorem witness_QueueOperands :
    Checked (st wq) i0 wq (Form.wa .always [(.dst .w32, r 0), (.src .w32, .q 0), (.src .w32, r 1)]) none ∧
    Checked (st wqe) i0 wqe (Form.wa .always [(.dst .w32, r 0), (.src .w32, .q 0), (.src .w32, r 1)]) none ∧
    plainSrc (r 0) ∧ plainSrc .zero ∧
    Checked (sf w0 [5]) i0 w0 (Form.wa .always [(.dst .w32, r 0), (.src .w32, .sq), (.src .w32, r 1)]) none ∧ w0.live ≠ 0 ∧
    Checked (sf w0 []) i0 w0 (Form.wa .always [(.dst .w32, r 0), (.src .w32, .sq), (.src .w32, r 1)]) none ∧
    (b0 w0 arm0).warps.find? armNo ≠ none ∧
    Checked (st wqe) i0 wqe (Form.wa .always [(.dst .w32, .q 0), (.src .w32, r 0), (.src .w32, r 1)]) none ∧
    (∀ l ∈ lanesOf (acts wqe i0 .always), shortSend wqe 0 l 7) :=
  ⟨checked_of (by decide), checked_of (by decide), ⟨by simp [r], by simp [r]⟩, ⟨by simp, by simp⟩, checked_of (by decide), by decide,
    checked_of (by decide), by decide, checked_of (by decide), fun l _ => .inl rfl⟩

/-- The armature, as its block's producer, copies n bytes of scratchpad from offset 0 to offset 64. -/
def wcp (n : Word) : Warp := { arm0 with regs := [(192, 64), (256, n)] }

def scp (w : Warp) : State := { sa w with pkg := p0 { b0 w0 w with prod := 4 } ln0 }

theorem witness_CopiesAndWaits :
    Produces (scp (wcp 8)) iArm (wcp 8) .always [(.dst .w32, r 0), (.block 8, r 4)] { b0 w0 (wcp 8) with prod := 4 } ∧
    (scp (wcp 8)).pkg.copyEntry iArm = some true ∧
    (let y := Copy.ofWords 3 iArm ctx0 1 0 true (srcWords (wcp 8) iArm 8 (r 4) 0)
     (scp (wcp 8)).pkg.copyFault y = none ∧ y.len * y.rows = 8) ∧
    (let y := Copy.ofWords 3 iArm ctx0 1 0 true (srcWords (wcp 0) iArm 8 (r 4) 0)
     (scp (wcp 0)).pkg.copyFault y = none ∧ y.len * y.rows = 0) ∧
    Produces (scp arm0) iArm arm0 .always [] { b0 w0 arm0 with prod := 4 } ∧ arm0.count 2 < 63 ∧
    Produces (scp arm0) iArm arm0 .always [(.dst .w32, r 0), (.src .w32, r 1)] { b0 w0 arm0 with prod := 4 } ∧
    Issues (st w0) i0 w0 (Form.wa .always []) ∧ w0.count 1 ≤ 0 ∧
    (let w : Warp := { w0 with cnt := ((Vector.replicate 7 0).set 1 1) }
     Issues (st w) i0 w (Form.wa .always []) ∧ 0 < w.count 1) :=
  ⟨⟨issues_of (by decide) rfl rfl, by decide, by decide⟩, by decide, by decide, by decide, ⟨issues_of (by decide) rfl rfl, by decide, by decide⟩,
    by decide, ⟨issues_of (by decide) rfl rfl, by decide, by decide⟩, issues_of (by decide) rfl rfl, by decide, issues_of (by decide) rfl rfl, by decide⟩

/-- A reduction over a group of one member, described by zeros at scratchpad offset 0. -/
theorem witness_Collectives :
    let s : State := { st w0 with pkg := { (st w0).pkg with groups := [(0, ⟨true, 0, 1, 0, [0], none, [], []⟩)] } }
    let ds : List Word := List.replicate 16 0
    Issues s i0 w0 (onceForm .always [(.dst .w32, r 0), (.src .w32, r 1)]) ∧ w0.count 4 < 63 ∧
    s.pkg.spAddr 0 0 (leadWord w0 i0 .always (r 1)) 64 = .ok (0, 0, 0) ∧
    NoTile s i0 ∧ (match s.pkg.spRead 0 0 0 64 with | .ok x => decide (x.2 = List.replicate 64 0) | .error _ => false) = true ∧
    collBad 1 ds = false ∧ (s.pkg.group (collGroup ds)).valid = true ∧ s.pkg.isFrozen 3 0 = false ∧
    (match Pkg.acceptColl { s.pkg with nextId := 1 } (masterOf xdie (3, splitMaster 0 0 0 0)) 0 (Coll.ofDesc 1 0 0 0 ctx0 1 0 false 0 ds) with
      | .ok _ => true | .error _ => false) = true :=
  ⟨issues_of (by decide) rfl rfl, by decide, rfl, .inl (by decide), by decide, by decide, by decide, by decide, by decide⟩

theorem witness_TraversalStacks :
    (let w := wr [(32, 1), (33, 1)]
     Issues (st w) i0 w { onceForm .always [(.src .w32, r 1), (.src .w32, r 2)] with arm := false } ∧
     leadWord w i0 .always (r 1) = 1 ∧ leadWord w i0 .always (r 2) = 0) ∧
    (let w : Warp := { w0 with stkCap := 2 }
     Issues (st w) i0 w (Form.w .always [(.src .w64, r 2)]) ∧ Issues (st w) i0 w (Form.w .always [(.dst .w64, r 2)]) ∧
     Issues (st w) i0 w (Form.w .always [(.dst .w32, r 2)]) ∧
     (eachLane (lanePush i0 w (r 2)) (lanesOf (acts w i0 .always)) (st w).pkg).isSome = true ∧
     (eachLane (laneTop true i0 (r 2)) (lanesOf (acts w i0 .always)) (st w).pkg).isSome = true ∧
     (eachLane (laneTop false i0 (r 2)) (lanesOf (acts w i0 .always)) (st w).pkg).isSome = true) :=
  ⟨⟨issues_of (by decide) rfl rfl, by decide, by decide⟩, issues_of (by decide) rfl rfl, issues_of (by decide) rfl rfl, issues_of (by decide) rfl rfl,
    by decide, by decide, by decide⟩

/-- One row of FP64: B at 0, A at 0xC000, C at 0xD000, described at 0xE000. -/
def desc0 : List Nat := [0x10000, 0xC000, 256, 0, 0, 1536, 0, 0xD000, 1536, 0, 0, 0, 0, 0, 0, 0]

def wmx (d : Word) : Warp := { arm0 with regs := [(32, d), (64, 0xE000)] }
def bmx (w : Warp) : Block := (b0 w0 w).writeSpBytes 0xE000 (desc0.flatMap (bytesOf 4))
def smx (w : Warp) : State := { sa w with pkg := p0 (bmx w) ln0 }
def tmx (w : Warp) : Desc := descOf ((smx w).pkg.descWords 0 0 (bmx w) 0xE000) 0

theorem bmx_described (c : Bool) : DescribedBy (smx (wmx 0)) (wmx 0) iArm .always (r 1) (r 2) (bmx (wmx 0)) c 0xE000 :=
  ⟨by decide, ⟨by decide, by decide, by decide⟩, by decide, ⟨by decide, .inr (by decide)⟩, by decide⟩

theorem witness_MatrixAndArmature : let w := wmx 0
    Issues (smx w) iArm w (mxOps .always [(.src .w32, r 1), (.src .w32, r 2)]) ∧ (mxReady (smx w).pkg iArm).isSome = true ∧
    DescribedBy (smx w) w iArm .always (r 1) (r 2) (bmx w) false 0xE000 ∧ UnitOpen (smx w) iArm ∧
    (tmx w).loadOk (bmx w) = true ∧ (tmx w).mmaOk (bmx w) = true ∧ (tmx w).cvtOk (bmx w) = true ∧
    cvtStateOk (tmx w) false .f64 = true ∧
    cvtStateOk (tmx w) true .none = true ∧ (leadWord (wmx 0x40000000) iArm .always (r 1)).getLsbD 30 = true ∧
    Issues (sa arm0) iArm arm0 (mxOps .always [(.src .w32, r 1)]) ∧ (b0 w0 arm0).feed.length < 64 ∧ Drained (sa arm0) iArm ∧
    Issues (sa arm0) iArm arm0 (mxOps .always []) ∧ ((sa arm0).pkg.core 0).mx.ops = [] :=
  ⟨issues_of (by decide) rfl rfl, by decide, bmx_described _, .inr ⟨by decide, by decide⟩,
    by decide, by decide, by decide, by decide, by decide, by decide, issues_of (by decide) rfl rfl, by decide, by unfold Drained; decide,
    issues_of (by decide) rfl rfl, by decide⟩

/-- `mma` needs B loaded in its format. -/
theorem witness_MatrixAndArmature_mma : let w := wmx 0
    let s : State := { smx w with pkg := (smx w).pkg.modMx 0 (fun m => { m with owner := some 0, bfmt := some 0 }) }
    Issues s iArm w (mxOps .always [(.src .w32, r 1), (.src .w32, r 2)]) ∧ mxReady s.pkg iArm = some s.pkg ∧ UnitOpen s iArm ∧
    DescribedBy s w iArm .always (r 1) (r 2) (bmx w) false 0xE000 ∧
    ((s.pkg.core 0).mx.seenBy 0).bfmt = some ((tmx w).fmt + 16 * (tmx w).sblk) ∧
    (((s.pkg.core 0).mx.seenBy 0).acc false).2 = .none :=
  ⟨issues_of (by decide) rfl rfl, by decide, .inl ⟨by decide, by decide⟩,
    ⟨by decide, ⟨by decide, by decide, by decide⟩, by decide, ⟨by decide, .inr (by decide)⟩, by decide⟩, by decide, by decide⟩

/-- The unit's oldest operation, of each form in turn. -/
theorem witness_MatrixAndArmature_operations : ∀ f ∈ [0, 1, 2, 3],
    let op : MxOp := ⟨0, f, 0x40000000, [], [], (0, []), false⟩
    let s : State := { smx (wmx 0) with pkg := (smx (wmx 0)).pkg.modMx 0 (fun m => { m with owner := some 0, ops := [op] }) }
    (s.pkg.core 0).mx.ops = [op] ∧ s.pkg.block? 0 op.slot = some (bmx (wmx 0)) ∧ op.bad = false ∧ op.writes = false ∧
    op.step.getLsbD 30 = true ∧ Unchanged (bmx (wmx 0)) op ∧ (bmx (wmx 0)).rowsPoisoned (op.scale :: op.rows) = false := by
  intro f hf
  simp only [List.mem_cons, List.not_mem_nil, or_false] at hf
  rcases hf with rfl | rfl | rfl | rfl <;>
    exact ⟨by decide, by decide, by decide, by decide, by decide, by unfold Unchanged; decide, by decide⟩

theorem witness_TrapInstructions :
    MayTrap (st w0) i0 w0 (b0 w0 arm0) ∧ Issues (st w0) i0 w0 (Form.wa .always [(.src .w32, r 0)]) ∧
    Issues (st w0) i0 w0 (Form.wa .always []) ∧ acts w0 i0 .always = (w0.split 0).mask ∧
    (let w : Warp := { w0 with preds := Vector.replicate 7 1 }
     Issues (st w) i0 w (Form.wa (.p 0) []) ∧ acts w i0 (.p 0) ≠ (w.split 0).mask) ∧
    MayTrap (sa arm0) iArm arm0 (b0 w0 arm0) ∧ Issues (sa arm0) iArm arm0 (Form.wa .always [(.dst .w32, r 0)]) ∧
    Issues (sa arm0) iArm arm0 (Form.wa .always [(.src .w32, r 0)]) :=
  ⟨⟨by decide, by decide, by decide, rfl⟩, issues_of (by decide) rfl rfl, issues_of (by decide) rfl rfl, by decide,
    ⟨issues_of (by decide) rfl rfl, by decide⟩, ⟨by decide, by decide, by decide, rfl⟩, issues_of (by decide) rfl rfl, issues_of (by decide) rfl rfl⟩

/-- No prefix yet, three prefix words, and a form whose literal is missing. -/
theorem witness_PrefixesAndDecodeFaults : AtWord (st w0) i0 w0 ∧ (w0.split 0).pfx.words < 3 ∧ MayTrap (st w0) i0 w0 (b0 w0 arm0) ∧
    (let w : Warp := { w0 with splits := [{ Split.free with mask := 3, st := .ready, pc := 0x1000, pfx := { Pfx.none with words := 3 } }, Split.free, Split.free, Split.free] }
     AtWord (st w) i0 w ∧ (w.split 0).pfx.words = 3 ∧ MayTrap (st w) i0 w (b0 w arm0)) ∧
    (Form.wa .always [(.dst .w32, r 0), (.src .w32, r 1), (.src .w32, .lit)]).decodeFault false (w0.split 0).pfx = some 0x02 :=
  ⟨⟨rfl, by decide, by decide⟩, by decide, ⟨by decide, by decide, by decide, rfl⟩, ⟨⟨rfl, by decide, by decide⟩, by decide, ⟨by decide, by decide, by decide, rfl⟩⟩,
    by decide⟩

/-- The event 5 with count 2, and a target of 1, 2 or 3 in v1; v2 names the event. -/
def wev (n : Word) : Warp := wr [(32, n), (33, n), (64, 5), (65, 5)]
def sev (w : Warp) : State := { st w with pkg := { (st w).pkg with events := [(65541, ⟨2, [], false, 0⟩)] } }

theorem witness_EventInstructions :
    Issues (sev (wev 2)) i0 (wev 2) (eventForm .always [(.src .w32, r 1), (.src .w32, r 2)]) ∧ Drained (sev (wev 2)) i0 ∧
    (leadWord (wev 2) i0 .always (r 2)).toNat = 5 ∧ (((sev (wev 2)).pkg.l1WriteBack 0).evSignal ctx0 5 2).isSome = true ∧
    ((sev (wev 2)).pkg.event (evKey 1 5)).count = 2 ∧
    Issues (sev (wev 3)) i0 (wev 3) (eventForm .always [(.src .w32, r 1), (.src .w32, r 2)]) ∧
    (match (sev (wev 3)).pkg.evAwait ctx0 5 3 (.split 0 0 0 0) with | .waits _ => true | _ => false) = true ∧
    Issues (sev (wev 2)) i0 (wev 2) (eventForm .always [(.upd .w32, r 1), (.src .w32, r 2)]) ∧
    Issues (sev (wev 2)) i0 (wev 2) (onceForm .always [(.src .w32, r 2)]) ∧
    ((sev (wev 2)).pkg.evStore ctx0 (evKey 1 5) ⟨0, [], false, 0⟩).isSome = true ∧
    (let z : Wait := ⟨.event 1 5 3, 0, true, [], none⟩
     let w : Warp := { wev 3 with splits := [{ Split.free with mask := 3, st := .ready, pc := 0x1000, wait := some z }, Split.free, Split.free, Split.free] }
     IssuesAt (st w) i0 w (eventForm .always [(.src .w32, r 1), (.src .w32, r 2)]) (some z)) :=
  ⟨issues_of (by decide) rfl rfl, by unfold Drained; decide, by decide, by decide, by decide, issues_of (by decide) rfl rfl, by decide,
    issues_of (by decide) rfl rfl,
    issues_of (by decide) rfl rfl, by decide, issues_of (by decide) rfl rfl⟩

theorem witness_RegisterPool : Issues (st w0) i0 w0 (poolForm .always []) ∧ acts w0 i0 .always = w0.live ∧ 4 + 4 * 1 ≤ w0.alloc ∧
    w0.alloc + 4 * 1 ≤ 256 ∧ ((st w0).pkg.core 0).claims = [] ∧ 128 ≤ ((st w0).pkg.core 0).poolFree ∧
    (let s : State := { st w0 with pkg := (st w0).pkg.modCore 0 (fun k => { k with claims := [⟨1, 0, 0, 1⟩] }) }
     Issues s i0 w0 (poolForm .always []) ∧ (s.pkg.core 0).claims ≠ []) ∧
    (let z : Wait := { Wait.of (.claim 1) with released := true }
     let w : Warp := { w0 with splits := [{ Split.free with mask := 3, st := .ready, pc := 0x1000, wait := some z }, Split.free, Split.free, Split.free] }
     IssuesAt (st w) i0 w (poolForm .always []) (some z)) :=
  ⟨issues_of (by decide) rfl rfl, by decide, by decide, by decide, by decide, by decide, ⟨issues_of (by decide) rfl rfl, by decide⟩,
    issues_of (by decide) rfl rfl⟩

/-- Region 0 of the address space at 0x1000000: nothing published, then version 4 with floor 2. -/
def srg (v : Bool) (w : Warp) : State := { st w with pkg := { (st w).pkg with
  regions := [(16, ⟨0, 0x1000000, 1, 0, 0, 1, [], 4, 2, v, [], [], []⟩)] } }

theorem witness_VersionInstructions : Issues (srg true w0) i0 w0 (onceForm .always [(.src .w32, r 1), (.src .w32, r 2)]) ∧
    NamesRegion (srg true w0) i0 w0 .always (r 2) ⟨0, 0x1000000, 1, 0, 0, 1, [], 4, 2, true, [], [], []⟩ ∧
    w0.count 6 < 63 ∧ Drained (srg true w0) i0 ∧ leadWord w0 i0 .always (r 1) ≠ 0xFFFFFFFF ∧ leadWord w0 i0 .always (r 1) ≤ 2 ∧
    Issues (srg true w0) i0 w0 (onceForm .always [(.dst .w64, r 0), (.src .w32, r 2)]) ∧
    Issues (st w0) i0 w0 (onceForm .always [(.src .w32, r 2)]) :=
  ⟨issues_of (by decide) rfl rfl, ⟨by decide, by decide⟩, by decide, by unfold Drained; decide, by decide, by decide,
    issues_of (by decide) rfl rfl, issues_of (by decide) rfl rfl⟩


/-! ## The front end -/

/-- Tables of a context that maps the first gibibyte to itself, and bytes from 0x8000 on. -/
def mem1 (l : List (Nat × Byte)) : KMap Byte :=
  [(0x2000, 1), (0x2001, 0x30), (0x3000, 1), (0x3001, 0x40), (0x4000, 0x35)] ++ l
def cx1 : Ctx := ⟨0x2000, 1, 0, 0, 0⟩

/-- A launch record of one block of one thread with 4 registers, its ring of 16 records at 0x9000. -/
def rec1 : List (Nat × Byte) :=
  [(0, 1), (0x28, 1), (0x2C, 1), (0x2E, 1), (0x30, 1), (0x32, 1), (0x34, 0x11), (0x35, 1), (0x36, 1), (0x48, 4), (0x49, 7)]
def ringAt : List (Nat × Byte) := [(0x71, 0x90), (0x78, 4)]
def bytesAt (l : List (Nat × Byte)) : List Byte := (List.range 128).map (fun k => KMap.getD l k 0)

/-- `st` over that memory, in that context, the line of 0x8000 held by die 0. -/
def s1 (w : Warp) (ln : Launch) (l : List (Nat × Byte)) : State :=
  let s := { st w with pkg := p0 { b0 w arm0 with ctx := cx1 } ln }
  { s with pkg := { s.pkg with mem := mem1 (l.map (fun e => (0x8000 + e.1, e.2))), dir := [(0x80, ⟨some 0, true, [], 0⟩), (0x90, ⟨some 0, true, [], 0⟩)] } }

/-- v2:3 of both lanes is 0x8000. -/
def wl1 : Warp := wr [(64, 0x8000), (65, 0x8000)]

/-- v4:7 of both lanes: the worker's ring at 0x9000 and the record at 0x8000. -/
def wf1 : Warp := wr [(128, 0x9000), (129, 0x9000), (192, 0x8000), (193, 0x8000)]

/-- A worker: its launch has a ring, of which `n` records are taken in. -/
def lw (n : Nat) : Launch := { Launch.fresh (bytesAt (rec1 ++ ringAt)) 0 none none 0 0 cx1 0 with st := .resident, placed := 1, feedTail := n }

def wnb (w : Warp) : Warp := { w with splits := [{ Split.free with mask := 3, st := .ready, pc := 0x1000, pfx := { Pfx.none with md := some ⟨none, false, some 2, none⟩, words := 1 } }, Split.free, Split.free, Split.free] }

theorem witness_LaunchesAndFeeds :
    (let s := s1 wl1 ln0 rec1
     Issues s i0 wl1 { Form.wa .always [(.addr, r 2)] with nb := true, handler := false } ∧ Drained s i0 ∧
     (eachLane (laneLaunch s i0 wl1 .always { b0 wl1 arm0 with ctx := cx1 } ln0 (r 2)) (lanesOf (acts wl1 i0 .always)) (s.pkg.l1WriteBack 0)).isSome = true) ∧
    (let s := s1 wf1 (lw 15) rec1
     Issues s i0 wf1 { onceForm .always [(.src .w128, r 4)] with nb := true, handler := false } ∧
     s.pkg.workerAt 1 0x9000 = some (0, lw 15) ∧ (lw 15).feedTail - (lw 15).feedHead < recFeedSize (lw 15).record ∧
     (match (regionEnv s i0 wf1 .always).readAs s.pkg 0x8000 64 with
      | .ok q x => match q.feedAppend 0 (lw 15) x with | .ok _ _ => true | _ => false
      | _ => false) = true) ∧
    recFeedSize (lw 16).record ≤ (lw 16).feedTail - (lw 16).feedHead ∧ nbOf wf1 i0 = none ∧ nbOf (wnb wf1) i0 ≠ none ∧
    (wf1.split 0).pend = none ∧ ((wnb wf1).split 0).pend = none ∧
    Issues (s1 (wnb wf1) (lw 16) rec1) i0 (wnb wf1) { onceForm .always [(.src .w128, r 4)] with nb := true, handler := false } ∧
    (let s := s1 w0 (lw 1) []
     Issues s i0 w0 { poolForm .always [(.blockDst 16, .reg 32)] with nb := true } ∧ recFeed (lw 1).record = true ∧
     (lw 1).feedHead < (lw 1).feedTail ∧ (lw 0).feedTail ≤ (lw 0).feedHead ∧
     (match s.pkg.engineRead (masterOf xdie (3, splitMaster 0 0 0 0)) cx1 ((lw 1).slotVa 0) 64 true with | .ok _ _ => true | _ => false) = true ∧
     (lw 1).feedWaiters = []) :=
  ⟨⟨issues_of (by decide) rfl rfl, by unfold Drained; decide, by decide +kernel⟩, ⟨issues_of (by decide) rfl rfl, by decide +kernel, by decide, by decide +kernel⟩, by decide,
    by decide, by decide, by decide, by decide, issues_of (by decide) rfl rfl, issues_of (by decide) rfl rfl, by decide, by decide, by decide, by decide, rfl⟩

/-- Queue 0 with the package over the tables of `mem1`, firmware running. -/
def sq (k : Queue) (l : List (Nat × Nat × Byte)) : State := { State.reset with
  pkg := { Pkg.reset with mem := mem1 (l.map (fun e => (e.1 + e.2.1, e.2.2))), queues := [(0, k)] }
  mgmt := { Mgmt.reset with dead := [] } }

/-- An ACTIVE queue of 16 slots at 0x8000. -/
def qa : Queue := { Queue.reset with enable := true, st := .active, log2n := 4, base := 0x8000, cx := cx1 }

/-- Packet 0 of a type, with its payload. -/
def pk (ty : Byte) (l : List (Nat × Byte)) : Packet := started (bytesAt ((0, ty) :: l)) 0 none
def sp (ty : Byte) (l : List (Nat × Byte)) : State := sq { qa with packets := [(0, pk ty l)] } []

/-- The management statements: windows, links, the I3C port and an invalidation. -/
theorem witness_PackageAndTlb_ManagementPorts : noStash Pkg.reset ∧ noStash (st w0).pkg ∧ State.reset.mgmt.waddr < memSize ∧
    (∃ s : State, s.mgmt.waddr = memSize ∧ noStash s.pkg) ∧
    (let p : Pkg := { Pkg.reset with poison := [0] }; p.poisoned 0 = true ∧ p.homeDown 0 = false) ∧
    (let s : State := { State.reset with mgmt := { Mgmt.reset with linkUp := [(0, false)] } }
     s.linkIsUp 1 = true ∧ s.linkIsUp 0 = false ∧ State.reset.pkg.xreset.find? 1 = none) ∧
    (let s : State := { State.reset with mgmt := { Mgmt.reset with i3cRead := some 0xC01800 } }
     ∃ a : Word, s.mgmt.i3cRead = some a ∧ a.toNat % 4 = 0 ∧ a.toNat < 2 ^ 24 ∧ a.toNat % 2 ^ 20 ≠ 8 ∧ a.toNat % 2 ^ 20 ≠ 0x1C08) ∧
    (let s : State := { State.reset with mgmt := { Mgmt.reset with tlbRun := some (0, 1, 0) } }
     s.mgmt.tlbRun = some (0, 1, 0) ∧ s.pkg.pods = []) ∧
    plainFields ≠ [] :=
  ⟨by unfold noStash; decide, by unfold noStash; decide, by decide, ⟨{ State.reset with mgmt := { Mgmt.reset with waddr := memSize } }, rfl, by unfold noStash; decide⟩,
    by decide, by decide, ⟨0xC01800, by decide⟩, by decide, by decide⟩

theorem witness_FrontEndQueues_states :
    (let s := sq { Queue.reset with ctx := 0x8000, log2n := 16 } []
     (qOf s 0).enable = false ∧ s.fwAlive 0 = true ∧ (s.pkg.readCtx (qOf s 0).ctx).isSome = true) ∧
    (let s := sq { Queue.reset with ctx := 0x8020, log2n := 4 } []
     (s.pkg.readCtx (qOf s 0).ctx).isNone = true) ∧
    (qOf (sq { Queue.reset with log2n := 3 } []) 0).log2n < 4 ∧ (qOf (sq qa []) 0).st = .active ∧ qa.packets = [] ∧
    (let s := sq { qa with st := .preempted } []
     (qOf s 0).st = .preempted ∧ (s.pkg.launches.any (fun e => e.2.q == 0 && !e.2.ending && e.2.saved.any (fun v => !v.2.waiting))) = false) ∧
    (let s : State := { sq { qa with st := .preempted } [] with pkg := { (sq { qa with st := .preempted } []).pkg with
      launches := [(0, { ln0 with saved := [(0, ⟨b0 w0 arm0, [], none, [], none, false, 0, 0⟩)] })] } }
     (s.pkg.launches.any (fun e => e.2.q == 0 && !e.2.ending && e.2.saved.any (fun v => !v.2.waiting))) = true) ∧
    (let s := sq { qa with st := .preempting } []; (qOf s 0).st = .preempting ∧ s.pkg.queueBlocks 0 = []) ∧
    (let s := sq { qa with st := .resetting } []; (qOf s 0).st = .resetting ∧ s.pkg.queueBlocks 0 = []) := by
  decide +kernel

theorem witness_FrontEndQueues_fetch :
    (let s := sq qa [(0x8000, 0, 0x80)]
     (qOf s 0).enable = true ∧ (qOf s 0).st = .active ∧ (qOf s 0).ringFault = false ∧ (qOf s 0).fetched = none ∧
     s.pkg.xreset.find? 0 = none ∧
     (match s.pkg.engineRead (fetchMaster 0) cx1 0x8000 1 true with
      | .ok p b => (ofBytes b).testBit 7 == (qOf s 0).lap && (match Pkg.unitRead (fetchMaster 0) cx1 true 3 p 0x8000 128 [] with | .ok _ _ => true | _ => false)
      | _ => false) = true) ∧
    (let s := sq qa []
     (match s.pkg.engineRead (fetchMaster 0) cx1 0x8000 1 true with | .ok _ b => (ofBytes b).testBit 7 != (qOf s 0).lap | _ => false) = true) ∧
    (let s := sq { qa with cx := ctx0 } []
     (match s.pkg.engineRead (fetchMaster 0) ctx0 0x8000 1 true with | .fail _ _ => true | _ => false) = true) ∧
    (let s := sq { qa with fetched := some (bytesAt [(0, 0x80)]), since := some 0 } []
     s.pkg.nextQueue 0 = some 0 ∧ (s.pkg.fwq.getD 0 []).length < 4096 ∧ headerFaultAt (bytesAt [(0, 0x80)]) false = none ∧
       headerFaultAt (bytesAt [(0, 0x89)]) false = some 0 ∧
     s.pkg.startable 0 = true ∧ (qOf s 0).since = some 0 ∧ s.pkg.ptime.toNat < (0 : DWord).toNat + 1000000 ∧ s.pkg.nextQueue 1 = none) ∧
    (let s : State := { sp 0 [] with pkg := { (sp 0 []).pkg with fwq := [(0, [⟨0, false, 0, none⟩])] } }
     s.fwAlive 0 = true ∧ s.pkg.isFrozen 4 11 = false ∧ s.pkg.nextFw 0 = some ⟨0, false, 0, none⟩ ∧ s.pkg.nextFw 1 = none ∧
     (qOf s 0).packets.find? 0 = some (pk 0 []) ∧ List.find? (fun z => !z.2.performed) (qOf s 0).packets = some (0, pk 0 [])) := by
  decide +kernel

/-- Packets of every type, with the results that the clauses ask for. -/
theorem witness_Packets :
    (∀ e ∈ ([(sp 0 [], 0), (sp 1 rec1, 1), (sp 7 [], 7), (sp 3 [(0x14, 1)], 3), (sp 4 [(0x14, 1)], 4), (sp 5 [(0x11, 0x80), (0x19, 0x81), (0x20, 4)], 5), (sp 6 [], 6),
      (sp 8 [(0x10, 1)], 8), (sp 2 [(0x11, 0x90)], 2)] : List (State × Nat)), ∃ x, Performs e.1 0 0 x e.2) ∧
    payloadFault 0 (bytesAt []) = none ∧ payloadFault 3 (bytesAt [(0, 3), (0x14, 1)]) = none ∧ payloadFault 0 (bytesAt [(0x13, 1)]) = some 0x13 ∧
    payloadFault 6 (bytesAt [(0, 6)]) = none ∧ payloadFault 8 (bytesAt [(0, 8), (0x10, 1)]) = none ∧ payloadFault 5 (pk 5 [(0x11, 0x80), (0x19, 0x81), (0x20, 4)]).bytes = none ∧
    payloadFault 2 (pk 2 [(0x11, 0x90)]).bytes = none ∧
    recordFault (pk 1 rec1).bytes = none ∧ recordFault (pk 1 []).bytes = some 0x28 ∧
    ((sp 2 [(0x11, 0x90)]).pkg.workerAt 1 0x9000).isNone = true ∧
    (let s : State := { sp 2 [(0x11, 0x90)] with pkg := { (sp 2 [(0x11, 0x90)]).pkg with launches := [(0, lw 15)] } }
     s.pkg.workerAt 1 0x9000 = some (0, lw 15) ∧ (lw 15).ringFull = false ∧ (lw 16).ringFull = true ∧
     (match s.pkg.feedAppend 0 (lw 15) ((pk 2 [(0x11, 0x90)]).bytes.drop 0x40) with | .ok p [] => (p.queue 0).packets.find? 0 == some (pk 2 [(0x11, 0x90)]) | _ => false) = true) := by
  refine ⟨?_, by decide +kernel⟩
  intro e he
  simp only [List.mem_cons, List.not_mem_nil, or_false] at he
  rcases he with rfl | rfl | rfl | rfl | rfl | rfl | rfl | rfl | rfl <;> exact ⟨_, by decide +kernel, rfl, by decide +kernel, by decide +kernel⟩

theorem witness_Packets_effects :
    (let x := pk 3 [(0x14, 1)]; let s := sp 3 [(0x14, 1)]
     (s.pkg.evSignal cx1 0 1).any (fun p => (p.queue 0).packets.find? 0 == some x) = true) ∧
    (let s := sp 4 [(0x14, 1)]
     (match s.pkg.evAwait cx1 0 1 (.packet 0 0) with | .waits _ => true | _ => false) = true ∧ recNat (pk 4 []).bytes 0x14 4 ≤ (s.pkg.event 65536).count.toNat) ∧
    (let x := pk 5 [(0x11, 0x80), (0x19, 0x81), (0x20, 4)]; let s := sp 5 [(0x11, 0x80), (0x19, 0x81), (0x20, 4)]
     (match s.pkg.copyWord (packetMaster 0 0) cx1 x with | .ok p _ => (p.queue 0).packets.find? 0 == some x | _ => false) = true ∧
     (match s.pkg.copyWord (packetMaster 0 0) ctx0 x with | .fail p _ => (p.queue 0).packets.find? 0 == some x | _ => false) = true ∧ x.progress + 4 = recNat x.bytes 0x20 4) ∧
    (let x := pk 8 [(0x19, 0x90), (0x21, 0x80)]; let s := sp 8 [(0x19, 0x90), (0x21, 0x80)]
     recNat x.bytes 0x20 4 % 16384 = 0 ∧ 32768 ≤ recNat x.bytes 0x20 4 ∧
     (match zeroParts 0 (opened s 0 x) with | .ok p => (p.queue 0).packets.find? 0 == some x | .error _ => false) = true) ∧
    (let s := sp 8 [(0x10, 1)]
     (match s.pkg.closeTrace 0 0 none with | .ok p => (p.queue 0).packets.find? 0 == some (pk 8 [(0x10, 1)]) | .error _ => false) = true) ∧
    (let s := sp 8 [(0x10, 2)]
     (match s.pkg.flushTrace 0 with | .ok p => (p.queue 0).packets.find? 0 == some (pk 8 [(0x10, 2)]) | .error _ => false) = true) ∧
    (let x := overWith (pk 0 []) 0 0
     let s := sq { qa with packets := [(0, x)] } []
     s.pkg.owed = [] ∧ (qOf s 0).packets.find? 0 = some x ∧ x.done = true ∧ (qOf s 0).st ≠ .preempted ∧ x.launch = none ∧ recCev x.bytes = none ∧
     (match s.pkg.writeNote (packetMaster 0 0) cx1 (recComp x.bytes) (noteBytes 0 x.status x.detail x.start s.pkg.ptime 0 0) with | .ok _ => true | _ => false) = true) := by
  decide +kernel

/-! ## Placement, saves, halts, snapshots and the debug register -/

/-- The package of `sq qa []` with a launch `l` numbered 7, as a state. -/
def lq (l : Launch) : State := { sq qa [] with pkg := { (sq qa []).pkg with launches := [(7, l)], ptime := 1000000 } }

/-- A launch of one block of one warp of 4 registers with its arguments, in state `z`, of carve `c`. -/
def lr (z : LState) (c : Byte) : Launch :=
  { Launch.fresh (bytesAt (rec1 ++ [(0x4C, c)])) 0 (some 0) none 0 0 cx1 0 with st := z, args := some [] }

/-- All cores of die 0 run one block of carve 0, no other die takes blocks. -/
def full (l : Launch) : State := { lq l with pkg := { (lq l).pkg with
  cores := (List.range 96).map (fun c => (c, { Core.reset with blocks := [(0, b0 w0 arm0)] }))
  dies := [(0, Die.reset), (1, { Die.reset with inReset := true }), (2, { Die.reset with inReset := true }), (3, { Die.reset with inReset := true })] } }

theorem witness_PlacementAndSaves :
    (let l := { lr .waitev 0 with packet := none }; let s := lq l
     s.pkg.launch? 7 = some l ∧ l.waitsTodo = [] ∧ l.ending = false ∧ (qOf s 0).st = .active ∧ s.pkg.packetRuns l = true ∧
     (s.pkg.evWaiting (fun w => match w with | .launch x _ => x == 7 | _ => false)) = false) ∧
    (let k : Queue := { qa with packets := [(0, { pk 1 rec1 with performed := true, launch := some 7 })] }
     let s : State := { lq (lr .waitev 0) with pkg := { (lq (lr .waitev 0)).pkg with queues := [(0, k)] } }
     s.pkg.packetRuns (lr .waitev 0) = true ∧ (recNat (lr .waitev 0).record 1 1).testBit 1 = false ∧ (qOf s 0).nextWaits = []) ∧
    (let s : State := { lq (lr .waitev 0) with pkg := { (lq (lr .waitev 0)).pkg with events := [(65541, ⟨0, [(.launch 7 0, 1)], false, 0⟩)] } }
     (s.pkg.evWaiting (fun w => match w with | .launch x _ => x == 7 | _ => false)) = true) ∧
    (let s := lq (lr .ready 0)
     s.pkg.wantsPlace (lr .ready 0) = true ∧ s.pkg.outranked (lr .ready 0) = false ∧ s.pkg.findPlace 7 (lr .ready 0) = some ([0], 1) ∧
     recClusterSize (lr .ready 0).record = 1) ∧
    (let s := full (lr .ready 1)
     s.pkg.starved 7 (lr .ready 1) = true ∧ (∀ k ∈ s.pkg.cores, ∀ r, k.2.resv = some r → r.guarded = false) ∧
     (∀ e ∈ s.pkg.launches, e.2.prio < (lr .ready 1).prio → s.pkg.starved e.1 e.2 = false) ∧
     ((s.pkg.stepsFrom 384).map stepCore).find? (fun c => (s.pkg.die (dieOfCore c)).places) = some 0) ∧
    (let b : Block := { b0 { w0 with exited := 3, splits := List.replicate 4 Split.free } arm0 with armEnded := true }
     let s : State := { State.reset with pkg := p0 b ln0 }
     s.pkg.block? 0 0 = some b ∧ b.finished = true ∧ s.pkg.blockQuiet 0 0 b = true ∧ (b0 w0 arm0).finished = false) :=
  ⟨by decide +kernel, by decide +kernel, by decide +kernel, by decide +kernel, ⟨by decide +kernel, (by
    have h : (full (lr .ready 1)).pkg.cores.all (fun k => k.2.resv.isNone) = true := by decide +kernel
    intro k hk r hr
    have := List.all_eq_true.mp h k hk
    rw [hr] at this; cases this), by decide +kernel, by decide +kernel⟩, by decide +kernel⟩

/-- A split that waits for an event. -/
def evSplit : Split := { Split.free with mask := 3, st := .blocked, pc := 0x1000, wait := some (Wait.of (.event 1 5 3)), held := some 0x71000000, prior := .ready }
def wev1 : Warp := { w0 with splits := [evSplit, Split.free, Split.free, Split.free] }

/-- A state whose launch 7 finds no room, with core 0 reserved for it and a block of launch 8 there that waits for an
event, whose queue has a save area of 16 pages. -/
def full1 : State := { full (lr .ready 1) with pkg := { (full (lr .ready 1)).pkg with
  queues := [(0, { qa with saveBase := 0x100000, savePages := 16 })]
  launches := [(7, lr .ready 1), (8, { lr .resident 0 with placed := 1 })]
  cores := (0, { Core.reset with resv := some ⟨7, true⟩, blocks := [(0, { b0 wev1 { arm0 with splits := List.replicate 4 Split.free } with launch := 8 })] }) ::
    ((List.range 95).map (fun c => (c + 1, { Core.reset with blocks := [(0, b0 w0 arm0)] }))) } }

def savedB : Saved := ⟨b0 w0 arm0, [], none, [], none, false, 0, 0x1000⟩

theorem witness_PlacementAndSaves_saves :
    (full1.pkg.wantsPlace (lr .ready 1) = true ∧ (full1.pkg.findPlace 7 (lr .ready 1)).isNone = true ∧
     (match full1.pkg.eventVictims 7 (lr .ready 1) with
      | x :: _ => (match full1.pkg.placeImages (qOf full1 (full1.pkg.queueOf x.2.2)) (full1.pkg.clusterOf x.2.2) (full1.pkg.images (full1.pkg.queueOf x.2.2)) with
        | some ys => (ys.zip (full1.pkg.clusterOf x.2.2)).all (fun y => full1.pkg.imagePoisoned y.1.2.2 (full1.pkg.imageOf y.2.1 y.2.2.1 y.2.2.2) == false)
        | none => false)
      | [] => false) = true) ∧
    (full (lr .ready 1)).pkg.eventVictims 7 (lr .ready 1) = [] ∧
    (let l : Launch := { lr .placing 0 with saved := [(0, savedB)] }
     let s := lq l
     s.pkg.launch? 7 = some l ∧ l.ending = false ∧ s.pkg.hold = false ∧ (qOf s l.q).st = .active ∧
     List.find? (fun e => s.pkg.wakes e.2) l.saved = some (0, savedB) ∧ savedB.block.clusterSize ≤ 1 ∧
     List.filter (fun (e : Nat × Saved) => e.1 == 0) l.saved = [(0, savedB)] ∧ s.pkg.imagePoisoned savedB.base savedB.size = false ∧
     s.pkg.findRestore 7 l [(0, savedB)] = some ([0], 1)) ∧
    ((full (lr .ready 1)).pkg.findRestore 7 (lr .ready 1) [(0, { savedB with block := { savedB.block with carve := 1 } })]).isNone = true :=
  ⟨by decide +kernel, by decide +kernel, by decide +kernel, by decide +kernel⟩

/-- A block of `w` in slot 0 of core 0 in a mode. -/
def stopd (w : Warp) : Warp := { w with halt := .stopped, splits := [{ Split.free with mask := w.live, st := .stopped, pc := 0x1000 }, Split.free, Split.free, Split.free] }
def bm (w : Warp) (m : BlockMode) : Block := { b0 w (stopd arm0) with mode := m }
def sh (w : Warp) (m : BlockMode) : State := { State.reset with pkg := { p0 (bm w m) ln0 with queues := [(0, { qa with handler := 0x4000, limit := 1 })], ptime := 1000 } }

theorem witness_Halts :
    (let w : Warp := { w0 with halt := .reached 64 0 }
     (sh w (.halting 0 .debug)).pkg.warp? 0 0 0 = some w ∧ w.landed = true) ∧
    (let w : Warp := stopd w0
     let b := bm w (.halting 0 .kill)
     (sh w (.halting 0 .kill)).pkg.block? 0 0 = some b ∧ (sh w (.halting 0 .kill)).pkg.killOver 0 0 b = true) ∧
    (let w : Warp := { stopd w0 with frec := { FRec.zero with cause := 9 } }
     let b := bm w (.halting 0 .handler); let s := sh w (.halting 0 .handler)
     s.pkg.block? 0 0 = some b ∧ b.allStopped = true ∧ s.pkg.saving b = false ∧ b.handlerWarp = some (0, w) ∧ 32 ≤ w.alloc ∧
     (qOf s (s.pkg.queueOf b)).handler ≠ 0 ∧ (s.pkg.core 0).shadow = none) ∧
    (let w : Warp := { w0 with splits := [{ Split.free with mask := 3, st := .blocked, wait := some (Wait.of (.claim 4)) }, Split.free, Split.free, Split.free] }
     let b : Block := { b0 w arm0 with armEnded := true, stuck := some 0 }
     let s : State := { State.reset with pkg := (p0 b ln0).modCore 0 (fun k => { k with claims := [⟨0, 0, 0, 4⟩] }) }
     s.pkg.claimsStuck 0 0 b = true ∧ b.stuck = some 0 ∧ (s.pkg.core 0).claims.find? (fun q => q.slot == 0) = some ⟨0, 0, 0, 4⟩ ∧
     (s.pkg.die (dieOfCore 0)).cyc.toNat < (0 : DWord).toNat + 4096 ∧ { b with stuck := none }.stuck = none ∧
     (let t : State := { s with pkg := s.pkg.modDie 0 (fun d => { d with cyc := 4096 }) }
      t.pkg.claimsStuck 0 0 b = true ∧ (0 : DWord).toNat + 4096 ≤ (t.pkg.die (dieOfCore 0)).cyc.toNat)) ∧
    (st w0).pkg.claimsStuck 0 0 (b0 w0 arm0) = false ∧
    (let w := wev1; let b := bm w .running; let s := sh w .running
     s.pkg.block? 0 0 = some b ∧ (qOf s (s.pkg.queueOf b)).limit.toNat ≠ 0 ∧ b.mode = .running ∧ b.paused = none ∧ s.pkg.saving b = false ∧
     b.lastIssue.toNat + 1000 * (qOf s (s.pkg.queueOf b)).limit.toNat ≤ s.pkg.ptime.toNat ∧ b.longestWait = some (0, 0)) := by
  decide +kernel

/-- Region 0 of an address space whose descriptors stand at 0xA000; OPEN names one page at 0x20000, its records at
0xB000 and a pool of one frame at 0x30000. -/
def cxr : Ctx := ⟨0x2000, 1, 0xA000, 0, 0⟩
def snapS (a : Nat) (v : Word) (g : List (Nat × VRegion)) : State :=
  let s := sq { qa with cx := cxr, packets := [(0, { pk 6 [] with performed := true })] }
    [(0xA000, 2, 2), (0xA000, 8, 1), (0xA000, 0x11, 0xB0), (0xA000, 0x1A, 3), (0xA000, 0x20, 1)]
  { s with pkg := { s.pkg with snaps := [⟨16, a, v, true, 0, 0, 0, 0⟩], regions := g } }
def vr (v : Bool) : VRegion := ⟨0xA000, 0x20000, 1, 0xB000, 0x30000, 1, [], 4, 2, v, [], [], []⟩

theorem witness_SnapshotActions :
    (∀ e ∈ ([(0, 0, []), (1, 5, [(16, vr true)]), (1, 0, [(16, vr false)]), (2, 4, [(16, vr true)]), (3, 0, [(16, vr true)])] : List (Nat × Word × List (Nat × VRegion))),
      let s := snapS e.1 e.2.1 e.2.2
      Applies s 0 ⟨16, e.1, e.2.1, true, 0, 0, 0, 0⟩ ∧ ∃ k, Pkt 0 0 k s.pkg) ∧
    (∀ e ∈ ([(0, 0, []), (1, 5, [(16, vr true)]), (1, 0, [(16, vr false)]), (2, 4, [(16, vr true)]), (3, 0, [(16, vr true)])] : List (Nat × Word × List (Nat × VRegion))),
      let s := snapS e.1 e.2.1 e.2.2
      (match s.pkg.snapCheck cxr ⟨16, e.1, e.2.1, true, 0, 0, 0, 0⟩ with | .ok _ => true | .error _ => false) = true) ∧
    (match (snapS 3 0 []).pkg.snapCheck cxr ⟨16, 3, 0, true, 0, 0, 0, 0⟩ with | .ok _ => false | .error c => c == 4) = true ∧ noWalks (snapS 3 0 [(16, vr true)]).pkg := by
  refine ⟨?_, by decide +kernel, by decide +kernel, by unfold noWalks; decide +kernel⟩
  intro e he
  simp only [List.mem_cons, List.not_mem_nil, or_false] at he
  rcases he with rfl | rfl | rfl | rfl | rfl <;> exact ⟨⟨rfl, by simp, by decide +kernel, by decide +kernel⟩, _, rfl⟩

theorem witness_ObservationAndDebug_counters :
    ((0 : DWord).toNat + 4096 ≤ (({ State.reset with pkg := Pkg.reset.modDie 0 (fun d => { d with cyc := 4096 }) } : State).pkg.slotTotal 0).toNat) ∧
    (State.reset.pkg.slotTotal 0).toNat < (0 : DWord).toNat + 4096 ∧
    (let z : TRec := ⟨1, 0, 0, 0, 0, 0, 0, 0, 0⟩
     let t : TraceSess := ⟨0x8000, 32768, ctx0, [(0, List.replicate 123 z)], [], [], [], [], []⟩
     let s : State := { sq qa [] with pkg := { (sq qa []).pkg with traces := [(0, t)] } }
     s.pkg.traces.find? 0 = some t ∧ (s.pkg.die 0).inReset = false ∧ 123 ≤ (t.recs.getD 0 []).length ∧ (t.recs.getD 1 []).length < 123 ∧
     (match s.pkg.writeFrame 0 0 with | .ok _ => true | .error _ => false) = true) :=
  ⟨by decide, by decide, by decide +kernel⟩

/-- The debug register of core 0 holds a command of an OP on register r of lane 1, split 0, warp slot 0. -/
def dbg (op r : Nat) (w : Warp) : State := { st w with pkg := (st w).pkg.modCore 0 (fun k => { k with dbgCmd := BitVec.ofNat 32 (op * 2 ^ 28 + 2 ^ 27 + 2048 + r) }) }
def wstop : Warp := { w0 with splits := [{ Split.free with mask := 3, st := .stopped, prior := .ready, pc := 0x1000 }, Split.free, Split.free, Split.free] }
def tgt : DbgTgt := ⟨0, 0, 0, 1⟩

theorem witness_ObservationAndDebug_commands :
    Debugs (dbg 1 0 w0) 0 1 tgt (b0 w0 arm0) w0 ∧ w0.regions = [] ∧ (w0.split 0).st ≠ .free ∧ (w0.split 0).inCow = false ∧ w0.landing (w0.split 0).mask = false ∧
    Debugs (dbg 2 0 wstop) 0 2 tgt (b0 wstop arm0) wstop ∧ wstop.halt = .running ∧ (wstop.split 0).st = .stopped ∧
    Debugs (dbg 2 0 w0) 0 2 tgt (b0 w0 arm0) w0 ∧ (w0.split 0).st ≠ .stopped ∧
    Debugs (dbg 3 0 wstop) 0 3 tgt (b0 wstop arm0) wstop ∧ Debugs (dbg 3 0 w0) 0 3 tgt (b0 w0 arm0) w0 ∧
    Debugs (dbg 4 63 wstop) 0 4 tgt (b0 wstop arm0) wstop ∧ regField (dbg 4 63 wstop) 0 = 63 ∧ 63 < wstop.alloc ∧ (wstop.split 0).mask.getLsbD 1 = true ∧
    Debugs (dbg 4 64 wstop) 0 4 tgt (b0 wstop arm0) wstop ∧ regField (dbg 4 64 wstop) 0 = 64 ∧ wstop.alloc ≤ 64 ∧
    Debugs (dbg 4 0x106 wstop) 0 4 tgt (b0 wstop arm0) wstop ∧ regField (dbg 4 0x106 wstop) 0 = 0x106 ∧
    Debugs (dbg 5 63 wstop) 0 5 tgt (b0 wstop arm0) wstop ∧ Debugs (dbg 5 64 wstop) 0 5 tgt (b0 wstop arm0) wstop ∧
    Debugs (dbg 5 0x10B wstop) 0 5 tgt (b0 wstop arm0) wstop ∧ regField (dbg 5 0x10B wstop) 0 = 0x108 + 3 ∧
    (let s : State := { State.reset with pkg := Pkg.reset.modCore 0 (fun k => { k with dbgCmd := 0x48000000 }) }
     (s.pkg.core 0).dbgCmd.getLsbD 27 = true ∧ (s.pkg.core 0).target = none ∧ (s.pkg.core 0).dbgCmd.toNat / 2 ^ 28 = 4) ∧
    (State.reset.pkg.core 0).dbgCmd.getLsbD 27 = false := by
  refine ⟨?_, by decide, by decide, by decide, by decide, ?_, by decide, by decide, ?_, by decide, ?_, ?_, ?_, by decide, by decide, by decide, ?_, by decide, by decide, ?_, by decide,
    ?_, ?_, ?_, by decide, by decide, by decide⟩
  all_goals exact ⟨by decide, by decide, by decide, by decide, by decide, by decide⟩

/-! ## Completions, calls, collectives, the pod -/

/-- A warp with one operation of class 0, performed or not, counted. -/
def wop (d : Bool) : Warp := { w0 with cnt := ((Vector.replicate 7 0).set 0 1), ops := [⟨0, 1, d, []⟩] }

/-- A split of warp 0 sleeps until 5. -/
def slp : Split := { Split.free with mask := 3, st := .blocked, pc := 0x1000, wait := some (Wait.of (.sleep 5)) }
def wsl : Warp := { w0 with splits := [slp, Split.free, Split.free, Split.free] }

/-- A split of warp 0 waits for line 0x80 until t. -/
def wbk (t : DWord) : Warp := { w0 with splits := [{ Split.free with mask := 3, st := .blocked, pc := 0x1000, wait := some { Wait.of (.back 0x80) with data := [t] } }, Split.free, Split.free, Split.free] }

/-- The firmware runs, and event 5 of address space 1 is spilled. -/
def spl (l : List (Nat × Event)) : State := { State.reset with
  pkg := { Pkg.reset with events := (65541, ⟨1, [], true, 0⟩) :: l }, mgmt := { Mgmt.reset with dead := [] } }

theorem witness_CompletionEvents :
    ((st (wop true)).pkg.warp? 0 0 0 = some (wop true) ∧ (wop true).count 0 ≠ 0 ∧
     ((wop true).opsOf 0)[((wop true).opsOf 0).length - (wop true).count 0]? = some ⟨0, 1, true, []⟩ ∧
     ((wop false).opsOf 0)[((wop false).opsOf 0).length - (wop false).count 0]? = some ⟨0, 1, false, []⟩) ∧
    (let x : Walk := ⟨0, cx1, 0x8000, .default⟩
     let s : State := { st w0 with pkg := (st w0).pkg.modDie 0 (fun d => { d with walks := [x, { x with va := 0x9000 }] }) }
     (s.pkg.die 0).walks = x :: [{ x with va := 0x9000 }] ∧ (s.pkg.die 1).walks = []) ∧
    (let w := wbk 5
     (st w).pkg.inWait = [] ∧ (st w).pkg.waitersOn 0 0x80 = [(0, 0, 0, 0)] ∧ (st w).pkg.batchElse 0 0x80 = false ∧
     (st w).pkg.homeDown (256 * 0x80) = false ∧ (({ (st w).pkg with ptime := 5 } : Pkg).waitersOn 0 0x80).any ({ (st w).pkg with ptime := 5 } : Pkg).dueWaiter = true ∧
     ((st w).pkg.waitersOn 0 0x80).any (st w).pkg.dueWaiter = false) ∧
    ((st wsl).pkg.warp? 0 0 0 = some wsl ∧ wsl.splits[0]? = some slp ∧ (st wsl).pkg.ptime < 5) ∧
    (let s : State := { st w0 with pkg := { (st w0).pkg with cows := [⟨16, 0, 0x20000, 3, .engine 1, false⟩] } }
     s.pkg.cows = ⟨16, 0, 0x20000, 3, .engine 1, false⟩ :: [] ∧ s.pkg.cowFirst ⟨16, 0, 0x20000, 3, .engine 1, false⟩ = true ∧ s.pkg.dies.any (fun d => d.2.inReset || d.2.rebuild) = false) ∧
    (st w0).pkg.cows = [] ∧ ((st w0).pkg.core 0).mx.ops = [] ∧
    (let s := spl []
     s.fwAlive s.pkg.evDie = true ∧ List.filter (fun e => e.2.spilled && e.1 / 65536 == 1) s.pkg.events = [(65541, ⟨1, [], true, 0⟩)] ∧ s.pkg.evLive < 8192) ∧
    (let s := spl ((List.range 8192).map (fun k => (131072 + k, ⟨1, [], false, 0⟩)))
     8192 ≤ s.pkg.evLive ∧ List.filter (fun e => e.2.spilled && e.1 / 65536 == 1) s.pkg.events = [(65541, ⟨1, [], true, 0⟩)]) ∧
    State.reset.fwAlive State.reset.pkg.evDie = false := by
  refine ⟨by decide, by decide, by decide, by decide, by decide, rfl, by decide, by decide, by decide +kernel, by decide⟩

/-- A copy of 8 bytes of scratchpad of the block of `scp`, of which `n` are written. -/
def cpy (n : Nat) : Copy := { Copy.ofWords 3 iArm ctx0 1 0 true (srcWords (wcp 8) iArm 8 (r 4) 0) with written := n }
def scy (y : Copy) : State := { scp (wcp 8) with pkg := (scp (wcp 8)).pkg.modCore 0 (fun k => { k with copies := [(1, y)] }) }

theorem witness_CompletionEvents_copies :
    (let s := scy (cpy 4)
     (s.pkg.core 0).copies.find? 1 = some (cpy 4) ∧ s.pkg.isFrozen 1 (copyChannel 0 1) = false ∧ (cpy 4).fault = none ∧ (cpy 4).written < (cpy 4).total ∧ (cpy 4).aben = false ∧
     (match s.pkg.copyDests (cpy 4) with
      | some ds => (match s.pkg.copyPiece 0 1 (cpy 4) ds with | .ok _ _ => true | _ => false)
      | none => false) = true ∧ (cpy 8).total ≤ (cpy 8).written) ∧
    (let y : Copy := { cpy 4 with form := 0, src := 0x1000 }
     (match (scy y).pkg.copyDests y with
      | some ds => (match (scy y).pkg.copyPiece 0 1 y ds with | .fail _ _ => true | _ => false)
      | none => false) = true ∧ y.aben = false ∧ y.written < y.total) ∧
    (let s : State := { scy (cpy 4) with pkg := { (scy (cpy 4)).pkg with frozen := [⟨1, 1, copyChannel 0 1, 0, 0, 0, some 0, none⟩] } }
     s.pkg.isFrozen 1 (copyChannel 0 1) = true) := by
  exact ⟨by decide +kernel, by decide +kernel, by simp [Pkg.isFrozen]⟩

/-- A call of a class with a header word, sent from lane 0 of warp 0 through queue 0, under number 0. -/
def cl (cls : Nat) (w0_ : Word) (ws : List Word) : Call := ⟨0, 0, cx1, 0, 0, cls, w0_ :: ws, 0, false, 0, [], none, false⟩

/-- Its unit has it in its input queue; the surface of an ordered call stands at 0xA000, with one tile at 0xB000 and
its token at 0xA100, of which NEXT is n. -/
def scl (c : Call) (n : Byte) : State :=
  let s : State := { st w0 with pkg := (st w0).pkg.modCore 0 (fun k => { k with calls := [(0, c)], unitIn := [(c.cls, [0])] }) }
  { s with pkg := { s.pkg with
      mem := mem1 ([(0xA001, 0xB0), (0xA010, 0), (0xA011, 0xA1), (0xA018, 1), (0xA01A, 1)].filter (fun e => e.2 != 0) ++ [(0xA100, n)].filter (fun e => e.2 != 0))
      dir := [(0xA0, ⟨some 0, true, [], 0⟩), (0xA1, ⟨some 0, true, [], 0⟩), (0xB0, ⟨some 0, true, [], 0⟩)] } }

/-- A depth retirement of the surface at 0xA000 with token 1. -/
def cret : Call := cl 1 0x00010503 [0, 0xA000, 0, 0]

theorem witness_UnitCalls_free :
    (∀ e ∈ ([(0, 0x00000D01), (3, 0x00000801), (3, 0x00000902), (4, 0x00000701), (5, 0x00001001), (6, 0x00000D01)] : List (Nat × Word)),
      UnitAt (scl (cl e.1 e.2 []) 0) 0 0 e.1 (fun t => t == (cl e.1 e.2 []).type) (cl e.1 e.2 []) ∧
      0 ∈ (((scl (cl e.1 e.2 []) 0).pkg.core 0).unitQueue e.1).take 8 ∧ (cl e.1 e.2 []).lenOk = true ∧ (cl e.1 (e.2 + 0x100) []).lenOk = false) ∧
    (let c := cl 0 0x00000D01 []; let s := scl c 0
     (match rasterise ⟨0, 0, c, cx1⟩ s.pkg with | .ret q _ _ => (q.core 0).calls.find? 0 == some c | _ => false) = true) ∧
    (let c := cl 5 0x00001001 []; let s := scl c 0
     (match boxRun ⟨0, 0, c, cx1⟩ s.pkg with | .ret q _ _ => (q.core 0).calls.find? 0 == some c | _ => false) = true) := by
  refine ⟨?_, by decide +kernel, by decide +kernel⟩
  intro e he
  simp only [List.mem_cons, List.not_mem_nil, or_false] at he
  rcases he with rfl | rfl | rfl | rfl | rfl | rfl <;> exact ⟨⟨by unfold CallIs; decide, by decide, by decide, by decide, by decide⟩, by decide, by decide, by decide⟩

theorem witness_UnitCalls_ordered :
    (let s := scl cret 1; let j : Job := ⟨0, 0, cret, cx1⟩
     UnitAt s 0 0 1 (· == 3) cret ∧ heldCalls s.pkg 0 1 = [] ∧ s.pkg.mayTake 0 1 0 = true ∧ cret.failed = false ∧ cret.lenOk = true ∧
     (match j.turn s.pkg with
      | .commit q sf n => n == 1 && (match depthRun j sf q with
        | .ret q' _ _ => (match j.write q' (j.tokenVa sf) (bytesOf 2 ((n + 1) % 65536)) with
          | .ok q'' _ => (q''.core 0).calls.find? 0 == some cret && (heldCalls q'' 0 1).isEmpty
          | _ => false)
        | _ => false)
      | _ => false) = true) ∧
    (let s := scl cret 0; let j : Job := ⟨0, 0, cret, cx1⟩
     (match j.turn s.pkg with | .held => true | _ => false) = true) ∧
    (let s := scl cret 2; let j : Job := ⟨0, 0, cret, cx1⟩
     (match j.turn s.pkg with | .at_once .reject => true | _ => false) = true ∧ 5 ≤ cret.words.length ∧ cret.token < 65536) ∧
    (let s : State := { scl cret 1 with pkg := (scl cret 1).pkg.modCore 0 (fun k => { k with unitIn := [], unitHold := [(1, [0])] }) }
     heldCalls s.pkg 0 1 = [0] ∧ (s.pkg.examine depthRun 0 0).isSome = true) :=
  ⟨⟨⟨by unfold CallIs; decide, by decide, by decide, by decide, by decide⟩, by decide +kernel, by decide, by decide, by decide, by decide +kernel⟩, by decide +kernel,
    by decide +kernel, by decide +kernel⟩

/-- A finished class 3 call whose record returns to queue 1, and a class 8 record for warp 1. -/
def wcr : Warp := { w0 with binds := [(0, ⟨8, 1, 1, 0⟩)], calls := [⟨0, 1, 0, 0, some 1⟩] }

theorem witness_UnitCalls_returns :
    (let c : Call := { cl 3 0x00000801 [] with done := true }
     let s : State := { st wcr with pkg := (st wcr).pkg.modCore 0 (fun k => { k with calls := [(0, c)] }) }
     CallIs 0 0 c s.pkg.admitColls ∧ c.done = true ∧ c.cls ≠ 8 ∧ s.pkg.admitColls.warp? 0 0 0 = some wcr ∧
     wcr.calls.find? (fun r => r.call == 0) = some ⟨0, 1, 0, 0, some 1⟩ ∧ wcr.live.getLsbD 0 = true) ∧
    (let c : Call := cl 8 0x00000200 []
     let v := Warp.fresh 1 64 3 0x1000 0
     let s : State := { State.reset with pkg := { p0 (Block.fresh 0 0 0 0 0 0 0 1 ctx0 0 65536 0 [(0, wcr), (1, v), (32, arm0)]) ln0 with
       cores := [(0, { Core.reset with blocks := [(0, Block.fresh 0 0 0 0 0 0 0 1 ctx0 0 65536 0 [(0, wcr), (1, v), (32, arm0)])], calls := [(0, c)], unitIn := [(8, [0])] })] } }
     CallIs 0 0 c s.pkg ∧ s.pkg.warp? 0 0 0 = some wcr ∧ wcr.bind? 0 = some ⟨8, 1, 1, 0⟩ ∧ s.pkg.warp? 0 0 1 = some v ∧ v.retCount 1 < 64 ∧
     v.live.getLsbD 0 = true ∧ ((s.pkg.core 0).unitQueue 8).head? = some 0) :=
  ⟨⟨by unfold CallIs; decide, by decide, by decide, by decide, by decide, by decide⟩, by unfold CallIs; decide, by decide, by decide, by decide, by decide, by decide, by decide⟩

/-- Group 0 of packages 0 and 1, of rank 0; a reduction of nothing is at work. -/
def gr2 : Group := ⟨true, 0, 2, 0x8000, [0, 1], none, [], []⟩
def cl1 : Coll := Coll.ofDesc 1 0 0 0 ctx0 1 0 false 0 (List.replicate 16 0)
def sg (g : List (Nat × Group)) (l : List (Nat × Coll)) : State := { sq qa [(0x8000, 2, 1)] with pkg := { (sq qa [(0x8000, 2, 1)]).pkg with groups := g, colls := l, link := ⟨true, 0, 1, 0⟩ } }

theorem witness_GroupsAndMessages :
    (sg [(0, gr2)] [(0, cl1)]).pkg.groupBusy 0 = true ∧
    (let s := sg [(0, { gr2 with valid := false, members := [] })] []
     s.pkg.groupBusy 0 = false ∧ (0x80000002 : Word).getLsbD 31 = true ∧ (0x80000002 : Word).toNat % 1024 ≤ 576 ∧
     (0x80000002 : Word).toNat / 65536 % 1024 < (0x80000002 : Word).toNat % 1024 ∧ (match s.pkg.readMembers 0 (s.pkg.group 0).addr 2 with | .ok (_, some l) => l == [0, 1] | _ => false) = true ∧
     ([0, 1] : List Nat)[0]? = some s.pkg.link.pkgid) ∧
    (let s := sg [(0, gr2)] [(0, cl1)]; let p0 := s.pkg.admitColls
     p0.link.linken = true ∧ State.reset.pkg.admitColls.link.linken = false ∧ p0.isFrozen 3 (0 % 2) = false ∧ (p0.group 0).valid = true ∧ 1 ≠ (p0.group 0).rank ∧ 1 < (p0.group 0).size ∧
     List.find? (fun e => e.2.group == 0 && e.2.cause.isNone && (e.2.got.find? 1).isNone) p0.colls = some (0, cl1) ∧
     List.find? (fun e => e.2.group == 0) p0.colls = some (0, cl1) ∧ cl1.cause = none ∧ (∃ r ∈ cl1.needs (p0.group 0), cl1.got.find? r = none) ∧
     1 ∈ (p0.group 0).members ∧ 5 ∉ (p0.group 0).members ∧ (p0.group 0).members[1]? = some 1 ∧ (0, cl1) ∈ p0.colls ∧ cl1.group = 0 ∧
     1 ∈ cl1.needs (p0.group 0) ∧ cl1.got.find? 1 = none) ∧
    (let y : Coll := { cl1 with got := [(1, [])] }; let s := sg [(0, gr2)] [(0, y)]; let p0 := s.pkg.admitColls
     y.cause = none ∧ (∀ r ∈ y.needs (p0.group 0), y.got.find? r ≠ none) ∧ (match p0.runColl y (p0.group 0) with | .ok _ => true | .error _ => false) = true) ∧
    (let y : Coll := { cl1 with cause := some ⟨0x16, 0, 0⟩ }; let s := sg [(0, gr2)] [(0, y)]
     List.find? (fun e => e.2.group == 0) s.pkg.admitColls.colls = some (0, y) ∧ y.cause = some ⟨0x16, 0, 0⟩) := by
  decide +kernel

/-- A pod-remote load of 8 bytes of lane 1 into v2:3, sent on port 0. -/
def pod1 : Pod := ⟨0, 0, 0, 1, 1, 0, 0x1000, 0x1004, 0x5000, 2 ^ 46 + 0x5000, .w64, some (2, 2), [], none, none, none, some 0, 0, 1⟩
def spod (x : Pod) (t : DWord) : State := { st w0 with pkg := { (st w0).pkg with pods := [(1, x)], ptime := t, link := ⟨true, 0, 1, 0⟩ } }
def sln : State := { st w0 with pkg := { (st w0).pkg with link := ⟨true, 0, 1, 0⟩ } }

theorem witness_PodTraffic :
    ((spod pod1 0).pkg.pods.find? 1 = some pod1 ∧ pod1.port ≠ none ∧ (spod pod1 0).pkg.link.linken = true ∧ pod1.queue = none ∧ pod1.lane < 32 ∧ (spod pod1 0).pkg.warp? 0 0 0 ≠ none ∧ { pod1 with port := none }.port = none ∧
     (spod pod1 0).pkg.ptime.toNat < pod1.sent.toNat + 20000 ∧ pod1.sent.toNat + 20000 ≤ (spod pod1 20000).pkg.ptime.toNat) ∧
    (st w0).pkg.xreset.find? (15 / 8) = none ∧
    (sln.pkg.link.linken = true ∧ sln.pkg.link.portUp ≠ 0 ∧ (1 : Nat) ≠ sln.pkg.link.pkgid ∧ sln.pkg.isFrozen 5 1 = false ∧ sln.mgmt.check = false ∧ 1 ∉ sln.pkg.shunned ∧
     noStash sln.pkg ∧ memSize < memSize + 1 ∧ 0x5000 + 256 ≤ memSize ∧ (∀ a, 0x5000 ≤ a → a < 0x5000 + 256 → sln.pkg.homeDown (256 * (a / 256)) = false) ∧
     (∀ a, 0x5000 ≤ a → a < 0x5000 + 256 → a / 64 ∉ sln.pkg.poison)) ∧
    (let s : State := { sln with mgmt := { sln.mgmt with check := true } }; s.mgmt.check = true ∧ s.mgmt.windows = []) ∧
    (let s : State := { sln with pkg := { sln.pkg with frozen := [⟨5, 1, 1, 0, 0, 0, some 0, none⟩] } }; s.pkg.isFrozen 5 1 = true) := by
  refine ⟨by decide, by decide, ⟨by decide, by decide, by decide, by decide, by decide, by decide, by unfold noStash; decide, by decide, by decide, ?_, by simp [sln, st, p0, Pkg.reset]⟩,
    by decide, by decide⟩
  intro a h1 h2
  have e : 256 * (a / 256) = 0x5000 := by omega
  rw [e]; decide

/-! ## Management and the machine as a whole -/

/-- A state with a frozen matrix unit in entry 0, and one whose package is held. -/
def sfz : State := { State.reset with pkg := { Pkg.reset with frozen := [⟨2, 1, 0, 0, 0, 0, some 0, none⟩] } }
def shold : State := { State.reset with pkg := { Pkg.reset with hold := true } }

theorem witness_ErrorsAndThrottle_storage : 64 * 0 < memSize ∧ (State.reset.pkg.die 0).merr.scrub = none ∧
    (let s : State := { State.reset with pkg := Pkg.reset.modDie 0 (fun d => { d with merr := { d.merr with scrub := some 0x40 } }) }
     (s.pkg.die 0).merr.scrub = some 0x40 ∧ noStash s.pkg ∧ (0x40 : DWord).toNat % 2 ^ 46 / 64 * 64 < memSize ∧
     homeDie ((0x40 : DWord).toNat % 2 ^ 46 / 64 * 64) = 0 ∧ s.pkg.homeDown 0x40 = false) :=
  ⟨by decide, by decide, by decide, by unfold noStash; decide, by decide, by decide, by decide⟩

theorem witness_FreezeAndHold :
    violationKnown ⟨2, 1, 0, 0, 0⟩ = true ∧ State.reset.pkg.isFrozen 2 0 = false ∧ violationKnown ⟨9, 9, 0, 0, 0⟩ = false ∧ sfz.pkg.isFrozen 2 0 = true ∧
    (∀ f ∈ State.reset.pkg.frozen, f.entry ≠ some 0) ∧ sfz.pkg.frozen.find? (fun f => f.entry == some 0) = some ⟨2, 1, 0, 0, 0, 0, some 0, none⟩ ∧
    (∀ g ∈ leftFrozen sfz 0, ¬ (g.cls = 2 ∧ g.id = 0)) ∧ State.reset.pkg.hold = false ∧ shold.pkg.hold = true ∧ shold.mgmt.held = false ∧ shold.pkg.quiet = true ∧
    shold.pkg.traces = [] := by
  decide

theorem witness_DieResets : State.reset.pkg.resetBusy = false ∧ (State.reset.pkg.die 3).inReset = false ∧ (State.reset.pkg.die 3).drain = none ∧
    bare State.reset.pkg 0 ∧ State.reset.pkg.traces = [] ∧
    (let s : State := { State.reset with pkg := Pkg.reset.modDie 0 (fun d => { d with drain := some [] }) }
     (s.pkg.die 0).drain = some [] ∧ bare s.pkg 0 ∧ s.pkg.traces = []) ∧
    (let s : State := { State.reset with pkg := { Pkg.reset with dir := [(5, ⟨some 0, true, [0], 0⟩)] } }
     (5, ⟨some 0, true, [0], 0⟩) ∈ s.pkg.dir ∧ ∀ x ∈ ([0] : List Nat), x = 0) ∧
    State.reset.pkg.xreset = [] ∧ State.reset.pkg.groups = [] ∧ State.reset.pkg.colls = [] ∧ State.reset.pkg.queues = [] ∧
    (let s : State := { State.reset with pkg := { Pkg.reset with xreset := [(1, (true, 5))], ptime := 1000005 } }
     s.pkg.xreset ≠ [] ∧ s.pkg.xreset.find? 1 = some (true, 5) ∧ (5 : DWord).toNat + 1000000 ≤ s.pkg.ptime.toNat ∧ ¬ s.pkg.ptime.toNat < (5 : DWord).toNat + 1000000) := by
  unfold bare; decide

/-- Die 0 in throttle stage 2 since time 0, its condition gone since time 0; and shut down. -/
def thr (st : Nat) (r : Bool) (t : DWord) : State := { State.reset with pkg := { Pkg.reset.modDie 0 (fun d => { d with inReset := r, thr := { d.thr with stage := st, good := some 0 } }) with ptime := t } }

theorem witness_ErrorsAndThrottle_power :
    (0 : DWord).toNat ≤ State.reset.pkg.ptime.toNat ∧ (State.reset.pkg.die 0).monDue = 0 ∧
    (let s : State := { State.reset with pkg := { Pkg.reset with ptime := 200000 } }
     s.pkg.powerAt + 2 ≤ s.pkg.ptime.toNat / 100000 ∧ State.reset.pkg.ptime.toNat / 100000 < State.reset.pkg.powerAt + 2) ∧
    (let r : Readings := ⟨List.replicate 32 800, List.replicate 96 0, List.replicate 96 750, []⟩
     let k := (State.reset.pkg.die 0).thr; let x := Readings.extremes (r.temp.take 32) (r.vcore.take 96)
     x.1 < 1000 ∧ 650 ≤ x.2 ∧ stageFor k.tHold k.tPace x.1 (decide (x.2 < 700) && k.low) < 3) ∧
    ((thr 2 false 100000000).pkg.die 0).thr.stage = 2 ∧ ((thr 2 false 100000000).pkg.die 0).thr.entered.toNat + 100000000 ≤ (thr 2 false 100000000).pkg.ptime.toNat ∧
    ((thr 2 false 99999999).pkg.ptime.toNat < ((thr 2 false 99999999).pkg.die 0).thr.entered.toNat + 100000000) ∧
    ((thr 1 false 1000000).pkg.die 0).thr.good = some 0 ∧ ((thr 1 false 1000000).pkg.die 0).thr.stage ≠ 0 ∧ (0 : DWord).toNat + 1000000 ≤ (thr 1 false 1000000).pkg.ptime.toNat ∧
    ((thr 3 true 10000000).pkg.die 0).thr.stage = 3 ∧ ((thr 3 true 10000000).pkg.die 0).inReset = true ∧ (0 : DWord).toNat + 10000000 ≤ (thr 3 true 10000000).pkg.ptime.toNat ∧
    (State.reset.pkg.die 0).thr.good = none := by
  decide +kernel

/-- `add.i64 v[8:9], v[0:1], v[10:11]` at 0x1000, which the core's TLB maps to itself. -/
def srun : State := { st w0 with agenda := [.run i0], cur := none, pkg := { (st w0).pkg.modCore 0 (fun k => { k with
  tlb := [⟨1, 1, 4096, 0x1000, false, false, false, true, true⟩] }) with
  mem := [(0x1000, 0x14), (0x1002, 0xC4), (0x1003, 0x07)], dir := [(0x10, ⟨some 0, true, [], 0⟩)] } }

theorem witness_StepRunsDecoded :
    srun.agenda = .run i0 :: [] ∧ Fetches srun.pkg.tickOn i0 (b0 w0 arm0) w0 ∧
    (match (beforeFetch srun.pkg.tickOn i0 w0).xlate 0 ctx0 (fetchAt w0 i0) .fetch with
     | .ok (p2, xl) => p2.plainPa xl == some 0x1000 && !p2.homeDown 0x1000 && !p2.poisoned 0x1000 && p2.readMem 0x1000 4 == [0x14, 0, 0xC4, 7]
     | .error _ => false) = true ∧
    ({ State.reset with agenda := [.event (.powerWindow true)] } : State).agenda = .event (.powerWindow true) :: [] ∧ isEvent (.powerWindow true) = true :=
  ⟨rfl, ⟨by decide +kernel, by decide +kernel, by decide +kernel, by decide +kernel, by decide +kernel, by decide, by decide, by decide +kernel, by decide +kernel, by decide +kernel⟩,
    by decide +kernel, rfl, by decide +kernel⟩

theorem witness_StepRunsDecoded_words : (match decode [0x14, 0, 0xC4, 7] with | .ok (_, []) => true | _ => false) = true ∧
    (match decode [0, 0, 0, 0xFF] with | .ok _ => false | .error _ => true) = true := by decide +kernel

theorem witness_RoundTrip_and_InstructionsGoOn : (∃ w, encode (.pfxOff 0x1000) = some w) ∧ (Instr.pfxOff 0x1000).wellFormed = true ∧ encodes (.pfxOff 0x1000) ∧
    (st w0).cur = some i0 ∧ (st w0).pkg.warp? 0 0 0 = some w0 ∧ (w0.split 0).mask ≠ 0 ∧ encode (.powerWindow true) = none ∧
    (∃ w i, w < 2 ^ 32 ∧ decodeWord w = .ok i) :=
  ⟨⟨_, rfl⟩, by decide, ⟨_, rfl⟩, rfl, by decide, by decide, rfl, ⟨0x00801000, .pfxOff 0x1000, by decide, by decide +kernel⟩⟩

theorem witness_StepKeepsManagement : MgmtInv State.reset.mgmt ∧ (match step { State.reset with agenda := [.event (.powerWindow true)] } with | .next t => t.pkg.paced | _ => false) = true :=
  ⟨⟨by decide, by decide, by decide, by decide⟩, by decide +kernel⟩

/-! ## Where instructions complete -/

/-- v1 the count, bytes or token of both lanes; v2, the address, 0. -/
def wab : Warp := wr [(32, 1), (33, 1)]

/-- The same with an object at offset 0 that expects two arrivals. -/
def sab : State := { st wab with pkg := (st wab).pkg.setAbar 0 0 0 ⟨false, true, 2, 0, 0, [0, 0, 0, 0, 0, 0, 0, 0], false⟩ }
def bab : Block := (b0 wab arm0).writeSp 0 (bytesOf 32 (2 ^ 30 + 2 * 2 ^ 11))

theorem witness_ArrivalBarriersComplete :
    (InScratch (st wab) i0 (b0 wab arm0) 0 32 ∧ leadNat wab i0 .always (r 2) = 0 ∧ Sound ((st wab).pkg.abarAt 0 0 0) ∧
     Issues (st wab) i0 wab (onceForm .always [(.src .w32, r 1), (.src .w32, r 2)]) ∧ leadNat wab i0 .always (r 1) % 2048 = 1 ∧
     ((st wab).pkg.abarAt 0 0 0).valid = false ∧
     Issues (st wab) i0 wab { Form.wa .always [(.upd .w32, r 1), (.src .w32, r 2)] with scv := some 2 } ∧
     Issues (st wab) i0 wab (onceForm .always [(.src .w32, r 2)])) ∧
    (InScratch sab i0 bab 0 32 ∧ Sound (sab.pkg.abarAt 0 0 0) ∧ Drained sab i0 ∧ (sab.pkg.abarAt 0 0 0).valid = true ∧
     Issues sab i0 wab (onceForm .always [(.src .w32, r 1), (.src .w32, r 2)]) ∧ leadNat wab i0 .always (r 1) < 2 ^ 27 ∧
     (sab.pkg.abarAt 0 0 0).owed.getD 0 0 + (1 : Nat) ≤ 8388607 ∧
     Issues sab i0 wab { Form.wa .always [(.dst .w32, r 1), (.src .w32, r 2)] with scv := some 2 } ∧
     (sab.pkg.abarAt 0 0 0).arrived + (lanesOf (acts wab i0 .always)).length ≤ (sab.pkg.abarAt 0 0 0).expected ∧
     Issues sab i0 wab { Form.wa .always [(.upd .w32, r 1), (.src .w32, r 2)] with scv := some 2 } ∧
     (sab.pkg.abarAt 0 0 0).arrived < (sab.pkg.abarAt 0 0 0).expected ∧
     ∀ l ∈ lanesOf (acts wab i0 .always), token wab i0 (r 1) l ≠ (sab.pkg.abarAt 0 0 0).phase) :=
  ⟨⟨⟨by decide, by decide, by decide, .inl (by decide)⟩, by decide, by unfold Sound; decide, issues_of (by decide) rfl rfl, by decide, by decide,
      issues_of (by decide) rfl rfl, issues_of (by decide) rfl rfl⟩,
    ⟨⟨by decide, by decide, by decide, .inl (by decide)⟩, by unfold Sound; decide, by unfold Drained; decide, by decide,
      issues_of (by decide) rfl rfl, by decide, by decide, issues_of (by decide) rfl rfl, by decide, issues_of (by decide) rfl rfl, by decide, by decide⟩⟩

/-- Queue 0 bound; v4 and v5 of both lanes the header of a record of two words that asks for no return. -/
def wqn : Warp := { wr [(128, 0x0200), (129, 0x0200), (160, 8), (161, 8)] with binds := [(0, ⟨3, 0, 0, 0⟩)] }

theorem witness_QueuesComplete :
    (Issues (st w0) i0 w0 (qForm .always [(.src .w32, r 0)] true) ∧ w0.bind? 0 = none) ∧
    (wqn.bind? 0 = some ⟨3, 0, 0, 0⟩ ∧ Issues (st wqn) i0 wqn (qForm .always [] true) ∧ wqn.queueBusy 0 = false ∧ wqn.calls = [] ∧
     wqn.callFaults = [] ∧ Issues (st wqn) i0 wqn (qForm .always [(.dst .w32, r 0)] false) ∧
     Issues (st wqn) i0 wqn (qForm .always [(.dst .w32, r 0)] true) ∧
     Issues (st wqn) i0 wqn { qForm .always [(.call, r 4)] false with nb := true } ∧ wqn.count 3 < 63 ∧ 4 + 16 ≤ min wqn.alloc 112 ∧
     wqn.rpoison = [] ∧ (((st wqn).pkg.core 0).unitQueue 3).length + (lanesOf (acts wqn i0 .always)).length ≤ 64 ∧
     ∀ l ∈ lanesOf (acts wqn i0 .always), sendLen wqn 4 l = 2 ∧ (wqn.rd 5 l).toNat / 16 % 2 ^ 12 = 0 ∧ (wqn.rd 5 l).getLsbD 3 = true) ∧
    (Issues (st wq) i0 wq { qForm .always [(.blockDst 16, r 16)] false with nb := true } ∧ wq.callFaults = [] ∧
     ∀ l ∈ lanesOf (acts wq i0 .always), wq.retsOf 0 l ≠ []) :=
  ⟨⟨issues_of (by decide) rfl rfl, by decide⟩,
    ⟨by decide, issues_of (by decide) rfl rfl, by decide, rfl, rfl, issues_of (by decide) rfl rfl, issues_of (by decide) rfl rfl,
      issues_of (by decide) rfl rfl, by decide, by decide, rfl, by decide, by decide⟩,
    issues_of (by decide) rfl rfl, rfl, by decide⟩

/-- The armature, as producer, copies 8 bytes between offsets 0 and 64, in one row, to the blocks of mask 1. -/
def wc6 : Warp := { arm0 with regs := [(192, 64), (256, 8), (320, 1)] }

theorem witness_CopiesComplete :
    Produces (scp wc6) iArm wc6 .always [(.dst .w32, r 0), (.block 8, r 4)] { b0 w0 wc6 with prod := 4 } ∧
    (scp wc6).pkg.copyEntry iArm ≠ none ∧
    (∀ form, octetOk (scp wc6) iArm { b0 w0 wc6 with prod := 4 } form
      (fun k => ((srcWords wc6 iArm 8 (r 4) (lead wc6 iArm .always)).getD k 0).toNat)) ∧
    Produces (scp wc6) iArm wc6 .always [] { b0 w0 wc6 with prod := 4 } ∧ wc6.count 2 < 63 ∧
    Produces (scp wc6) iArm wc6 .always [(.dst .w32, r 0), (.src .w32, r 1)] { b0 w0 wc6 with prod := 4 } ∧
    Issues (st w0) i0 w0 (Form.wa .always []) ∧ w0.count 0 ≤ 0 ∧ w0.callFaults = [] ∧ w0.ops = [] := by
  refine ⟨⟨issues_of (by decide) rfl rfl, by decide, by decide⟩, by decide, fun form => ?_, ⟨issues_of (by decide) rfl rfl, by decide, by decide⟩,
    by decide, ⟨issues_of (by decide) rfl rfl, by decide, by decide⟩, issues_of (by decide) rfl rfl, by decide, rfl, rfl⟩
  refine ⟨by decide, by decide, by decide, by decide, fun _ => by unfold fitsIn; decide, fun _ => by unfold fitsIn; decide,
    fun _ => by unfold fitsIn; decide, fun _ => ⟨by decide, fun pos hp hb => ?_⟩, fun _ => by unfold fitsIn; decide⟩
  interval_cases pos
  · exact ⟨_, rfl, by decide⟩
  all_goals exact absurd hb (by decide)

/-- A descriptor at offset 0: COUNT 1, one box, a neighbour table at a misaligned address. -/
def bco : Block := { b0 w0 arm0 with sp := [(4, 1), (40, 4), (48, 1)] }
def sco : State := { st w0 with pkg := { p0 bco ln0 with groups := [(0, ⟨true, 0, 1, 0, [0], none, [], []⟩)] } }

theorem witness_CollectivesAndStacksComplete :
    (let ds : List Word := (List.range 16).map (fun k => BitVec.ofNat 32 (recNat (bco.readSp 0 64) (4 * k) 4))
     Issues sco i0 w0 (onceForm .always [(.dst .w32, r 0), (.src .w32, r 1)]) ∧ InScratch sco i0 bco 0 64 ∧ leadNat w0 i0 .always (r 1) = 0 ∧
     bco.unwaited = [] ∧ w0.count 4 < 63 ∧ (∀ f < 5, collBad f ds = false) ∧ (sco.pkg.group (collGroup ds)).valid = true ∧
     sco.pkg.isFrozen 3 (collGroup ds % 2) = false ∧ (dva ds 10).toNat % 64 ≠ 0) ∧
    (let w := wr [(32, 1), (33, 1)]
     Issues (st w) i0 w { onceForm .always [(.src .w32, r 1), (.src .w32, r 2)] with arm := false } ∧ leadNat w i0 .always (r 2) % 256 = 0 ∧
     leadNat w i0 .always (r 1) = 1 ∧ fitsIn (b0 w arm0) (leadNat w i0 .always (r 2)) (1 * 256)) ∧
    (let w : Warp := { w0 with stkCap := 2 }
     (st w).pkg.block? 0 0 = some (b0 w arm0) ∧ Issues (st w) i0 w (Form.w .always [(.src .w64, r 2)]) ∧
     Issues (st w) i0 w (Form.w .always [(.dst .w64, r 2)]) ∧ Issues (st w) i0 w (Form.w .always [(.dst .w32, r 2)])) :=
  ⟨⟨issues_of (by decide) rfl rfl, ⟨by decide, by decide, by decide, .inl (by decide)⟩, by decide, rfl, by decide, by decide, by decide,
      by decide, by decide⟩,
    ⟨issues_of (by decide) rfl rfl, by decide, by decide, by unfold fitsIn; decide⟩,
    by decide, issues_of (by decide) rfl rfl, issues_of (by decide) rfl rfl, issues_of (by decide) rfl rfl⟩

/-- The forms with a descriptor have theirs in `witness_MatrixAndArmature`. -/
theorem witness_ArmatureFormsComplete : Issues (sa arm0) iArm arm0 (mxOps .always [(.src .w32, r 1)]) ∧ UnitOpen (sa arm0) iArm ∧
    Drained (sa arm0) iArm ∧ (b0 w0 arm0).feed.length < 64 ∧ Issues (sa arm0) iArm arm0 (mxOps .always []) ∧
    ((sa arm0).pkg.core 0).mx.ops = [] :=
  ⟨issues_of (by decide) rfl rfl, .inr ⟨by decide, by decide⟩, by unfold Drained; decide, by decide, issues_of (by decide) rfl rfl, by decide⟩

/-! ## Instructions inside atomic regions -/

/-- The form of an integer instruction of two sources, of one source, and of a pair. -/
def f3 : Form := { Form.wa .always [(.dst .w32, r 0), (.src .w32, r 1), (.src .w32, r 2)] with region := true }
def f2 : Form := { Form.wa .always [(.dst .w32, r 0), (.src .w32, r 1)] with region := true }
def f4 : Form := { Form.wa .always [(.dst .w64, r 0), (.src .w64, r 2)] with region := true }
def fc : Form := { Form.wa .always [(.src .w32, r 1), (.src .w32, r 2)] with region := true, tag := .own }

/-- Lane 0 is alone in region x, its registers as given. -/
def wrx (x : Region) (l : List (Nat × Word)) : Warp := { Warp.fresh 0 64 1 0x1000 0 with regions := [(0, x)], regs := l }

/-- A region of one load whose symbol v1 holds; of that symbol in v1 and v2; with 16 registers written; with 16 constraints. -/
def ld0 : ArLoad := ⟨0x1100, 0x1100, 4, 5, 5, false, 0⟩
def rg1 : Region := { rg0 with loads := [ld0], tags := [(1, ⟨0, 0, 0, false⟩)] }
def rg2 : Region := { rg0 with loads := [ld0], tags := [(1, ⟨0, 0, 0, false⟩), (2, ⟨0, 0, 4, false⟩)] }
def rg3 : Region := { rg0 with loads := [ld0], tags := [(2, ⟨0, 0, 0, true⟩)] }
def rgW : Region := { rg0 with written := (List.range 16).map (· + 8) }
def rgC : Region := { rg1 with cons := List.replicate 16 (equals 0 5) }
def rgL : Region := { rg0 with loads := List.replicate 8 ld0 }
def rgS : Region := { rg0 with stores := List.replicate 8 ⟨none, 0x1100, 4, none, 0⟩ }

theorem in_region {s : State} {w : Warp} {f : Form} {x : Region} (h : comesB s i0 w f none = true) (hw : w.regions = [(0, x)])
    (ha : acts w i0 f.guard = laneBit 0) (hr : f.laneFault w 0 = none) (ht : x.tags.sorted = true) (hs : x.saved.sorted = true) :
    InRegion s i0 w f 0 x := ⟨comes_of h, hw, ha, by decide, hr, ht, hs⟩

theorem witness_RegionArithmetic :
    (∀ x ∈ [rg0, rgW, rg1, rgC, rg2], InRegion (st (wrx x [])) i0 (wrx x []) f3 0 x) ∧ direct (r 0) ∧
    untagged rg0 (r 1) 1 ∧ fits rg0 (regsAt (r 0) 1) ∧ untagged rgW (r 1) 1 ∧ (0 : Nat) ∉ rgW.written ∧ rgW.written.length = 16 ∧
    carries rg1 (r 1) 1 ⟨0, 0, 0, false⟩ ∧ untagged rg1 (r 2) 1 ∧ (pinned rg1 0).2.length ≤ 16 ∧ fits rg1 (regsAt (r 0) 1) ∧
    rgC.cons.length = 16 ∧ rgC.loads[0]? = some ld0 ∧ ld0.eq = false ∧
    InRegion (st (wrx rg1 [])) i0 (wrx rg1 []) f2 0 rg1 ∧ InRegion (st (wrx rg3 [])) i0 (wrx rg3 []) f4 0 rg3 ∧
    carries rg3 (r 2) 2 ⟨0, 0, 0, true⟩ ∧ fits rg3 (regsAt (r 0) 2) ∧
    carries rg2 (r 1) 1 ⟨0, 0, 0, false⟩ ∧ carries rg2 (r 2) 1 ⟨0, 0, 4, false⟩ ∧
    untagged rg1 (r 0) 1 ∧ InRegion (st (wrx rg1 [])) i0 (wrx rg1 []) fc 0 rg1 ∧ rg1.cons.length < 16 ∧
    (let k : Instr := .ixset .always (r 0) 0
     ∃ f, NoRegion k f ∧ Comes (st (wrx rg0 [])) i0 (wrx rg0 []) f none) := by
  refine ⟨?_, .inl ⟨_, rfl⟩, ?_, ?_, ?_, by decide, by decide, ⟨_, rfl, by decide, by decide, ?_⟩, ?_, by decide, ?_, by decide, rfl, rfl,
    in_region (by decide) rfl (by decide) (by decide) (by decide) (by decide), in_region (by decide) rfl (by decide) (by decide) (by decide) (by decide),
    ⟨_, rfl, by decide, by decide, ?_⟩, ?_, ⟨_, rfl, by decide, by decide, ?_⟩, ⟨_, rfl, by decide, by decide, ?_⟩, ?_,
    in_region (by decide) rfl (by decide) (by decide) (by decide) (by decide), by decide, ⟨_, .ixset .always (r 0) 0, comes_of (by decide)⟩⟩
  · intro x hx
    simp only [List.mem_cons, List.not_mem_nil, or_false] at hx
    rcases hx with rfl | rfl | rfl | rfl | rfl <;> exact in_region (by decide) rfl (by decide) (by decide) (by decide) (by decide)
  all_goals first | (unfold untagged; decide) | (unfold fits; decide) | decide

/-- A load and a store in a region reach the page of `sm`; one marked NC they do not. -/
def xl0 : Xl := ⟨0x1100, some 0x1100, false, none⟩
def smn (w : Warp) : State := { sm w with pkg := (sm w).pkg.modCore 0 (fun k => { k with tlb := [{ tlb1 with nc := true }] }) }
def war (x : Region) : Warp := wrx x [(32, 0x11223344), (64, 0x1100)]

theorem witness_RegionAccesses :
    (∀ x ∈ [rg0, rgL, rgS, rg1], InRegion (sm (war x)) i0 (war x) (regionAccess .always (.ldst (widthOp .w32)) (r 0) (r 2)) 0 x ∧
      InRegion (sm (war x)) i0 (war x) (regionAccess .always (.src (widthOp .w32)) (r 1) (r 2)) 0 x) ∧
    untagged rg0 (r 2) 2 ∧ untagged rgL (r 2) 2 ∧ fits rg0 (regsAt (r 0) 1) ∧ counts (war rg0) i0 0 ∧ counts (war rg0) i0 1 ∧
    (sm (war rg0)).pkg.calm = true ∧ Fresh (sm (war rg0)) i0 ∧
    (∀ acc ∈ [Acc.load, .store], (reached (numbered (sm (war rg0)).pkg) i0 (gAddr (war rg0) i0 (r 2) 0) 4 acc).map (·.2) = some xl0) ∧
    (∀ p : Pkg, p.poisoned 0x1100 = false → plainPage p xl0 0x1100) ∧ (numbered (sm (war rg0)).pkg).poisoned 0x1100 = false ∧
    rgL.loads.length = 8 ∧ rgS.stores.length = 8 ∧ carries rg1 (r 1) 1 ⟨0, 0, 0, false⟩ ∧ untagged rg0 (r 1) 1 ∧
    unwatched (numbered (sm (war rg0)).pkg) i0 (gAddr (war rg0) i0 (r 2) 0) 4 true = true ∧
    InRegion (smn (war rg0)) i0 (war rg0) (regionAccess .always (.ldst (widthOp .w32)) (r 0) (r 2)) 0 rg0 ∧ (smn (war rg0)).pkg.calm = true ∧
    ((reached (numbered (smn (war rg0)).pkg) i0 (gAddr (war rg0) i0 (r 2) 0) 4 .load).map (fun y => y.2.nc)) = some true := by
  refine ⟨?_, by unfold untagged; decide, by unfold untagged; decide, by unfold fits; decide, .inr (by decide), .inr (by decide), by decide,
    ⟨by decide, by decide⟩, by decide, fun p hp => ⟨rfl, rfl, rfl, hp⟩, by decide, rfl, rfl, ⟨_, rfl, by decide, by decide, by decide⟩,
    by unfold untagged; decide, by decide, in_region (by decide) rfl (by decide) (by decide) (by decide) (by decide), by decide, by decide⟩
  intro x hx
  simp only [List.mem_cons, List.not_mem_nil, or_false] at hx
  rcases hx with rfl | rfl | rfl | rfl <;>
    exact ⟨in_region (by decide) rfl (by decide) (by decide) (by decide) (by decide), in_region (by decide) rfl (by decide) (by decide) (by decide) (by decide)⟩

/-! ## Queues without room, stores of the matrix unit, prefixes and decode faults -/

/-- Queue 0 bound, a predicate that a non-blocking form clears; and the same with class 3 full. -/
def wqb (n : Nat) : Warp := { wnb wqn with cnt := (Vector.replicate 7 0).set 3 n }
/-- The unit's input queue is full. -/
def sqf (w : Warp) : State := { st w with pkg := (st w).pkg.modCore 0 (fun k => { k with unitIn := [(3, List.range 64)] }) }

theorem witness_QueueTransfer_noRoom :
    Issues (sqf (wqb 0)) i0 (wqb 0) { qForm .always [(.call, .reg 4)] false with nb := true } ∧ nbOf (wqb 0) i0 ≠ none ∧
    lanesOf (acts (wqb 0) i0 .always) = [] ++ 0 :: [1] ∧
    eachLane (laneSend i0 (wqb 0) (sqf (wqb 0)).pkg.nextId 0 4) [] (numbered (sqf (wqb 0)).pkg) = some (numbered (sqf (wqb 0)).pkg) ∧
    (laneCall i0 (sqf (wqb 0)).pkg.nextId 0 4 0 (numbered (sqf (wqb 0)).pkg)).any (fun x => match x with | .wait => true | _ => false) = true ∧
    (eachLane (laneTurned i0 (wqb 0) (sqf (wqb 0)).pkg.nextId 0 4) [0, 1] (numbered (sqf (wqb 0)).pkg)).isSome = true ∧ (wqb 0).count 3 < 63 ∧
    Issues (st (wqb 63)) i0 (wqb 63) { qForm .always [(.call, .reg 4)] false with nb := true } ∧ 63 ≤ (wqb 63).count 3 ∧
    (eachLane (laneTurned i0 (wqb 63) (st (wqb 63)).pkg.nextId 0 4) [0, 1] (numbered (st (wqb 63)).pkg)).isSome = true ∧
    Issues (st (wqb 0)) i0 (wqb 0) { qForm .always [(.blockDst 16, .reg 16)] false with nb := true } ∧ (wqb 0).callFaults = [] ∧
    (wqb 0).retsOf 0 0 = [] :=
  ⟨issues_of (by decide) rfl rfl, by decide, by decide, rfl, by decide, by decide, by decide, issues_of (by decide) rfl rfl, by decide, by decide,
    issues_of (by decide) rfl rfl, rfl, by decide⟩

/-- The oldest operation of the unit writes a row of an accumulator at 0xD000. -/
def opW : MxOp := ⟨0, 3, 0, (smx (wmx 0)).pkg.descWords 0 0 (bmx (wmx 0)) 0xE000, [(0xD000, List.replicate 1536 0)], (0, []), false⟩

theorem witness_MatrixOperations_writes :
    (let s : State := { smx (wmx 0) with pkg := (smx (wmx 0)).pkg.modMx 0 (fun m => { m with owner := some 0, ops := [opW] }) }
     (s.pkg.core 0).mx.ops = opW :: [] ∧ s.pkg.block? 0 opW.slot = some (bmx (wmx 0)) ∧ opW.bad = false ∧ opW.writes = true) ∧
    (let t := descOf opW.words opW.step
     t.crow ≤ t.off 8 ∧ opW.rows.map (fun r => (r.1, r.2.length)) = (List.range t.rows).map (fun m => (t.crange.1 + m * t.off 8, t.crow))) :=
  ⟨⟨by decide +kernel, by decide +kernel, by decide, by decide⟩, by decide +kernel, by decide +kernel⟩

/-- The descriptor's words as they stand, with no copy in flight. -/
theorem witness_MatrixUnit_words : ∀ k < 16, DescWord (smx (wmx 0)).pkg iArm (bmx (wmx 0)) 0xE000 k
    (((smx (wmx 0)).pkg.descWords 0 0 (bmx (wmx 0)) 0xE000).getD k 0) := by
  intro k hk
  have h : ∀ k < 16, (smx (wmx 0)).pkg.copyAhead 0 0 (0xE000 + 4 * k) = none ∧
    ((smx (wmx 0)).pkg.descWords 0 0 (bmx (wmx 0)) 0xE000).getD k 0 = BitVec.ofNat 32 (ofBytes ((bmx (wmx 0)).readSp (0xE000 + 4 * k) 4)) := by decide
  obtain ⟨h1, h2⟩ := h k hk
  unfold DescWord; rw [show iArm.core = 0 from rfl, show iArm.slot = 0 from rfl, h1]; exact h2

/-- Split 0 in a prefix run `x`. -/
def wpx (x : Pfx) : Warp := { w0 with splits := [{ Split.free with mask := 3, st := .ready, pc := 0x1000, pfx := x }, Split.free, Split.free, Split.free] }

theorem witness_DecodeFaults :
    (∀ bad : Bool, let w := wpx { Pfx.none with words := 3, bad := bad }
      AtWord (st w) i0 w ∧ MayTrap (st w) i0 w (b0 w arm0) ∧ w.regions = [] ∧ (w.split 0).pfx.words = 3 ∧ (w.split 0).pfx.bad = bad) ∧
    majorOf 0x01FFFFFF = 0 ∧ majorOf 0xE4000002 = 0x72 ∧ majorOf 0xD0000000 = 0x68 ∧ PrefixWord (.pfxOff 1) ∧
    AtWord (sa arm0) iArm arm0 ∧ MayTrap (sa arm0) iArm arm0 (b0 w0 arm0) ∧
    (∀ e ∈ rules32, ∃ f, HasForm (e.1 .always (r 0) .lit (r 1)) f ∧ f.decodeFault false Pfx.none = some 0x02) ∧
    (∀ e ∈ rulesFloat2, ∃ f, HasForm (e.1 .always (r 0) (r 2) (r 4)) f ∧ f.decodeFault true Pfx.none = some 0x06) ∧
    (∃ f, HasForm (.ldSp .always (r 0) (.q 0) .w128) f ∧ f.decodeFault false { Pfx.none with md := some ⟨none, true, none, none⟩ } = some 0x02) ∧
    (∃ f, HasForm (.mma .always (r 0) (r 1)) f ∧ f.decodeFault false Pfx.none = some 0x06) ∧
    (∃ f, HasForm (.cpG2s .always (r 0) (.q 0)) f ∧ f.decodeFault false Pfx.none = some 0x01) ∧
    (∃ f, HasForm (.addI64 .always (r 1) (r 2) (r 4)) f ∧ f.decodeFault false Pfx.none = some 0x03) := by
  refine ⟨?_, by decide, by decide, by decide, .off 1, ⟨rfl, by decide, by decide⟩, ⟨by decide, by decide, by decide, rfl⟩, ?_, ?_, ?_, ?_, ?_, ?_⟩
  · intro bad
    cases bad <;> exact ⟨⟨rfl, by decide, by decide⟩, ⟨by decide, by decide, by decide, rfl⟩, rfl, rfl, rfl⟩
  · exact fun e he => ⟨_, .word e (List.mem_append_left _ he) .always (r 0) .lit (r 1), by decide⟩
  · exact fun e he => ⟨_, .float e he .always (r 0) (r 2) (r 4), rfl⟩
  · exact ⟨_, .scratch .always (r 0) (.q 0) .w128, by decide⟩
  · exact ⟨_, .matrix .always (r 0) (r 1), by decide⟩
  · exact ⟨_, .copy .always (r 0) (.q 0), by decide⟩
  · exact ⟨_, .pair _ (List.mem_cons_self ..) .always (r 1) (r 2) (r 4), by decide⟩

/-! ## Further cases of the front end, of engines and of resets -/

theorem witness_TlbInvalidation_busy_and_ControlLinks :
    (let s : State := { spod pod1 0 with mgmt := { Mgmt.reset with tlbRun := some (0, 1, 0) } }
     s.pkg.tlbBusyPods (0, 1, 0) = true) ∧ State.reset.pkg.sent = [] ∧ State.reset.pkg.calm = true ∧
    State.reset.pkg.barred xdie 0 = false ∧ State.reset.pkg.poisoned 0 = false ∧ State.reset.linkIsUp 0 = true ∧
    (let p : Pkg := { Pkg.reset with poison := [1] }; p.poisoned 64 = true ∧ p.barred xdie 64 = false ∧ noStash p) ∧
    (memSize ≤ (0x8000000000 : DWord).toNat ∧ (0x8000000000 : DWord).toNat < 2 ^ 63 ∧ 2 ^ 63 + 2 ^ 24 ≤ (0x8000000001000000 : DWord).toNat) ∧
    (∀ j < 8 / 4, 0xB00 + 4 * j ≠ 0x8 ∧ 0xB00 + 4 * j ≠ 0x1C08) := by
  exact ⟨by decide, rfl, by decide, by decide, by decide, by decide, ⟨by decide, by decide, by unfold noStash; decide⟩, by decide, by decide⟩

/-- A queue whose launch the linker examines, and one with a block on core 0 whose pod-remote access is under way. -/
def sex : State := { sq qa [] with pkg := { (sq qa []).pkg with launches := [(7, { Launch.fresh [] 0 none none 0 0 ctx0 0 with linking := true })] } }
def srs (x : List (Nat × Pod)) : State := { sq qa [] with pkg := { (sq qa []).pkg with
  cores := [(0, { Core.reset with blocks := [(0, b0 w0 arm0)] })], launches := [(0, ln0)], pods := x } }

theorem witness_QueueStates_waiting :
    ((sq qa []).fwAlive 0 = true ∧ (qOf (sq qa []) 0).enable = true) ∧
    ((qOf sex 0).st = .active ∧ sex.pkg.examining 0 = true ∧ (sq qa []).pkg.examining 0 = false) ∧
    (resetBegun (srs [(1, pod1)]).pkg 0).resetSettled 0 = false ∧ (resetBegun (srs []).pkg 0).resetSettled 0 = true ∧
    (match ((resetBegun (srs []).pkg 0).endBlocks 0).closeTrace 0 1 (some 1) with | .ok _ => true | .error _ => false) = true ∧
    (let s := sq { qa with st := .preempting, resetDue := true } []
     s.pkg.queueBlocks 0 = [] ∧ (qOf s 0).st = .preempting ∧ (qOf s 0).resetDue = true) ∧
    (let s := sq { qa with st := .preempting } []
     s.pkg.queueBlocks 0 = [] ∧ (qOf s 0).resetDue = false ∧ (qOf s 0).resumeDue = false) := by
  decide +kernel

/-- The trace of a queue whose sink stands on a die that is in reset: its CLOSE word waits. -/
def swt : State := { srs [] with pkg := { (srs []).pkg with
  mem := mem1 [], queues := [(0, { qa with cx := cx1 })]
  traces := [(0, ⟨0x8000, 32768, cx1, [], [], [], [], [], []⟩)]
  heldLines := [(0x80, [(0, false)])]
  dies := (List.range 4).map (fun d => (d, { Die.reset with inReset := decide (d ≠ 0) })) } }

theorem witness_QueueStates_sink :
    (match ((resetBegun swt.pkg 0).endBlocks 0).closeTrace 0 1 (some 1) with | .ok _ => false | .error _ => true) = true := by
  decide +kernel

theorem witness_FetchAndStart_entries :
    (let s : State := { sp 0 [] with pkg := { (sp 0 []).pkg with fwq := [(0, [⟨1, true, 0, none⟩])] } }
     s.fwAlive 0 = true ∧ s.pkg.nextFw 0 = some ⟨1, true, 0, none⟩) ∧
    (let s : State := { sp 0 [] with pkg := { (sp 0 []).pkg with fwq := [(0, [⟨0, false, 9, none⟩])] } }
     s.pkg.nextFw 0 = some ⟨0, false, 9, none⟩ ∧ (qOf s 0).stepOver 9 = true) ∧
    (let s : State := { sp 0 [] with pkg := { (sp 0 []).pkg with fwq := [(0, [⟨0, false, 0, none⟩])] } }
     (qOf s 0).stepOver 0 = false ∧ bits (recNat (pk 0 []).bytes 0 1) 6 0 ≤ 8) := by
  decide +kernel

/-- The state `full1` without a save area, and with core 0 holding a dirty byte of a line whose home die is in reset. -/
def full2 : State := { full1 with pkg := { full1.pkg with queues := [(0, qa)] } }
def barL1 (s : State) : State := { s with pkg := { s.pkg.modCore 0 (fun k => { k with l1 := { k.l1 with dirty := [(0x9000, 1)] } }) with dies := [(0, Die.reset), (1, { Die.reset with inReset := true })] } }

/-- Block k of a saved cluster of two blocks, and its launch. -/
def sv2 (k : Nat) : Saved := { savedB with block := { b0 w0 arm0 with index := k, clusterSize := 2, cpos := k } }
def l2 : Launch := { Launch.fresh (bytesAt ([(0x28, 2), (0x34, 0x12)] ++ rec1)) 0 (some 0) none 0 0 cx1 0 with st := .placing, args := some [], saved := [(0, sv2 0), (1, sv2 1)] }

theorem witness_SavesAndRestores :
    (match full1.pkg.eventVictims 7 (lr .ready 1) with
     | [x] => (full1.pkg.launch? x.2.2.launch).isSome && decide (full1.pkg.clusterOf x.2.2 = [x]) &&
         (full2.pkg.placeImages (qOf full2 (full2.pkg.queueOf x.2.2)) (full2.pkg.clusterOf x.2.2) (full2.pkg.images (full2.pkg.queueOf x.2.2))).isNone
     | _ => false) = true ∧
    (full2.pkg.eventVictims 7 (lr .ready 1)).length = 1 ∧
    (let l : Launch := { lr .placing 0 with saved := [(0, savedB)] }
     let s := lq l
     s.pkg.findRestore 7 l [(0, savedB)] = some ([0], 1) ∧ ([0] : List Nat).any s.pkg.l1Barred = false ∧ ([0] : List Nat).Nodup ∧
     List.filter (fun (e : Nat × Saved) => e.1 == 0 || (decide (1 < savedB.block.clusterSize) && e.2.block.cluster == savedB.block.cluster)) l.saved = [(0, savedB)] ∧
     (barL1 s).pkg.findRestore 7 l [(0, savedB)] = some ([0], 1) ∧ ([0] : List Nat).any (barL1 s).pkg.l1Barred = true) ∧
    (List.find? (fun e => (lq l2).pkg.wakes e.2) l2.saved = some (0, sv2 0) ∧
     List.filter (fun (e : Nat × Saved) => e.1 == 0 || (decide (1 < (sv2 0).block.clusterSize) && e.2.block.cluster == (sv2 0).block.cluster)) l2.saved = [(0, sv2 0), (1, sv2 1)] ∧
     (lq l2).pkg.imagePoisoned (sv2 1).base (sv2 1).size = false ∧
     (match (lq l2).pkg.findRestore 7 l2 [(0, sv2 0), (1, sv2 1)] with | some (cs, _) => decide (cs = [0, 1]) && !cs.any (lq l2).pkg.l1Barred | none => false) = true) := by
  decide +kernel

theorem witness_Placement_and_Halts :
    (lq (lr .ready 0)).pkg.l1Barred 0 = false ∧ (barL1 (lq (lr .ready 0))).pkg.l1Barred 0 = true ∧
    (barL1 (lq (lr .ready 0))).pkg.findPlace 7 (lr .ready 0) = some ([0], 1) ∧ (lr .ready 0).linking = false ∧ (lr .waitev 0).linking = false ∧
    (let w : Warp := { w0 with halt := .reached 64 0 }
     let s := sh w (.halting 0 .debug)
     let q := s.pkg.stopSibling 0 0 0 (min 0 (min 64 (s.pkg.cycOf 0 - 0).toNat))
     s.pkg.warp? 0 0 0 = some w ∧ w.landed = true ∧ (q.block? 0 0).any (fun b => b.mode == .halting 0 .debug && b.allStopped) = true) ∧
    (let w : Warp := stopd w0
     (sh w (.halting 0 .kill)).pkg.l1Barred 0 = false ∧ ((sh w (.halting 0 .kill)).pkg.block? 0 0).any (fun b => b.mode == .halting 0 .kill) = true) ∧
    (let w : Warp := { w0 with halt := .reached 64 0, frec := { FRec.zero with cause := 0x1D, imprecise := true } }
     (sh w (.halting 0 .debug)).pkg.warp? 0 0 0 = some w ∧ w.landed = true ∧ ((w.abortAll 0x0E).abortAll 0x0E).live ≠ 0 ∧ w.frec.imprecise = true) ∧
    (let w : Warp := { stopd w0 with frec := { FRec.zero with cause := 9 } }
     let b := bm w (.halting 0 .handler)
     (match b.warps.find? 0 with | some x => x.frec | none => FRec.zero).cause ≠ 0x1D) := by
  decide +kernel

/-- The copy of `scy` names the arrival barrier at 0x100, which expects an arrival, is not VALID, or is in no valid state. -/
def cpb : Copy := { cpy 0 with aben := true, abar := 0x100 }
def scb (v z : Bool) : State := { scy cpb with pkg := (scy cpb).pkg.setAbar 0 0 0x100 ⟨false, v, 2, if z then 3 else 0, 0, [8, 0, 0, 0, 0, 0, 0, 0], false⟩ }

/-- Its barrier stands in a stash window over a page whose home die is in reset. -/
def scw : State := { scb true false with pkg := { (scb true false).pkg.modBlock 0 0 (fun b => { b with stash := [(0, ⟨0x1000, 0, 0x1000, [(0, 0x1000)], [], [], [], [], []⟩)] }) with
  dies := [(0, Die.reset), (1, { Die.reset with inReset := true })] } }

theorem witness_CopyProgress :
    (let s := scy (cpy 0)
     s.pkg.copyHeld 0 1 = false ∧ (match s.pkg.copyDests (cpy 0) with
       | some ds => let r := Pkg.copyRun 0 1 ds (max 1 (8 / 4)) s.pkg (cpy 0); !s.pkg.deliveryWaits (cpy 0) ds && r.2.fault.isNone && r.2.written == 8
       | none => false) = true) ∧
    (∀ v z : Bool, let s := scb v z
     (match s.pkg.copyDests cpb with
       | some ds => let r := Pkg.copyRun 0 1 ds (max 1 (8 / 4)) s.pkg cpb
           !s.pkg.deliveryWaits cpb ds && r.2.fault.isNone && r.2.written == 8 && ((r.1.deliverAll r.2 ds 8).2 == (v && z))
       | none => false) = true ∧ (match s.pkg.spTouch 0 0 0x100 true with | .ok q => (q.abarAt 0 0 0x100).valid == v | .error _ => false) = true) ∧
    (match scw.pkg.copyDests cpb with | some ds => scw.pkg.deliveryWaits cpb ds | none => false) = true := by
  decide +kernel

theorem witness_Completions :
    (spl []).mayServe 1 = true ∧ (spl []).pkg.owed = [] ∧ (spl []).pkg.launches = [] ∧ State.reset.mayServe 1 = false ∧
    (st (wbk 5)).pkg.batchLeft 0 0x80 = false ∧
    (let s : State := { st (wbk 5) with pkg := (st (wbk 5)).pkg.setBack 0 0x80 { (st (wbk 5)).pkg.backAt 0 0x80 with batch := [(0, 0, 0, 0)] } }
     s.pkg.batchLeft 0 0x80 = true ∧ s.pkg.batchElse 1 0x80 = true ∧ s.pkg.batchElse 0 0x80 = false) := by
  decide +kernel

/-- Group 0 with messages of rank 1 to skip, and with transactions to package 1 that have had no answer. -/
theorem witness_GroupsAndMessages_lost :
    (let s := sg [(0, { gr2 with skip := [(1, 2)] })] [(0, cl1)]
     (s.pkg.admitColls.group 0).valid = true ∧ s.pkg.admitColls.link.linken = true ∧ (s.pkg.admitColls.group 0).skip.getD 1 0 ≠ 0 ∧ (gr2.skip.getD 1 0) = 0) ∧
    ((sg [(0, { gr2 with valid := false, reading := some 0x8000 })] []).pkg.group 0).reading = some 0x8000 ∧ gr2.reading = none ∧
    (∀ again v : Bool, let s := sg [(0, { gr2 with valid := v, out := [⟨1, 0, again, none⟩] })] []
     let t : State := { s with pkg := { s.pkg with ptime := 20000 } }
     (t.pkg.admitColls.group 0).out.findIdx? (fun o => o.to_ == 1 && decide (o.at_.toNat + 20000 ≤ t.pkg.admitColls.ptime.toNat)) = some 0 ∧
     (t.pkg.admitColls.group 0).valid = v ∧ t.pkg.admitColls.link.portUp ≠ 0 ∧
     (s.pkg.admitColls.group 0).out.all (fun o => !(o.to_ == 1 && decide (o.at_.toNat + 20000 ≤ s.pkg.admitColls.ptime.toNat))) = true) := by
  decide +kernel

theorem witness_PodTraffic_checked :
    (spod { pod1 with chk := some 0 } 0).pkg.pods.find? 1 = some { pod1 with chk := some 0 } ∧
    (sln.pkg.batchElse 4 0x50) = false ∧ ((spod pod1 20000).pkg.heldLines.getD (pod1.pa / 256) []) = [] ∧
    (let p : Pkg := { Pkg.reset with heldLines := [(0x80, [(0, false), (1, false)])] }; (p.heldLines.getD 0x80 []).length = 2) := by
  decide

/-- The part of a session on die 0 that owes its CLOSE word. -/
theorem witness_CountersAndSamples_close :
    let t : TraceSess := ⟨0x8000, 32768, cx1, [], [], [], [], [], [(0, 2)]⟩
    let s : State := { sq qa [] with pkg := { (sq qa []).pkg with traces := [(0, t)] } }
    s.pkg.traces.find? 0 = some t ∧ ((s.pkg.payClose 0 0).traces.find? 0).isSome = true ∧ (s.pkg.payClose 0 0 ≠ s.pkg) := by
  decide +kernel

/-- A scrub of sector pa on die d. -/
def ssc (pa : DWord) (d : Nat) : State := { State.reset with pkg := Pkg.reset.modDie d (fun x => { x with merr := { x.merr with scrub := some pa } }) }

theorem witness_StorageErrors_scrub :
    (let s := ssc 0x40 0
     (0x40 : DWord).toNat / 2 ^ 56 = 0 ∧ homeDie 0x40 = 0 ∧ s.pkg.barred 0 0x40 = false ∧ noStash s.pkg) ∧
    (homeDie 0x1000 = 1 ∧ ¬ (homeDie 0x1000 = 0)) ∧
    (let s : State := { ssc 0x40 0 with pkg := (ssc 0x40 0).pkg.modDie 0 (fun d => { d with rebuild := true, inReset := true }) }
     s.pkg.barred 0 0x40 = true ∧ (s.pkg.die 0).merr.scrub = some 0x40) := by
  refine ⟨⟨by decide, by decide, by decide, by unfold noStash; decide⟩, by decide, by decide⟩

/-- Die 0 runs block 0 of launch 0, of a queue in a state; it drains for the queues qs. -/
def sdr (z : QState) (qs : Option (List Nat)) : State :=
  let s := srs []
  { s with pkg := { s.pkg.modDie 0 (fun d => { d with drain := qs }) with queues := [(0, { qa with st := z })] } }

/-- A launch of packet 0 of queue 0 with its one block on die 0. -/
def scr : State :=
  let l : Launch := { lr .resident 0 with placed := 1, retired := 0 }
  { sq { qa with packets := [(0, { pk 1 rec1 with performed := true, launch := some 0 })] } [] with
    pkg := { (sq { qa with packets := [(0, { pk 1 rec1 with performed := true, launch := some 0 })] } []).pkg with
      launches := [(0, l)], cores := [(0, { Core.reset with blocks := [(0, b0 w0 arm0)] })] } }

/-- Die 0 drains; with a trace part there whose sink has to wait for die 1, or with none. -/
def str (d1 : Bool) : State :=
  let s : State := { State.reset with pkg := { Pkg.reset with
    mem := mem1 [], queues := [(0, { qa with st := .preempted, cx := cx1 })]
    traces := if d1 then [(0, ⟨0x9000, 32768, cx1, [], [], [], [], [], []⟩)] else []
    dies := [(0, { Die.reset with drain := some [0] }), (1, { Die.reset with inReset := d1 })] } }
  s

theorem witness_DieResets_draining :
    (let s := sdr .halted none
     s.pkg.resetBusy = false ∧ (s.pkg.die 0).inReset = false ∧ s.pkg.block? 0 0 = some (b0 w0 arm0) ∧
     (qOf s (s.pkg.queueOf (b0 w0 arm0))).st = .halted) ∧
    (let s := sdr .active none
     s.pkg.resetBusy = false ∧ s.pkg.queuesOn 0 = [0] ∧ (qOf s 0).st = .active ∧ (qOf s 0).preemptDue = false ∧ s.pkg.examining 0 = false) ∧
    (let s := sdr .active (some [0])
     ∃ q ∈ s.pkg.queuesOn 0, q ∈ [0] ∧ (s.pkg.queue q).st = .active ∧ (s.pkg.queue q).preemptDue = false) ∧
    (let s := sdr .preempting (some [0])
     (s.pkg.die 0).drain = some [0] ∧ ∀ q ∈ s.pkg.queuesOn 0, (s.pkg.queue q).st ≠ .active) ∧
    (let s := str false
     vacated (s.pkg.drainDie 0) 0 ∧ (match swept (s.pkg.drainDie 0) 0 with | .ok _ => true | .error _ => false) = true) ∧
    (let s := str true
     vacated (s.pkg.drainDie 0) 0 ∧ (match swept (s.pkg.drainDie 0) 0 with | .ok _ => false | .error _ => true) = true) := by
  unfold vacated
  decide +kernel

theorem witness_DieResets_quiet : let p := (str false).pkg.drainDie 0
    ¬ stillSaving p 0 ∧ enginesIdle p 0 ∧ ¬ saveWasRefused (str false).pkg 0 [0] ∧ ((p.die 0).drain).getD [] = [0] ∧ (p.queue 0).st = .preempted := by
  unfold stillSaving enginesIdle saveWasRefused
  decide +kernel

theorem witness_DieResets_crash :
    (scr.pkg.die 0).inReset = false ∧ (scr.pkg.launch? 0).any (fun l => !l.ending && l.st == .resident && l.packet == some 0) = true ∧
    Pkt 0 0 { pk 1 rec1 with performed := true, launch := some 0 } scr.pkg ∧ scr.pkg.blocksOn 0 ≠ [] ∧
    (∀ y ∈ scr.pkg.blocksOn 0, y.2.2.launch = 0) ∧ (∀ k ∈ scr.pkg.cores, dieOfCore k.1 = 0) ∧
    (∀ e ∈ scr.pkg.launches, e.2.parent ≠ some 0) := by
  refine ⟨by decide, by decide +kernel, by unfold Pkt; decide +kernel, by decide +kernel, by decide +kernel, by decide +kernel, by decide +kernel⟩

/-- An X-die with one queue that runs a block. -/
theorem witness_DieResets_xdie : let s := sdr .active none
    s.pkg.xreset = [] ∧ servedBy s.pkg 0 = [0] ∧ ((queueLost s 0 0 true).queue 0).st ≠ .preempting ∧
    (resetBegun (queueLost s 0 0 true) 0).resetSettled 0 = true ∧
    (match ((resetBegun (queueLost s 0 0 true) 0).endBlocks 0).closeTrace 0 1 (some 1) with | .ok _ => true | .error _ => false) = true := by
  decide +kernel

theorem witness_PowerAndThrottle_shutdown :
    (let r : Readings := ⟨List.replicate 32 950, List.replicate 96 0, List.replicate 96 750, []⟩
     let k := (State.reset.pkg.die 0).thr; let x := Readings.extremes (r.temp.take 32) (r.vcore.take 96)
     x.1 < 1000 ∧ 650 ≤ x.2 ∧ stageFor k.tHold k.tPace x.1 (decide (x.2 < 700) && k.low) = 3 ∧ k.stage < 3 ∧
     (State.reset.pkg.die 0).inReset = false ∧ (State.reset.pkg.die 0).drain = none) ∧
    (let r : Readings := ⟨List.replicate 32 1000, List.replicate 96 0, List.replicate 96 750, []⟩
     1000 ≤ (Readings.extremes (r.temp.take 32) (r.vcore.take 96)).1) ∧
    (let s : State := { State.reset with pkg := { Pkg.reset.modDie 0 (fun d => { d with inReset := true, thr := { d.thr with shut := true, cold := some 0 } }) with ptime := 10000000 } }
     (s.pkg.die 0).thr.cold = some 0 ∧ (s.pkg.die 0).thr.shut = true ∧ (s.pkg.die 0).inReset = true ∧ (0 : DWord).toNat + 10000000 ≤ s.pkg.ptime.toNat) ∧
    (State.reset.pkg.die 0).thr.cold = none ∧ (State.reset.pkg.die 0).thr.shut = false := by
  decide +kernel

/-! ## Ill-formed instructions (24 R437) -/

theorem test_store_of_s8 : (Instr.st .always (r 8) (r 2) .s8 .default).wellFormed = false := by decide
theorem test_scratchpad_store_of_s16 : (Instr.stSp .always (r 8) (r 2) .s16).wellFormed = false := by decide
theorem test_cas_of_zero : (Instr.atom .always .zero (r 2) .device .cas64).wellFormed = false := by decide
theorem test_scratchpad_cas_of_zero : (Instr.atomSp .always .zero (r 2) .block .cas32).wellFormed = false := by decide
theorem test_scratchpad_atom_of_die_scope : (Instr.atomSp .always (r 1) (r 2) .die .addI32).wellFormed = false := by decide
theorem test_acquire_of_128_bits : (Instr.ldAcq .always (r 4) (r 2) .block .w128).wellFormed = false := by decide
theorem test_release_of_s8 : (Instr.stRel .always (r 4) (r 2) .block .s8).wellFormed = false := by decide
theorem test_release_of_128_bits : (Instr.stRel .always (r 4) (r 2) .block .w128).wellFormed = false := by decide
theorem test_trap_of_the_breakpoint_code : (Instr.trap .always .zero 255).wellFormed = false := by decide
theorem test_give_of_no_registers : (Instr.poolGive .always 0).wellFormed = false := by decide
theorem test_take_of_no_registers : (Instr.poolTake .always 0).wellFormed = false := by decide

/-! ## Words of the encoding tables (07 R156-R174)

Each word is put together from the fields of its format. -/

theorem test_decode_prefix_and_integer :
    decodeTableWord 32 0x75D2840C = some (.setpF64 .always (.two 1) .lt (.reg 4) (.reg 6)) ∧
    decodeTableWord 32 0x01000DBE = some (.pfxMod (some 5) true (some 3) (some .ru)) ∧
    decodeTableWord 32 0x07C204FA = some (.addI64 .always (.reg 4) (.reg 4) .lit) ∧
    decodeTableWord 32 0x03B780E1 = some (.subI32 (.p 6) (.reg 111) (.reg 0) (.ix 0)) ∧
    decodeTableWord 32 0x05C0FC80 = some (.addiI32 .always (.reg 1) .zero 0x80) ∧
    decodeTableWord 32 0x0801F3FD = some (.madI32 (.p 0) (.reg 3) (.ix 3) .sq) ∧
    decodeTableWord 32 0x1BC286A1 = some (.srai .always (.reg 5) (.reg 6) 33) ∧
    decodeTableWord 32 0x1DC2867F = some (.ori .always (.reg 5) (.reg 6) 63) := by decide +kernel

theorem test_decode_moves_and_lanes :
    decodeTableWord 32 0x27C4C001 = some (.movi .always (.reg 9) 0x4001) ∧
    decodeTableWord 32 0x29FA7B08 = some (.brev .always (.q 0) (.q 7)) ∧
    decodeTableWord 32 0x2A410307 = some (.cvtI32F32 (.p 1) (.reg 2) (.reg 3)) ∧
    decodeTableWord 32 0x2DC08207 = some (.lxMix .always (.reg 1) (.reg 2) (.reg 3)) ∧
    decodeTableWord 32 0x31C08206 = some (.xlMinI32 .always (.reg 1) (.reg 2)) ∧
    decodeTableWord 32 0x33FE0207 = some (.ixadd .always (.reg 2) 3) ∧
    decodeTableWord 32 0x49C1040F = some (.scaleF64 .always (.reg 2) (.reg 4) (.reg 7)) ∧
    decodeTableWord 32 0x4BC10406 = some (.ceilF64 .always (.reg 2) (.reg 4)) := by decide +kernel

theorem test_decode_floating_and_predicates :
    decodeTableWord 32 0x65C08207 = some (.dot8I4 .always (.reg 1) (.reg 2) (.reg 3)) ∧
    decodeTableWord 32 0x69C08207 = some (.pk2E5m2 .always (.reg 1) (.reg 2) (.reg 3)) ∧
    decodeTableWord 32 0x6FC08223 = some (.upkI8 .always (.reg 1) (.reg 2) 3) ∧
    decodeTableWord 32 0x71FD0813 = some (.setpN32 .always .discard .ge (.reg 8) (.reg 9)) ∧
    decodeTableWord 32 0x76D72400 = some (.porn (.p 3) (.p 2) .pt (.p 1)) ∧
    decodeTableWord 32 0x79FE0801 = some (.v2p .always (.reg 8)) ∧
    decodeTableWord 32 0x80BFFBFF = some (.bra (.p 2) 0x1FFD 511) ∧
    decodeTableWord 32 0x85FE1E02 = some (.jmpr .always (.reg 30)) := by decide +kernel

theorem test_decode_control_and_memory :
    decodeTableWord 32 0x89FE044F = some (.barWait .always (.reg 4) 15) ∧
    decodeTableWord 32 0x8DC28603 = some (.abarWait .always (.reg 5) (.reg 6)) ∧
    decodeTableWord 32 0xA1C302A0 = some (.ld .always (.reg 6) (.reg 2) .w64 .default) ∧
    decodeTableWord 32 0xA3C402D0 = some (.st .always (.reg 8) (.reg 2) .w128 .noalloc) ∧
    decodeTableWord 32 0xA5C08260 = some (.ldSp .always (.reg 1) (.reg 2) .s16) ∧
    decodeTableWord 32 0xA9008207 = some (.ldv32Chk 4 (.reg 1) (.reg 2) (.reg 3)) ∧
    decodeTableWord 32 0xADC202CD = some (.atom .always (.reg 4) (.reg 2) .system .cas32) ∧
    decodeTableWord 32 0xB1C202AD = some (.stRel .always (.reg 4) (.reg 2) .device .w64) := by decide +kernel

theorem test_decode_ordered_and_queues :
    decodeTableWord 32 0xB3C00093 = some (.fence .always .die 0x13) ∧
    decodeTableWord 32 0xB5FE0302 = some (.stashWb .always (.reg 3)) ∧
    decodeTableWord 32 0xB7C02000 = some (.arBegin .always 16) ∧
    decodeTableWord 32 0xC5FE1005 = some (.qsend .always (.reg 16) 5) ∧
    decodeTableWord 32 0xC7D07C02 = some (.qrecv .always (.reg 32) 2) ∧
    decodeTableWord 32 0xC9C08804 = some (.cpMcast .always (.reg 1) (.reg 8)) ∧
    decodeTableWord 32 0xCBFE7C5F = some (.waitCnt .always 2 31) ∧
    decodeTableWord 32 0xCDC08803 = some (.collRs .always (.reg 1) (.reg 8)) := by decide +kernel

theorem test_decode_engines_and_system :
    decodeTableWord 32 0xCFC17C02 = some (.stkPop .always (.reg 2)) ∧
    decodeTableWord 32 0xD3C08800 = some (.mma .always (.reg 1) (.reg 8)) ∧
    decodeTableWord 32 0xE1FE7CFF = some (.brkpt .always) ∧
    decodeTableWord 32 0xE3C08802 = some (.evTest .always (.reg 1) (.reg 8)) ∧
    decodeTableWord 32 0xE5FE0801 = some (.feed .always (.reg 8)) ∧
    decodeTableWord 32 0xE7FE7CBF = some (.poolTake .always 63) ∧
    decodeTableWord 32 0xEBC08802 = some (.verPub .always (.reg 1) (.reg 8)) := by decide +kernel

theorem test_decode_refuses :
    ∀ w ∈ ([0x21C08207, 0x29C08210, 0x1DC082C0, 0x03FF8206, 0xADC202E0, 0xFE000000, 0xE7FE7C80, 0xB7C02001, 0xA3C40220, 0x71C88812, 0xAFC20280, 0xADFE020E] : List Nat), decodeTableWord 32 w = none := by decide +kernel


/-! ## Single instructions -/

/-- Register n of lane l of warp 0 after an instruction of `st w`. -/
def after (k : Instr) (w : Warp) (n l : Nat) : Option Word :=
  match exec k (st w) with
  | .next t => (t.pkg.warp? 0 0 0).map (fun v => v.rd n l)
  | _ => none

/-- The cause of the trap that warp 0 takes in an instruction of `st w` (23 R419). -/
def traps (k : Instr) (w : Warp) : Option Nat :=
  match exec k (st w) with
  | .next t => (t.pkg.warp? 0 0 0).map (fun v => v.frec.cause)
  | _ => none

/-- The example of 08 R181. -/
theorem test_bfe : after (.bfeI32 .always (r 2) (r 0) (r 1)) (wr [(0, 0xF0C30000), (32, 0x810)]) 2 0 = some 0xFFFFFFC3 ∧
    after (.bfeN32 .always (r 2) (r 0) (r 1)) (wr [(0, 0xF0C30000), (32, 0x810)]) 2 0 = some 0xC3 := by decide +kernel

/-- 08 R179-R180: wrap, the sign of an immediate, amounts modulo 32. -/
theorem test_integer_wraps : after (.addI32 .always (r 0) (r 0) (r 0)) (wr [(1, 0x80000001)]) 0 1 = some 2 ∧
    after (.addiI32 .always (r 0) (r 1) 0x80) (wr [(32, 1)]) 0 0 = some 0xFFFFFF81 ∧
    after (.shl .always (r 0) (r 1) (r 2)) (wr [(32, 1), (64, 33)]) 0 0 = some 2 ∧
    after (.madI32 .always (r 0) (r 1) (r 2)) (wr [(0, 7), (32, 0xFFFFFFFF), (64, 3)]) 0 0 = some 4 := by decide +kernel

/-- 08 R186: lane 0 reads lane 1 of the same register before it is written; lane 1 names no lane. -/
theorem test_lane_exchange : after (.lxFwd .always (r 0) (r 0) (r 1)) (wr [(0, 10), (1, 11), (32, 1), (33, 40)]) 0 0 = some 11 ∧
    after (.lxFwd .always (r 0) (r 0) (r 1)) (wr [(0, 10), (1, 11), (32, 1), (33, 40)]) 0 1 = some 11 := by decide +kernel

/-- 08 R187: bit j of `xl.bits` is lane j, and the sum wraps. -/
theorem test_votes : after (.xlBits .always (r 2) (r 0)) (wr [(1, 5)]) 2 0 = some 2 ∧
    after (.xlAddI32 .always (r 2) (r 0)) (wr [(0, 0xFFFFFFFF), (1, 3)]) 2 1 = some 2 := by decide +kernel

/-- 07 R165: a pair that names an odd register is cause 0x03, a register at the allocation cause 0x05. -/
theorem test_operand_faults : traps (.addI64 .always (r 1) (r 2) (r 4)) w0 = some 0x03 ∧
    traps (.addI32 .always (r 64) (r 0) (r 0)) w0 = some 0x05 := by decide +kernel

/-- IEEE 754: 1 + 1, and one half of the largest number's ulp rounds it to infinity. -/
theorem test_floating : after (.addF32 .always (r 0) (r 1) (r 1)) (wr [(32, 0x3F800000)]) 0 0 = some 0x40000000 ∧
    after (.addF32 .always (r 0) (r 1) (r 2)) (wr [(32, 0x7F7FFFFF), (64, 0x73000000)]) 0 0 = some 0x7F800000 := by decide +kernel

/-- 07 R162-R163: two literal chunks make 2^32, which the next instruction adds. -/
theorem test_literal : (match exec (.pfxLit 0x200) (st w0) with
    | .next t => (match exec (.pfxLit 0) t with
      | .next t => (match exec (.addI64 .always (r 4) (r 4) .lit) t with
        | .next t => (t.pkg.warp? 0 0 0).map (fun v => (v.rd 4 0, v.rd 5 0))
        | _ => none)
      | _ => none)
    | _ => none) = some (0, 1) := by decide +kernel

end Sys2Proof.Tests
end

/-! # Integer and control forms of chapter 08: lane forms, unary functions, votes and index registers -/

namespace Sys2Proof.Claim

open Sys2Proof.Machine

/-! ## Lane forms that write one word or a pair -/

theorem place_some {w : Warp} {m : Mask} {d : Operand} {n l r k : Nat} (h : place w m d n l r = some k) :
    m.getLsbD l = true ∧ k < n := by
  unfold place at h
  split at h
  · split at h
    · obtain ⟨hl, hb, hr⟩ := ‹_ ∧ _ ∧ _›
      cases h
      exact ⟨hl, by omega⟩
    · cases h
  · cases h

/-- Only the words of the lanes of `m` that have a register count. -/
theorem Wrote.congr {w v : Warp} {m : Mask} {d : Operand} {n : Nat} {val val' : Nat → Nat → Word}
    (h : Wrote w v m d n val) (he : ∀ l, m.getLsbD l = true → ∀ k < n, val l k = val' l k) :
    Wrote w v m d n val' where
  regs := by
    intro l hl r
    rw [h.regs l hl r]
    cases hp : place w m d n l r with
    | none => rfl
    | some k => exact he l (place_some hp).1 k (place_some hp).2
  poison := h.poison
  rest := h.rest

section LaneForms

variable {s : State} {i : Issuer} {w : Warp} {f : Form} {k : Instr} {p : Pos} {d : Operand}
  {val : Env → Warp → Nat → List Word}

/-- The checks of an issue do not look at what a form does in an atomic region. -/
theorem Issues.withRegion (h : Issues s i w f) (b : Bool) (t : TagRule) :
    Issues s i w { f with region := b, tag := t } := by
  obtain ⟨⟨⟨hc, hn⟩, hr⟩, hq, hs⟩ := h
  exact ⟨⟨⟨{ hc with }, hn⟩, hr⟩, hq, hs⟩

/-- An instruction that is a lane form of one word per lane. -/
theorem Issues.writes_one (h : Issues s i w f) (hd : (p, d) ∈ f.ops) (hk : exec k s = laneForm f d val s)
    {r : Nat → Word} (hr : ∀ l, val (envOf s i w f) w l = [r l]) : Writes k s i w f.guard d 1 (one r) := by
  obtain ⟨v, hv, he⟩ := laneForm_writes (n := 1) h hd (val := val) (fun l => by rw [hr]; rfl)
  refine ⟨v, hv.congr fun l _ j hj => ?_, hk.trans he⟩
  obtain rfl : j = 0 := by omega
  rw [hr]; rfl

/-- An instruction that is a lane form of a pair per lane. -/
theorem Issues.writes_two (h : Issues s i w f) (hd : (p, d) ∈ f.ops) (hk : exec k s = laneForm f d val s)
    {r : Nat → DWord} (hr : ∀ l, val (envOf s i w f) w l = wordsOf .w64 (r l)) :
    Writes k s i w f.guard d 2 (two r) := by
  obtain ⟨v, hv, he⟩ := laneForm_writes (n := 2) h hd (val := val) (fun l => by rw [hr]; rfl)
  refine ⟨v, hv.congr fun l _ j hj => ?_, hk.trans he⟩
  rw [hr]
  obtain rfl | rfl : j = 0 ∨ j = 1 := by omega
  · rfl
  · rfl

end LaneForms

/-! ## Words of the U format -/

theorem pack_eq_wordU (major : Nat) (g : Guard) (d a func : Nat) :
    Fields.pack ⟨major, guardCode g, d, a, func⟩ = wordU major g d a func := rfl

/-! ## Counts of bits -/

theorem popCount_eq_countP {n : Nat} (x : BitVec n) :
    popCount x = (List.range n).countP (fun i => x.getLsbD i) := List.countP_eq_length_filter.symm

/-- A search among the first numbers ends at the first place that passes. -/
theorem find?_range_getD {n k : Nat} {p : Nat → Bool} (hk : k < n) (hp : p k = true) (hlt : ∀ j < k, p j = false) :
    ((List.range n).find? p).getD n = k := by
  rw [List.find?_range_eq_some.2 ⟨hp, List.mem_range.2 hk, fun j hj => by rw [hlt j hj]; rfl⟩]; rfl

/-- The highest 1 bit is at the binary logarithm. -/
theorem leadZeros_eq_clzRule {n : Nat} (x : BitVec n) : leadZeros x = clzRule n x.toNat := by
  unfold leadZeros clzRule
  split
  · rename_i h
    obtain rfl : x = 0#n := BitVec.eq_of_toNat_eq (by simpa using h)
    rw [List.find?_range_eq_none.2 (by simp)]; rfl
  · rename_i h
    have hlog : x.toNat.log2 < n := (Nat.log2_lt h).2 x.isLt
    refine find?_range_getD (by omega) ?_ fun j hj => ?_
    · rw [show n - 1 - (n - 1 - x.toNat.log2) = x.toNat.log2 by omega]
      exact Nat.testBit_log2 h
    · exact Nat.testBit_lt_two_pow (Nat.lt_of_lt_of_le Nat.lt_log2_self (Nat.pow_le_pow_right (by omega) (by omega)))

/-- The bits below the count of trailing zeros are 0. -/
theorem getLsbD_of_lt_trailZeros {n : Nat} (x : BitVec n) {j : Nat} (hj : j < trailZeros x) : x.getLsbD j = false := by
  unfold trailZeros at hj
  cases h : (List.range n).find? (fun i => x.getLsbD i) with
  | none =>
    rw [h] at hj
    simpa using List.find?_range_eq_none.1 h j hj
  | some t =>
    rw [h] at hj
    simpa using (List.find?_range_eq_some.1 h).2.2 j hj

/-- The bit at the count of trailing zeros is 1 unless the count is the width. -/
theorem getLsbD_trailZeros {n : Nat} (x : BitVec n) (h : trailZeros x < n) : x.getLsbD (trailZeros x) = true := by
  unfold trailZeros at h ⊢
  cases hf : (List.range n).find? (fun i => x.getLsbD i) with
  | none => rw [hf] at h; exact absurd h (lt_irrefl n)
  | some t => exact (List.find?_range_eq_some.1 hf).1

theorem trailZeros_le {n : Nat} (x : BitVec n) : trailZeros x ≤ n := by
  unfold trailZeros
  cases hf : (List.range n).find? (fun i => x.getLsbD i) with
  | none => exact le_rfl
  | some t => exact (List.mem_range.1 (List.find?_range_eq_some.1 hf).2.1).le

/-- Powers of two divide a number up to its trailing zeros. -/
theorem mod_two_pow_eq_zero_iff {n : Nat} (x : BitVec n) {k : Nat} (hk : k ≤ n) :
    x.toNat % 2 ^ k = 0 ↔ k ≤ trailZeros x := by
  constructor
  · intro h
    by_contra hlt
    have hbit : (x.toNat % 2 ^ k).testBit (trailZeros x) = true := by
      rw [Nat.testBit_mod_two_pow]
      simp only [show trailZeros x < k by omega, decide_true, Bool.true_and]
      exact getLsbD_trailZeros x (by omega)
    rw [h, Nat.zero_testBit] at hbit
    cases hbit
  · intro h
    refine Nat.eq_of_testBit_eq fun j => ?_
    rw [Nat.testBit_mod_two_pow, Nat.zero_testBit]
    by_cases hj : j < k
    · simp only [hj, decide_true, Bool.true_and]
      exact getLsbD_of_lt_trailZeros x (by omega)
    · simp [hj]

theorem filter_range_le {t n : Nat} (h : t ≤ n) :
    (List.range (n + 1)).filter (fun k => decide (k ≤ t)) = List.range (t + 1) := by
  rw [show n + 1 = (t + 1) + (n - t) by omega, List.range_add, List.filter_append, List.filter_eq_self.2,
    List.filter_eq_nil_iff.2, List.append_nil]
  · intro k hk
    obtain ⟨j, -, rfl⟩ := List.mem_map.1 hk
    simp only [decide_eq_true_eq]; omega
  · intro k hk
    simp only [List.mem_range] at hk
    simp only [decide_eq_true_eq]; omega

theorem trailZeros_eq_ctzRule {n : Nat} (x : BitVec n) : trailZeros x = ctzRule n x.toNat := by
  unfold ctzRule
  have hsame : (List.range (n + 1)).filter (fun k => x.toNat % 2 ^ k == 0)
      = (List.range (n + 1)).filter (fun k => decide (k ≤ trailZeros x)) := by
    refine List.filter_congr fun k hk => ?_
    rw [Bool.eq_iff_iff, beq_iff_eq, decide_eq_true_eq]
    exact mod_two_pow_eq_zero_iff x (by simpa [Nat.lt_succ_iff] using hk)
  rw [hsame, filter_range_le (trailZeros_le x), List.length_range]; rfl

/-! ## Signs and widths -/

theorem zero_sub_eq_ofInt {n : Nat} (x : BitVec n) : 0#n - x = BitVec.ofInt n (-x.toInt) := by
  rw [BitVec.ofInt_neg, BitVec.ofInt_toInt, BitVec.zero_sub]

theorem abs_eq_ofInt {n : Nat} (x : BitVec n) : (if x.msb then 0#n - x else x) = BitVec.ofInt n |x.toInt| := by
  rw [BitVec.msb_eq_toInt]
  by_cases h : x.toInt < 0
  · rw [if_pos (by simpa using h), abs_of_neg h, zero_sub_eq_ofInt]
  · rw [if_neg (by simpa using h), abs_of_nonneg (by omega), BitVec.ofInt_toInt]

theorem signExtend_setWidth_eq_ofInt {n : Nat} (x : BitVec n) (k m : Nat) :
    (x.setWidth k).signExtend m = BitVec.ofInt m (BitVec.ofNat k x.toNat).toInt := by
  rw [BitVec.ofNat_toNat]; rfl

theorem setWidth_setWidth_eq_ofNat {n : Nat} (x : BitVec n) (k m : Nat) :
    (x.setWidth k).setWidth m = BitVec.ofNat m (x.toNat % 2 ^ k) :=
  BitVec.eq_of_toNat_eq (by simp)

/-! ## The functions of major 0x14 (08 R182) -/

/-- What a form does, given its result and its region tag rule. -/
abbrev Meaning2 := Guard → Operand → Operand → State → Host.Outcome State Fault Refusal

/-- The instruction of `e` has a meaning of the given shape, and its result is the rule's. -/
def Follows {α β : Type} (shape : (α → β) → TagRule → Meaning2) (e : Form2 × (α → β)) : Prop :=
  ∃ t, ∀ g d a s, exec (e.1 g d a) s = shape e.2 t g d a s

theorem Follows.of_exec {α β : Type} {shape : (α → β) → TagRule → Meaning2} {c : Form2} {m : Meaning2} {f r : α → β}
    {t : TagRule} (hc : ∀ g d a s, exec (c g d a) s = m g d a s) (hm : ∀ g d a s, m g d a s = shape f t g d a s)
    (hr : ∀ x, f x = r x) : Follows shape (c, r) :=
  ⟨t, fun g d a s => by rw [hc, hm, funext hr]⟩

theorem rulesUnary_follow : ∀ e ∈ rulesUnary, Follows int32a e := by
  simp only [rulesUnary, List.forall_mem_cons]
  refine ⟨?mov, ?not, ?neg, ?abs, ?popc, ?clz, ?ctz, ?brev, ?sext8, ?sext16, ?zext8, ?zext16, List.forall_mem_nil _⟩
  case mov => exact .of_exec (m := execMov) (fun _ _ _ _ => rfl) (fun _ _ _ _ => rfl) (fun _ => rfl)
  case not => exact .of_exec (m := execNot) (fun _ _ _ _ => rfl) (fun _ _ _ _ => rfl) (fun _ => rfl)
  case neg => exact .of_exec (m := execNegI32) (fun _ _ _ _ => rfl) (fun _ _ _ _ => rfl) zero_sub_eq_ofInt
  case abs => exact .of_exec (m := execAbsI32) (fun _ _ _ _ => rfl) (fun _ _ _ _ => rfl) abs_eq_ofInt
  case popc =>
    exact .of_exec (m := execPopc) (fun _ _ _ _ => rfl) (fun _ _ _ _ => rfl)
      (fun x => congrArg countWord (popCount_eq_countP x))
  case clz =>
    exact .of_exec (m := execClz) (fun _ _ _ _ => rfl) (fun _ _ _ _ => rfl)
      (fun x => congrArg countWord (leadZeros_eq_clzRule x))
  case ctz =>
    exact .of_exec (m := execCtz) (fun _ _ _ _ => rfl) (fun _ _ _ _ => rfl)
      (fun x => congrArg countWord (trailZeros_eq_ctzRule x))
  case brev => exact .of_exec (m := execBrev) (fun _ _ _ _ => rfl) (fun _ _ _ _ => rfl) (fun _ => rfl)
  case sext8 =>
    exact .of_exec (m := execSext8) (fun _ _ _ _ => rfl) (fun _ _ _ _ => rfl)
      (fun x => signExtend_setWidth_eq_ofInt x 8 32)
  case sext16 =>
    exact .of_exec (m := execSext16) (fun _ _ _ _ => rfl) (fun _ _ _ _ => rfl)
      (fun x => signExtend_setWidth_eq_ofInt x 16 32)
  case zext8 =>
    exact .of_exec (m := execZext8) (fun _ _ _ _ => rfl) (fun _ _ _ _ => rfl)
      (fun x => setWidth_setWidth_eq_ofNat x 8 32)
  case zext16 =>
    exact .of_exec (m := execZext16) (fun _ _ _ _ => rfl) (fun _ _ _ _ => rfl)
      (fun x => setWidth_setWidth_eq_ofNat x 16 32)

theorem rulesUnary64_follow : ∀ e ∈ rulesUnary64, Follows int64a e := by
  simp only [rulesUnary64, List.forall_mem_cons]
  refine ⟨?mov, ?neg, List.forall_mem_nil _⟩
  case mov => exact .of_exec (m := execMov64) (fun _ _ _ _ => rfl) (fun _ _ _ _ => rfl) (fun _ => rfl)
  case neg => exact .of_exec (m := execNegI64) (fun _ _ _ _ => rfl) (fun _ _ _ _ => rfl) zero_sub_eq_ofInt

theorem rulesNarrow_follow : ∀ e ∈ rulesNarrow, Follows (fun f _ => intNarrow f) e := by
  simp only [rulesNarrow, List.forall_mem_cons]
  refine ⟨?popc, ?clz, List.forall_mem_nil _⟩
  case popc =>
    exact .of_exec (m := execPopc64) (t := .concretize) (fun _ _ _ _ => rfl) (fun _ _ _ _ => rfl)
      (fun x => congrArg countWord (popCount_eq_countP x))
  case clz =>
    exact .of_exec (m := execClz64) (t := .concretize) (fun _ _ _ _ => rfl) (fun _ _ _ _ => rfl)
      (fun x => congrArg countWord (leadZeros_eq_clzRule x))

section Unary

variable {s : State} {i : Issuer} {w : Warp} {g : Guard} {d a : Operand}

theorem Follows.writes_int32a {e : Form2 × (Word → Word)} (he : Follows int32a e)
    (h : Issues s i w (Form.wa g [(.dst .w32, d), (.src .w32, a)])) :
    Writes (e.1 g d a) s i w g d 1 (one fun l => e.2 (src32 w i a l)) := by
  obtain ⟨t, hk⟩ := he
  exact (h.withRegion true t).writes_one (List.mem_cons_self ..) (hk g d a s) fun l => by rw [rd32_envOf]

theorem Follows.writes_int64a {e : Form2 × (DWord → DWord)} (he : Follows int64a e)
    (h : Issues s i w (Form.wa g [(.dst .w64, d), (.src .w64, a)])) :
    Writes (e.1 g d a) s i w g d 2 (two fun l => e.2 (src64 w i a l)) := by
  obtain ⟨t, hk⟩ := he
  exact (h.withRegion true t).writes_two (List.mem_cons_self ..) (hk g d a s) fun l => by rw [rd64_envOf]

theorem Follows.writes_intNarrow {e : Form2 × (DWord → Word)} (he : Follows (fun f _ => intNarrow f) e)
    (h : Issues s i w (Form.wa g [(.dst .w32, d), (.src .w64, a)])) :
    Writes (e.1 g d a) s i w g d 1 (one fun l => e.2 (src64 w i a l)) := by
  obtain ⟨_, hk⟩ := he
  exact (h.withRegion true .concretize).writes_one (List.mem_cons_self ..) (hk g d a s) fun l => by rw [rd64_envOf]

end Unary

theorem codes_of_major_0x14 : HasCodes 0x14 [(.mov, 0x00), (.mov64, 0x01), (.not, 0x02), (.negI32, 0x03),
    (.absI32, 0x04), (.popc, 0x05), (.clz, 0x06), (.ctz, 0x07), (.brev, 0x08), (.sext8, 0x09), (.sext16, 0x0A),
    (.zext8, 0x0B), (.zext16, 0x0C), (.negI64, 0x0D), (.popc64, 0x0E), (.clz64, 0x0F)] := by
  simp only [HasCodes, List.forall_mem_cons]
  refine ⟨?_, ?_, ?_, ?_, ?_, ?_, ?_, ?_, ?_, ?_, ?_, ?_, ?_, ?_, ?_, ?_, List.forall_mem_nil _⟩
  all_goals exact fun g d a => congrArg some (pack_eq_wordU 0x14 g _ _ _)

/-- Settles O2: every function of major 0x14 is a lane form whose result is the rule's. -/
theorem integerUnary : Obligations.IntegerUnary :=
  ⟨fun e he _ _ _ _ _ _ h => (rulesUnary_follow e he).writes_int32a h,
    fun e he _ _ _ _ _ _ h => (rulesUnary64_follow e he).writes_int64a h,
    fun e he _ _ _ _ _ _ h => (rulesNarrow_follow e he).writes_intNarrow h,
    codes_of_major_0x14⟩

/-! ## Masks of lanes -/

/-- A fold that sets the bits of a list of lanes. -/
theorem getLsbD_foldl_laneBit (ls : List Nat) (m : Mask) (j : Nat) :
    (ls.foldl (fun m l => m ||| laneBit l) m).getLsbD j = (m.getLsbD j || decide (j < 32 ∧ j ∈ ls)) := by
  induction ls generalizing m with
  | nil => simp
  | cons a t ih =>
    rw [List.foldl_cons, ih, BitVec.getLsbD_or, laneBit, BitVec.getLsbD_twoPow, Bool.eq_iff_iff]
    simp only [Bool.or_eq_true, Bool.and_eq_true, decide_eq_true_eq, List.mem_cons]
    grind

theorem getLsbD_maskOfList (ls : List Nat) (j : Nat) :
    (maskOfList ls).getLsbD j = decide (j < 32 ∧ j ∈ ls) := by
  rw [maskOfList, getLsbD_foldl_laneBit, show (0 : Mask).getLsbD j = false from BitVec.getLsbD_zero, Bool.false_or]

theorem maskOf_eq_maskOfList (f : Nat → Bool) : maskOf f = maskOfList (allLanes.filter f) := by
  rw [maskOf, maskOfList, List.foldl_filter]

theorem getLsbD_maskOf (f : Nat → Bool) (j : Nat) : (maskOf f).getLsbD j = (decide (j < 32) && f j) := by
  rw [maskOf_eq_maskOfList, getLsbD_maskOfList, Bool.eq_iff_iff]
  simp [allLanes]

/-! ## Votes and reductions (08 R187) -/

/-- The values that lanes bring to a vote. -/
def ballot (ls : List Nat) (val : Nat → Word) : List (Nat × Word) := ls.map (fun k => (k, val k))

theorem mem_ballot {ls : List Nat} {val : Nat → Word} {v : Nat × Word} :
    v ∈ ballot ls val ↔ v.1 ∈ ls ∧ v.2 = val v.1 := by
  obtain ⟨k, x⟩ := v
  simp only [ballot, List.mem_map, Prod.mk.injEq]
  constructor
  · rintro ⟨k, hk, rfl, rfl⟩
    exact ⟨hk, rfl⟩
  · rintro ⟨hk, rfl⟩
    exact ⟨k, hk, rfl, rfl⟩

theorem voteMask_eq_maskOf (t : Word → Bool) (vs : List (Nat × Word)) :
    voteMask t vs = maskOf (fun j => vs.any (fun v => v.1 == j && t v.2)) := by
  refine BitVec.eq_of_getLsbD_eq fun j hj => ?_
  rw [voteMask, getLsbD_maskOfList, getLsbD_maskOf, Bool.eq_iff_iff]
  simp only [Bool.and_eq_true, decide_eq_true_eq, List.any_eq_true, beq_iff_eq, List.mem_map, List.mem_filter]
  grind

theorem boolWord_eq_ite {b : Bool} {P : Prop} [Decidable P] (h : b = true ↔ P) :
    boolWord b = if P then 1 else 0 := if_congr h rfl rfl

/-- The values all equal the first one exactly when they are all equal. -/
theorem all_eq_head_iff (vs : List (Nat × Word)) :
    vs.all (fun v => v.2 == (vs.map Prod.snd).headD 0) = true ↔ ∀ v ∈ vs, ∀ u ∈ vs, v.2 = u.2 := by
  cases vs with
  | nil => simp
  | cons x t =>
    simp only [List.map_cons, List.headD_cons, List.all_eq_true, beq_iff_eq]
    exact ⟨fun h v hv u hu => (h v hv).trans (h u hu).symm, fun h v hv => h v hv x (List.mem_cons_self ..)⟩

/-- The entry of a lane among the values, when it takes part. -/
theorem find?_ballot (ls : List Nat) (val : Nat → Word) (l : Nat) :
    (ballot ls val).find? (fun v => v.1 == l) = if l ∈ ls then some (l, val l) else none := by
  induction ls with
  | nil => rfl
  | cons a t ih =>
    rw [ballot, List.map_cons, List.find?_cons]
    by_cases h : a = l
    · subst h; simp
    · rw [show ((a, val a).1 == l) = false by simpa using h]
      have hmem : (l ∈ a :: t) = (l ∈ t) := by simp [show ¬ l = a from fun e => h e.symm]
      simp only [hmem]
      exact ih

/-- The peers of a lane are the lanes that hold its value. -/
theorem peers_ballot (ls : List Nat) (val : Nat → Word) (l : Nat) :
    (match (ballot ls val).find? (fun v => v.1 == l) with
      | some own => voteMask (fun x => x == own.2) (ballot ls val)
      | none => 0) =
    maskOf (fun j => (ballot ls val).any (fun v => v.1 == j &&
      (ballot ls val).any (fun u => u.1 == l && u.2 == v.2))) := by
  have hown : ∀ x, (ballot ls val).any (fun u => u.1 == l && u.2 == x) = decide (l ∈ ls ∧ val l = x) := by
    intro x
    rw [Bool.eq_iff_iff]
    simp only [List.any_eq_true, mem_ballot, Bool.and_eq_true, beq_iff_eq, decide_eq_true_eq]
    constructor
    · rintro ⟨u, ⟨hu, hv⟩, rfl, rfl⟩
      exact ⟨hu, hv.symm⟩
    · rintro ⟨hl, rfl⟩
      exact ⟨(l, val l), ⟨hl, rfl⟩, rfl, rfl⟩
  rw [find?_ballot]
  by_cases h : l ∈ ls
  · simp only [h, if_true, voteMask_eq_maskOf, hown, true_and]
    congr; funext j; congr; funext v
    simp [eq_comm, beq_eq_decide]
  · refine BitVec.eq_of_getLsbD_eq fun j _ => ?_
    simp [h, hown, getLsbD_maskOf]

/-- A reduction by an operation with a neutral element. -/
theorem reduce_eq_foldl {op : Word → Word → Word} {e : Word} (he : ∀ x, op e x = x) {vs : List (Nat × Word)}
    (hvs : vs ≠ []) : reduce op vs = (vs.map (fun v => v.2)).foldl op e := by
  cases vs with
  | nil => exact absurd rfl hvs
  | cons v t => rw [List.map_cons, List.foldl_cons, he, List.foldl_map, reduce]

/-- A reduction that is an operation on the integers of the values. -/
theorem reduce_eq_ofInt {op : Word → Word → Word} {m : Int → Int → Int}
    (hop : ∀ x y, (op x y).toInt = m x.toInt y.toInt) (hm : ∀ x, m x x = x) (vs : List (Nat × Word)) :
    reduce op vs = BitVec.ofInt 32
      ((vs.map (fun v => v.2.toInt)).foldl m ((vs.map (fun v => v.2.toInt)).headD 0)) := by
  cases vs with
  | nil => rfl
  | cons v t =>
    rw [reduce, ← BitVec.ofInt_toInt (x := t.foldl _ _), List.map_cons, List.headD_cons, List.foldl_cons, hm,
      List.foldl_map, List.foldl_hom BitVec.toInt (g₁ := fun x (y : Nat × Word) => op x y.2)]
    exact fun x y => (hop x y.2).symm

theorem ofNat_sum_eq_foldl (vs : List (Nat × Word)) :
    (vs.map (fun v => v.2)).foldl (· + ·) 0 = BitVec.ofNat 32 ((vs.map (fun v => v.2.toNat)).sum) := by
  rw [← List.sum_eq_foldl]
  induction vs with
  | nil => rfl
  | cons v t ih => simp only [List.map_cons, List.sum_cons, BitVec.ofNat_add, ih]; simp

theorem toInt_min (x y : Word) : (if y.slt x then y else x).toInt = min x.toInt y.toInt := by
  rw [BitVec.slt_eq_decide]
  by_cases h : y.toInt < x.toInt
  · rw [if_pos (by simpa using h), min_eq_right h.le]
  · rw [if_neg (by simpa using h), min_eq_left (by omega)]

theorem toInt_max (x y : Word) : (if x.slt y then y else x).toInt = max x.toInt y.toInt := by
  rw [BitVec.slt_eq_decide]
  by_cases h : x.toInt < y.toInt
  · rw [if_pos (by simpa using h), max_eq_right h.le]
  · rw [if_neg (by simpa using h), max_eq_left (by omega)]

/-- The instruction of `e` is a vote whose result, where some lane takes part, is the rule's. -/
def FollowsVote (e : Form2 × (List (Nat × Word) → Nat → Word)) : Prop :=
  ∃ f, (∀ g d a s, exec (e.1 g d a) s = laneVote f g d a s) ∧
    ∀ ls val l, ballot ls val ≠ [] → f (ballot ls val) l = e.2 (ballot ls val) l

theorem FollowsVote.of_exec {c : Form2} {m : Meaning2} {f r : List (Nat × Word) → Nat → Word}
    (hc : ∀ g d a s, exec (c g d a) s = m g d a s) (hm : ∀ g d a s, m g d a s = laneVote f g d a s)
    (hr : ∀ ls val l, ballot ls val ≠ [] → f (ballot ls val) l = r (ballot ls val) l) : FollowsVote (c, r) :=
  ⟨f, fun g d a s => (hc g d a s).trans (hm g d a s), hr⟩

theorem rulesVote_follow : ∀ e ∈ rulesVote, FollowsVote e := by
  simp only [rulesVote, List.forall_mem_cons]
  refine ⟨?all, ?any, ?bits, ?same, ?peers, ?add, ?min, ?max, ?and, ?or, ?xor, List.forall_mem_nil _⟩
  case all =>
    exact .of_exec (m := execXlAll) (fun _ _ _ _ => rfl) (fun _ _ _ _ => rfl)
      fun _ _ _ _ => boolWord_eq_ite (by simp)
  case any =>
    exact .of_exec (m := execXlAny) (fun _ _ _ _ => rfl) (fun _ _ _ _ => rfl)
      fun _ _ _ _ => boolWord_eq_ite (by simp)
  case bits =>
    exact .of_exec (m := execXlBits) (fun _ _ _ _ => rfl) (fun _ _ _ _ => rfl)
      fun _ _ _ _ => voteMask_eq_maskOf _ _
  case same =>
    exact .of_exec (m := execXlSame) (fun _ _ _ _ => rfl) (fun _ _ _ _ => rfl)
      fun _ _ _ _ => boolWord_eq_ite (all_eq_head_iff _)
  case peers =>
    exact .of_exec (m := execXlPeers) (fun _ _ _ _ => rfl) (fun _ _ _ _ => rfl)
      fun ls val l _ => peers_ballot ls val l
  case add =>
    exact .of_exec (m := execXlAddI32) (fun _ _ _ _ => rfl) (fun _ _ _ _ => rfl)
      fun _ _ _ h => (reduce_eq_foldl BitVec.zero_add h).trans (ofNat_sum_eq_foldl _)
  case min =>
    exact .of_exec (m := execXlMinI32) (fun _ _ _ _ => rfl) (fun _ _ _ _ => rfl)
      fun _ _ _ _ => reduce_eq_ofInt toInt_min min_self _
  case max =>
    exact .of_exec (m := execXlMaxI32) (fun _ _ _ _ => rfl) (fun _ _ _ _ => rfl)
      fun _ _ _ _ => reduce_eq_ofInt toInt_max max_self _
  case and =>
    exact .of_exec (m := execXlAnd) (fun _ _ _ _ => rfl) (fun _ _ _ _ => rfl)
      fun _ _ _ h => reduce_eq_foldl (fun _ => BitVec.allOnes_and) h
  case or =>
    exact .of_exec (m := execXlOr) (fun _ _ _ _ => rfl) (fun _ _ _ _ => rfl)
      fun _ _ _ h => reduce_eq_foldl (fun _ => BitVec.zero_or) h
  case xor =>
    exact .of_exec (m := execXlXor) (fun _ _ _ _ => rfl) (fun _ _ _ _ => rfl)
      fun _ _ _ h => reduce_eq_foldl (fun _ => BitVec.zero_xor) h

theorem lanesOf_ne_nil {m : Mask} (h : m ≠ 0) : lanesOf m ≠ [] := by
  intro hnil
  refine h (BitVec.eq_of_getLsbD_eq fun j hj => ?_)
  have hout : j ∉ lanesOf m := by rw [hnil]; exact List.not_mem_nil
  simpa [mem_lanesOf, hj] using hout

section Votes

variable {s : State} {i : Issuer} {w : Warp} {g : Guard} {d a : Operand}

theorem FollowsVote.writes {e : Form2 × (List (Nat × Word) → Nat → Word)} (he : FollowsVote e)
    (h : Issues s i w (Form.w g [(.dst .w32, d), (.src .w32, a)])) :
    Writes (e.1 g d a) s i w g d 1
      (one fun l => e.2 ((lanesOf (acts w i g)).map (fun k => (k, src32 w i a k))) l) := by
  obtain ⟨f, hk, hf⟩ := he
  refine h.writes_one (List.mem_cons_self ..) (hk g d a s) fun l => ?_
  have hne : ballot (lanesOf (acts w i g)) (src32 w i a) ≠ [] :=
    fun hnil => lanesOf_ne_nil h.lanes (List.map_eq_nil_iff.1 hnil)
  simp only [rd32_envOf]
  exact congrArg (fun x => [x]) (hf _ _ l hne)

theorem xlBelow_writes (h : Issues s i w (Form.w g [(.dst .w32, d)])) :
    Writes (.xlBelow g d) s i w g d 1 (one fun l => BitVec.ofNat 32 (2 ^ l - 1)) :=
  h.writes_one (List.mem_cons_self ..) (show exec (.xlBelow g d) s = execXlBelow g d s from rfl) fun _ => rfl

end Votes

theorem codes_of_major_0x18 : HasCodes 0x18 [(.xlAll, 0x00), (.xlAny, 0x01), (.xlBits, 0x02), (.xlSame, 0x03),
    (.xlPeers, 0x04), (.xlAddI32, 0x05), (.xlMinI32, 0x06), (.xlMaxI32, 0x07), (.xlAnd, 0x08), (.xlOr, 0x09),
    (.xlXor, 0x0A)] := by
  simp only [HasCodes, List.forall_mem_cons]
  refine ⟨?_, ?_, ?_, ?_, ?_, ?_, ?_, ?_, ?_, ?_, ?_, List.forall_mem_nil _⟩
  all_goals exact fun g d a => congrArg some (pack_eq_wordU 0x18 g _ _ _)

/-- Settles O4: every function of major 0x18 is a vote whose result is the rule's, as some lane takes part. -/
theorem votesAndReductions : Obligations.VotesAndReductions :=
  ⟨fun e he _ _ _ _ _ _ h => (rulesVote_follow e he).writes h,
    fun _ _ _ _ _ h => xlBelow_writes h,
    codes_of_major_0x18,
    fun g d => congrArg some (pack_eq_wordU 0x18 g (operandCode d) 124 0x0B)⟩

/-! ## Index registers (08 R183) -/

theorem ix_setIx (w : Warp) (x l : Nat) (v : Word) (hl : l < 32) (y j : Nat) (hj : j < 32) :
    (w.setIx x l v).ix y j = if j = l ∧ y = x then v &&& 0xFFFFC1FF else w.ix y j := by
  unfold Warp.ix Warp.setIx
  by_cases h : j = l ∧ y = x
  · obtain ⟨rfl, rfl⟩ := h
    simp
  · rw [if_neg h, KMap.getD_setD_ne (by omega)]

/-- Index register x of some lanes set, one lane after another, to a value of the lane and of the register before. -/
def setIxs (x : Nat) (val : Nat → Word → Word) (ls : List Nat) (w : Warp) : Warp :=
  ls.foldl (fun w l => w.setIx x l (val l (w.ix x l))) w

theorem ix_setIxs (x : Nat) (val : Nat → Word → Word) {ls : List Nat} (hn : ls.Nodup) (hls : ∀ l ∈ ls, l < 32)
    (w : Warp) (y : Nat) {l : Nat} (hl : l < 32) :
    (setIxs x val ls w).ix y l = if l ∈ ls ∧ y = x then val l (w.ix x l) &&& 0xFFFFC1FF else w.ix y l := by
  unfold setIxs
  induction ls generalizing w with
  | nil => simp
  | cons a t ih =>
    obtain ⟨ha, ht⟩ := List.nodup_cons.1 hn
    obtain ⟨hla, hlt⟩ := List.forall_mem_cons.1 hls
    rw [List.foldl_cons, ih ht hlt, ix_setIx _ _ _ _ hla _ _ hl, ix_setIx _ _ _ _ hla _ _ hl]
    by_cases h : l = a
    · subst h
      simp [ha]
    · simp [h]

theorem setIxs_rest (x : Nat) (val : Nat → Word → Word) (ls : List Nat) (w : Warp) :
    setIxs x val ls w = { w with xs := (setIxs x val ls w).xs } := by
  unfold setIxs
  induction ls generalizing w with
  | nil => rfl
  | cons a t ih => rw [List.foldl_cons, ih]; rfl

theorem wroteIx_setIxs (w : Warp) (m : Mask) (x : Nat) (val : Nat → Word → Word) :
    WroteIx w (setIxs x val (lanesOf m) w) m x (fun l => val l (w.ix x l)) where
  ixs := by
    intro l hl y
    have hn : (lanesOf m).Nodup := List.nodup_range.filter _
    rw [ix_setIxs x val hn (fun l h => (mem_lanesOf.1 h).1) w y hl]
    simp only [mem_lanesOf, hl, true_and]
  rest := setIxs_rest ..

/-- OFF moves by a signed amount modulo 512, and the bits above it stay. -/
theorem movedOff_eq (v b : Word) : (v &&& 0xFFFFFE00) ||| ((v + b) &&& 0x1FF) =
    BitVec.ofNat 32 (v.toNat / 512 * 512 + (((v.toNat : Int) + b.toInt) % 512).toNat) := by
  have hhigh : v &&& (0xFFFFFE00 : Word) = (v >>> 9) <<< 9 := by
    refine BitVec.eq_of_getLsbD_eq fun j hj => ?_
    interval_cases j <;> simp
  have hlow : ((v + b) &&& 0x1FF).toNat = (v + b).toNat % 512 := by
    rw [BitVec.toNat_and]; exact Nat.and_two_pow_sub_one_eq_mod _ 9
  have hsum : (((v.toNat : Int) + b.toInt) % 512).toNat = (v + b).toNat % 512 := by
    rw [BitVec.toInt_eq_toNat_cond, BitVec.toNat_add]
    split <;> omega
  have hdisj : (v &&& 0xFFFFFE00) &&& ((v + b) &&& 0x1FF) = 0#32 := by
    rw [BitVec.and_assoc, BitVec.and_comm 0xFFFFFE00, BitVec.and_assoc]
    exact (congrArg (v &&& ·) BitVec.and_zero).trans BitVec.and_zero
  rw [hsum, ← BitVec.add_eq_or_of_and_eq_zero _ _ hdisj]
  refine BitVec.eq_of_toNat_eq ?_
  rw [BitVec.toNat_add, BitVec.toNat_ofNat, hlow, hhigh, BitVec.toNat_shiftLeft, BitVec.toNat_ushiftRight,
    Nat.shiftLeft_eq, Nat.shiftRight_eq_div_pow]
  omega

section IndexRegisters

variable {s : State} {i : Issuer} {w : Warp} {f : Form} {k : Instr}

/-- An instruction that sets an index register of its lanes and does nothing else. -/
theorem Issues.setsIxs (h : Issues s i w f) {change : Env → Warp → Warp} {x : Nat} {val : Nat → Word → Word}
    (hk : exec k s = perform f (fun e p => Res.ok (e.modWarp p (change e))) s)
    (hc : change (envOf s i w f) w = setIxs x val (lanesOf (acts w i f.guard)) w) :
    ∃ v, WroteIx w v (acts w i f.guard) x (fun l => val l (w.ix x l)) ∧ exec k s = .next (done s s.pkg i w v) := by
  refine ⟨_, wroteIx_setIxs w (acts w i f.guard) x val, ?_⟩
  have hb := h.became.modWarp (change (envOf s i w f))
  rw [hc] at hb
  rw [hk]
  refine perform_done h rfl hb ?_ ?_
  · rw [setIxs_rest]
  · rw [setIxs_rest]

variable {g : Guard} {a d : Operand} {x : Fin 4}

theorem ixset_sets (h : Issues s i w (Form.w g [(.src .w32, a)])) :
    ∃ v, WroteIx w v (acts w i g) x.val (fun l => src32 w i a l) ∧
      exec (.ixset g a x) s = .next (done s s.pkg i w v) := by
  refine h.setsIxs (val := fun l _ => src32 w i a l) (show exec (.ixset g a x) s = execIxset g a x s from rfl) ?_
  simp only [rd32_envOf]
  rfl

theorem ixadd_sets (h : Issues s i w (Form.w g [(.src .w32, a)])) :
    ∃ v, WroteIx w v (acts w i g) x.val (fun l =>
        BitVec.ofNat 32 ((w.ix x.val l).toNat / 512 * 512 +
          ((((w.ix x.val l).toNat : Int) + (src32 w i a l).toInt) % 512).toNat)) ∧
      exec (.ixadd g a x) s = .next (done s s.pkg i w v) := by
  refine h.setsIxs
    (val := fun l v => BitVec.ofNat 32 (v.toNat / 512 * 512 + (((v.toNat : Int) + (src32 w i a l).toInt) % 512).toNat))
    (show exec (.ixadd g a x) s = execIxadd g a x s from rfl) ?_
  simp only [rd32_envOf, movedOff_eq]
  rfl

theorem ixget_writes (h : Issues s i w (Form.w g [(.dst .w32, d)])) :
    Writes (.ixget g d x) s i w g d 1 (one fun l => w.ix x.val l &&& 0xFFFFC1FF) :=
  h.writes_one (List.mem_cons_self ..) (show exec (.ixget g d x) s = execIxget g d x s from rfl) fun _ => rfl

end IndexRegisters

/-- Settles O5: each form acts on the lanes that take part one after another, and no lane sees another's register. -/
theorem indexRegisters : Obligations.IndexRegisters :=
  ⟨fun _ _ _ _ _ _ h => ixset_sets h,
    fun _ _ _ _ _ _ h => ixadd_sets h,
    fun _ _ _ _ _ _ h => ixget_writes h,
    fun g o x => ⟨congrArg some ((pack_eq_wordU 0x19 g 124 (operandCode o) x.val).trans (by rw [Nat.zero_add])),
      congrArg some (pack_eq_wordU 0x19 g 124 (operandCode o) (0x04 + x.val)),
      congrArg some (pack_eq_wordU 0x19 g (operandCode o) 124 (0x08 + x.val))⟩⟩

end Sys2Proof.Claim
